-- ==== Sys2Proof/Word.lean ====
section
/-!
DEFINITION. The words of the PW40 (R6, R7): 32-bit words, bytes, and the sparse maps in which the model holds
everything that the module has many of (cores, regions, ports, memory bytes).
-/
namespace Sys2Proof

/-- A 32-bit word: a scalar register, a vector lane, a control-space register. -/
abbrev Word := BitVec 32

/-- One byte of memory. -/
abbrev Byte := BitVec 8

/-- A sparse map from numbers: pairs in strictly rising key order, none of them holding the map's default value.
It is plain data; `Sys2Proof.Machine.SMap.get` and `.set` (Machine/Ops.lean) read and write it. -/
abbrev SMap (α : Type) := List (Nat × α)

/-- The nominal rate of the fast clock to the always-on clock: one ac equals 28 fc (R8, Table 3). -/
abbrev fcPerAc : Nat := 28

end Sys2Proof
end

