-- ==== Sys2Proof/Syntax.lean ====
section
/-!
DEFINITION. The commands of the PW40: one constructor per row of spec/opcode_table.json, with the row's operands.
A core-slot row carries the slot's operand fields (Tables 3 to 5 of "The Core"); an event row carries what the
environment decides (a sample, a light level, a peer's answer); an Eloap row carries the descriptor's operands (R407)
and where it came from.
-/
namespace Sys2Proof

/-! ### Names of things (R14, R15) -/

/-- A physical core: a tile, a cluster of it, and a core 0 to 15 or the spare, 16 (R14, R15, R39). -/
structure PCore where
  tile    : Fin 40
  cluster : Fin 40
  core    : Fin 17
deriving DecidableEq, Repr

/-- A cluster of a tile. -/
structure ClusterRef where
  tile    : Fin 40
  cluster : Fin 40
deriving DecidableEq, Repr

/-- A region, 0 to 399 (R14). -/
abbrev RegionRef := Fin 400

/-- An optical port, tile × 4 + port (R14, R366). -/
abbrev PortRef := Fin 160

/-- A ring channel, 0 to 575 (R208). -/
abbrev RingChan := Fin 576

/-- A scalar register s0 to s31. -/
abbrev SReg := BitVec 5
/-- A predicate register p0 to p7. -/
abbrev PReg := BitVec 3
/-- A vector register v0 to v31. -/
abbrev VReg := BitVec 5
/-- A slot's guard: N in bit 3 and a predicate in bits 2 to 0 (R72). -/
abbrev Guard := BitVec 4

/-- The four slots of a bundle, in the order of CORE_TRAP.SLOT (R71, R116). -/
inductive SlotName where
  | control | move | vector | array
deriving DecidableEq, Repr

/-- The mesh channels in priority order (R244); the numbers are the channel codes of R369. -/
inductive Vc where
  | sync | plan | grad | maint
deriving DecidableEq, Repr

/-- The outputs of a router (R369): N, E, S, W, local, spine, port link. -/
inductive Dir where
  | n | e | s | w | loc | spine | port
deriving DecidableEq, Repr

/-- A router: at a grid position, or the spare's router on the spine of a cluster (R39). -/
inductive RouterRef where
  | grid  (x : Fin 320) (y : Fin 96)
  | spare (c : ClusterRef)
deriving DecidableEq, Repr

/-- Where an Eloap command came from, and where its completion goes (R408, R413, R414). -/
inductive CmdSource where
  | ring (r : Fin 4)
  | mailbox
  | oobSmbus
  | oobPcie
deriving DecidableEq, Repr

/-- What every Eloap descriptor carries beside its operands (R407). -/
structure Ctx where
  src : CmdSource
  tag : Word
  irq : Bool
deriving DecidableEq, Repr

/-- A set of regions as an Eloap descriptor gives it: bit n names region n (Table 5 of "Host Attachment"). -/
abbrev RegionSet := BitVec 400

/-! ### What the environment brings -/

/-- The ways by which the host reaches the ring (R395, R396, R398): uncached or cached CXL.mem accesses, the BAR2
window. -/
inductive HostWindow where
  | cxlMem | cxlCached | bar2
deriving DecidableEq, Repr

/-- A host access: a read of a number of bytes, or a write of bytes. -/
inductive HostOp where
  | read (bytes : Nat)
  | write (data : List Byte)
deriving DecidableEq, Repr

/-- A physical memory word or line that can be in error: a near-SRAM word of a physical core, a stacked-SRAM word of a
cluster, or a 64-byte line of a stack (R228). -/
inductive MemLoc where
  | near (p : PCore) (word : Nat)
  | stacked (c : ClusterRef) (word : Nat)
  | ring (stack : Fin 36) (line : Nat)
deriving DecidableEq, Repr

/-- What a training pass of a port meets (R277 to R280). -/
structure PortLight where
  /-- receive lanes without light -/
  darkLanes : BitVec 8
  /-- step 2, 3 and 4 (clock recovery, lane numbers, FEC alignment) end within their bounds -/
  locks : Bool
  /-- the lanes carry inconsistent numbers, or come from two modules -/
  laneError : Bool
  /-- the two lane groups arrive exchanged -/
  exchanged : Bool
  /-- the peer's module ID, none while it has no ID in effect -/
  peerId : Option (BitVec 14)
  peerTile : BitVec 6
  peerPort : BitVec 2
  /-- measured one-way fibre delay in ns -/
  fibreNs : Nat
  /-- the peer reports that it refuses -/
  peerRefuses : Bool
deriving DecidableEq, Repr

/-- Why an active link is lost (R282). -/
inductive LinkLoss where
  | dark (lanes : BitVec 8)
  | lock
  | replays
deriving DecidableEq, Repr

/-- What a fibre flit brings: data of a write, an acknowledgement (R288), a system barrier's arrival or release with the
overflow bit (R256, R329), 128 B of a secured copy (R489), or, in an idle flit, its framing only. -/
inductive FibreKind where
  | write | ack
  | arrival (id : BitVec 6) (ovf : Bool)
  | release (id : BitVec 6) (ovf : Bool)
  | copy
  | idle
deriving DecidableEq, Repr

/-- A flit on the fibre (R270, R286, R288): what it brings, the receive-table entry it names, its channel, its egress
format, its offset in the FP32 view, its bytes and, for glazed E5M2, its glaze bytes; whether it ends its packet; the core
and stream channel of the writer to acknowledge; and its framing: the sequence number, the channels whose flits the sender
has taken out of its receive buffers, and the first flit it asks to be sent again (R273, R275). -/
structure FibrePacket where
  kind : FibreKind
  farRoute : BitVec 8
  vc : Vc
  egress : BitVec 2
  offset : Nat
  data : List Byte
  glazes : List Byte
  last : Bool
  writer : PCore
  chan : Fin 4
  seq : Nat
  credits : List Vc
  replay : Option Nat
deriving DecidableEq, Repr

/-- What a module tells its partner during the pairing exchange (R490). -/
structure PairTags where
  moduleId : BitVec 14
  serial : BitVec 64
  feedA : BitVec 4
  feedB : BitVec 4
  site : BitVec 16
  /-- total size of the UNIQUE ranges, in 4 KiB units -/
  uniqueUnits : Nat
deriving DecidableEq, Repr

/-- The partner's reply: its own tags and its hosting state (R490). -/
structure PairReply where
  tags : PairTags
  /-- size of its hosted area in 4 KiB units -/
  hostUnits : Nat
  /-- the source it hosts already -/
  hosts : Option (BitVec 14)
deriving DecidableEq, Repr

/-- A slot header of a secured copy as the partner reports it (R487, R504). -/
structure CopyInfo where
  valid : Bool
  step : BitVec 64
  bufSel : Bool
  shared : Bool
  urgent : Bool
  flagged : Bool
  sourceId : BitVec 14
  serial : BitVec 64
  digest : BitVec 512
  /-- BASE and LENGTH of each UNIQUE range, in 4 KiB units -/
  ranges : List (Nat × Nat)
  counter : BitVec 64
deriving DecidableEq, Repr

/-- Voltage and current of a feed: 10 mV and 0.1 A units, signed (R418, R449). -/
structure FeedReading where
  volts : Int
  amps : Nat
deriving DecidableEq, Repr

/-- The word a scrub access meets: positions that have gone bad since it was last met, and whether a requester of its bank
of near SRAM goes first (R201). -/
structure ScrubWord where
  upset : List Nat
  busy : Bool
deriving DecidableEq, Repr

/-- Which feed. -/
inductive FeedName where
  | a | b
deriving DecidableEq, Repr

/-- Which of the self-tests A to C a core fails (R471): its cell chain, its broadcast and trees, its engines. -/
inductive CoreTest where
  | cell | tree | engine
deriving DecidableEq, Repr

/-- What start-up finds in the silicon (R466 to R474). -/
structure StartupFindings where
  /-- ARB and DIGEST of the firmware copies that manufacture wrote, where they verify (log entry 140) -/
  copyA : Option (BitVec 7)
  copyB : Option (BitVec 7)
  digestA : BitVec 512
  digestB : BitVec 512
  feedTagA : BitVec 4
  feedTagB : BitVec 4
  /-- regions whose converter group shorts while starting, and regions whose PLL fails to lock -/
  shorts : List RegionRef
  noLock : List RegionRef
  /-- cores that fail test A, B or C -/
  coreFails : List (PCore × CoreTest)
  /-- links that fail test D: a router, and the mesh output whose link it is -/
  linkFails : List (PCore × Fin 4)
  /-- stacks that fail training or repair, and edge bridges that fail -/
  stackFails : List (Fin 36)
  bridgeFails : List (Fin 18)
  /-- the light each fitted port meets in step 8 -/
  ports : List (PortRef × PortLight)
  /-- duration of each step in 0.1 ms -/
  durations : List Nat
  /-- the always-on memory has lost the log, its store having run out (R425); start-up could read the one in flash -/
  logLost : Bool
  logRestored : Bool
deriving DecidableEq, Repr

/-- The numeric sensors of PLDM Type 2 (R416). -/
inductive Sensor where
  | feedAVolts | feedAAmps | feedBVolts | feedBAmps | inputPower | coolantInlet | coolantOutlet | hottestJunction
deriving DecidableEq, Repr

/-- A message of the management connector: over SMBus at a 7-bit address, or over PCIe (R413). -/
inductive OobLink where
  | smbus (addr : BitVec 7)
  | pcieVdm
deriving DecidableEq, Repr

/-- What resets the host interface (R394). -/
inductive HostReset where
  | linkReset
  /-- PERST# goes to the level given: true is asserted -/
  | perst (asserted : Bool)
deriving DecidableEq, Repr

/-- The partner's answer to a drain (R497, R498). -/
inductive DrainReply where
  /-- header written, copy complete -/
  | complete
  | unavailable
  | slotTooSmall
  | otherSource
  | portsLost
deriving DecidableEq, Repr

/-- The last step of a numerics-area restart or a fuse request: how the row ends. -/
inductive FuseReadback where
  | good
  /-- the record (from 0) whose bit failed its read-back -/
  | failed (record : Nat)
deriving DecidableEq, Repr

/-! ### The commands -/

/-- One constructor per row of spec/opcode_table.json, in the table's order. -/
inductive Instr where
  -- control slot (R77 to R89); every core-slot row names the physical core that issues its bundle
  | nop (p : PCore) (slot : SlotName) (g : Guard)
  | add (p : PCore) (g : Guard) (d a b : SReg)
  | sub (p : PCore) (g : Guard) (d a b : SReg)
  | and (p : PCore) (g : Guard) (d a b : SReg)
  | or  (p : PCore) (g : Guard) (d a b : SReg)
  | xor (p : PCore) (g : Guard) (d a b : SReg)
  | shl (p : PCore) (g : Guard) (d a b : SReg)
  | shr (p : PCore) (g : Guard) (d a b : SReg)
  | addi (p : PCore) (g : Guard) (d a : SReg) (imm : BitVec 12)
  | li (p : PCore) (g : Guard) (d : SReg) (imm : BitVec 16)
  | lui (p : PCore) (g : Guard) (d : SReg) (imm : BitVec 16)
  | mul (p : PCore) (g : Guard) (d a b : SReg)
  | setp (p : PCore) (g : Guard) (cond : BitVec 2) (pd : PReg) (a b : SReg)
  | plog (p : PCore) (g : Guard) (op : BitVec 2) (pd pa pb : PReg)
  | br (p : PCore) (g : Guard) (target : BitVec 12)
  | loop (p : PCore) (g : Guard) (ln : BitVec 2) (src : Bool) (count : BitVec 7) (last : BitVec 12)
  | ldw (p : PCore) (g : Guard) (d a : SReg) (imm : BitVec 12)
  | stw (p : PCore) (g : Guard) (src a : SReg) (imm : BitVec 12)
  | dwr (p : PCore) (g : Guard) (table : Bool) (index : BitVec 8) (word : BitVec 3) (src : SReg)
  | movvs (p : PCore) (g : Guard) (d : SReg) (va : VReg) (lane : BitVec 7)
  | movls (p : PCore) (g : Guard) (d : SReg) (ln : BitVec 2)
  | bpost (p : PCore) (g : Guard) (sys : Bool) (id : BitVec 8)
  | bwait (p : PCore) (g : Guard) (sys : Bool) (id : BitVec 8)
  | bsync (p : PCore) (g : Guard) (sys : Bool) (id : BitVec 8)
  | waits (p : PCore) (g : Guard) (mask : BitVec 4)
  | waita (p : PCore) (g : Guard)
  | endc (p : PCore) (g : Guard)
  -- move slot (R91 to R93)
  | strm (p : PCore) (g : Guard) (d : BitVec 8) (ch : BitVec 2) (sa sb : SReg)
  | vld (p : PCore) (g : Guard) (vd : VReg) (sa : SReg) (imm : BitVec 11)
  | vst (p : PCore) (g : Guard) (vs : VReg) (sa : SReg) (imm : BitVec 11)
  -- vector slot (R94 to R97)
  | vadd (p : PCore) (g : Guard) (vd va vb : VReg) (t : BitVec 2)
  | vsub (p : PCore) (g : Guard) (vd va vb : VReg) (t : BitVec 2)
  | vmul (p : PCore) (g : Guard) (vd va vb : VReg) (t : BitVec 2)
  | vfma (p : PCore) (g : Guard) (vd va vb vc : VReg) (t : BitVec 2)
  | vmax (p : PCore) (g : Guard) (vd va vb : VReg) (t : BitVec 2)
  | vmin (p : PCore) (g : Guard) (vd va vb : VReg) (t : BitVec 2)
  | vabs (p : PCore) (g : Guard) (vd va : VReg) (t : BitVec 2)
  | vneg (p : PCore) (g : Guard) (vd va : VReg) (t : BitVec 2)
  | vbcast (p : PCore) (g : Guard) (vd : VReg) (a : SReg) (t : BitVec 2)
  | vcvt (p : PCore) (g : Guard) (vd va : VReg) (dst : BitVec 4) (t : BitVec 2)
  | vexp (p : PCore) (g : Guard) (vd va : VReg) (t : BitVec 2)
  | vlog (p : PCore) (g : Guard) (vd va : VReg) (t : BitVec 2)
  | vrsqrt (p : PCore) (g : Guard) (vd va : VReg) (t : BitVec 2)
  | vtanh (p : PCore) (g : Guard) (vd va : VReg) (t : BitVec 2)
  | vrsum (p : PCore) (g : Guard) (vd va : VReg) (t : BitVec 2)
  | vrmax (p : PCore) (g : Guard) (vd va : VReg) (t : BitVec 2)
  | vcmp (p : PCore) (g : Guard) (vd va vb : VReg) (cond : BitVec 5) (t : BitVec 2)
  | vsel (p : PCore) (g : Guard) (vd va vb vc : VReg)
  | vany (p : PCore) (g : Guard) (pd : PReg) (va : VReg)
  -- array slot (R98)
  | arun (p : PCore) (g : Guard) (d : BitVec 6) (sa sb sc : SReg)
  -- stream engine and reports
  | streamDescStart (p : PCore) (ch : Fin 4)
  | streamDescComplete (p : PCore) (ch : Fin 4)
  | countReport (i : Nat)
  | nanReport (i : Nat)
  -- matrix array
  | arrayDescHead (p : PCore)
  | shadowGroupLoad (p : PCore)
  | arrayFlip (p : PCore)
  | cabooseClose (p : PCore)
  | bankDrain (p : PCore)
  | arrayRampAdmit (p : PCore)
  | arrayGate (p : PCore)
  | skewChainStep (p : PCore)
  | accumulatorCapture (r : RegionRef) (value : Word)
  -- memory tiers
  | stackedReadRequest (c : ClusterRef) (port : Fin 17) (line : Fin 393216)
  | mergeWindowClose (c : ClusterRef) (line : Fin 393216)
  | stackedBankGrant (c : ClusterRef) (bank : Fin 8)
  | scrubAccess (c : ClusterRef) (word : ScrubWord)
  | scrubForced (c : ClusterRef) (bank : Fin 8)
  | patrolRead (ch : RingChan) (upset : List Nat)
  | patrolForced (ch : RingChan)
  | ueLocationTest (loc : MemLoc) (passes spareRow : Bool)
  | memCeCopy (value : Word)
  | memCeCopyDone
  | hostRingAccess (w : HostWindow) (addr : Nat) (op : HostOp) (bankBusy : Bool)
  | hostRingWaitTimeout (ch : RingChan)
  | backInvalidationDone (line : Nat)
  | hostClusterAccess (bar0 : Bool) (addr : Nat) (op : HostOp)
  | stalledAccessComplete (r : RegionRef)
  -- mesh and barriers
  | flitGrant (r : RouterRef) (out : Dir)
  | maintFloorGrant (r : RouterRef) (out : Dir)
  | creditReturn (r : RouterRef) (out : Dir) (vc : Vc)
  | mcastHoldSlip (r : RouterRef) (out : Dir) (tree : BitVec 8) (heldFc : Nat)
  | barrierArrival (r : RouterRef) (sys : Bool) (id : BitVec 8) (input : Dir) (ovf : Bool)
  | barrierRelease (sys : Bool) (id : BitVec 8) (ovf : Bool)
  | barrierWatchdog (sys : Bool) (id : BitVec 8)
  -- the training step
  | gateRelease
  | numericsApply
  | quietCommitApply
  | commitApplyTimeout
  | memInProdWrite (ring : Fin 8) (value : Word)
  | numericsRestart (value : Word)
  | numericsRestartDone
  -- optical ports
  | portTransmit (n : PortRef)
  | portReceivePacket (n : PortRef) (pkt : FibrePacket)
  | fecReplay (n : PortRef) (sameFlit : Bool)
  | fecRateCheck (n : PortRef) (corrected : Nat)
  | portTrainingPass (n : PortRef) (light : PortLight)
  | portRetrainTimer (n : PortRef)
  | portLinkLost (n : PortRef) (why : LinkLoss)
  | portPeerEnable (n : PortRef)
  | opticalEngineFault (tile : Fin 40)
  | portDisable (n : PortRef) (value : Word)
  | portRetrain (n : PortRef)
  -- Eloap commands
  | loadImage (ctx : Ctx) (addr : BitVec 64)
  | loadImageDone
  | txnBegin (ctx : Ctx) (scope : Fin 4) (regions : RegionSet)
  | txnWrite (ctx : Ctx) (key : Word) (value : BitVec 64)
  | txnCommit (ctx : Ctx) (scope : Fin 4) (quiet : Bool)
  | txnRollback (ctx : Ctx) (scope : Fin 4)
  | txnTimeout (scope : Fin 4)
  | run (ctx : Ctx)
  | halt (ctx : Ctx)
  | secureNow (ctx : Ctx)
  | pair (ctx : Ctx) (partner : BitVec 14)
  | pairingExchangeEnd (reply : Option PairReply)
  | ladder (ctx : Ctx) (target : BitVec 8) (isSet : Bool) (regions : RegionSet)
  | ladderDone
  | maintStart (ctx : Ctx) (activity : BitVec 8) (params : List Byte)
  | fill
  | scrub
  | ringtrain
  | opttrain (ports : List (PortRef × PortLight))
  | fusesense
  | tcal
  | drainSecure
  | drainRestore (copy : Option CopyInfo) (data : List Byte)
  | drainQuery (slots : Option (CopyInfo × CopyInfo))
  | defectUpdateAdd
  | defectUpdateClear
  | defectUpdateClearKind
  | maintActivityEnd (activity : Fin 8) (failed : Bool)
  | stateQuery (ctx : Ctx)
  | logRead (ctx : Ctx) (first : Word) (count : BitVec 16) (dest : BitVec 64) (inline : Bool)
  | mailboxSubmit
  | sqDoorbell (r : Fin 4) (value : Word)
  | sqFetch (r : Fin 4)
  | cqDoorbell (r : Fin 4) (value : Word)
  | ringEnable (r : Fin 4) (value : Word)
  | ringDisable (r : Fin 4) (value : Word)
  | hostInterfaceReset (kind : HostReset)
  | mctpCommand (link : OobLink) (descriptor : List Byte)
  | mctpEidAssigned (link : OobLink)
  | pldmFirmwareUpdate (package : List Byte)
  | pldmSensorRead (sensor : Sensor)
  | spdmGetMeasurements
  | spdmSetCertificate (slot : Nat) (chain : List Byte) (certified : BitVec 4096)
  | spdmKeyExchange (doe : Bool)
  | bar0HoleAccess (addr : Nat) (op : HostOp)
  | acCounterRead
  | registerWrite (offset : Nat) (value : Word)
  -- power, clocks and heat
  | feedSample (f : FeedName) (reading : FeedReading)
  | feedIsolate (f : FeedName)
  | feedReadmit (f : FeedName)
  | feedOvercurrent (f : FeedName)
  | busSample (volts : Nat)
  | goodFeeds
  | regionSupplyShort (r : RegionRef)
  | capLoopTick (more : Nat)
  | thermalSample (r : RegionRef) (tj : BitVec 16)
  | thermalComparatorTrip (r : RegionRef)
  | pllLockLoss (r : RegionRef)
  | coolantSample (inlet outlet : BitVec 16) (flow : BitVec 16)
  | startup (found : StartupFindings)
  | coolantCheckEval (delta : BitVec 16)
  | coolantCheckRestart
  | scanChainDrive (on : Bool)
  | firmwareWatchdog
  | fuseRequest (value : Word)
  | fuseRequestDone (readback : FuseReadback)
  -- securing state
  | drainStart
  | deferredDrainStart
  | drainReadDone
  | hostedCopyWrite (copy : CopyInfo) (data : List Byte)
  | drainEnd (reply : DrainReply)
  | drainPartnerTimeout
  | secureNowPin (asserted : Bool)
  | snHeld
  | motionSample (magnitude : Nat)
  | feedTagSample (a b : BitVec 4)
  | siteTagWrite (value : Word)
  | nextIdWrite (value : Word)
  | partnerTagReport
  | hostedSourceRelease (value : Word)
  | hostedAreaWrite (offset : Nat) (value : Word)
  | faultHistoryUpdate
  | smbusTimeout
  | smbusAlertResponse (won : Bool)
  | edgeBridgeFault (bridge : Fin 18)
  | pllRelock (r : RegionRef)
  | holdupStoreReady (joules : Nat)
  | receiveLaneDark (n : PortRef) (lanes : BitVec 8)
  | pairingExchangeReceived (n : PortRef) (source : PairTags)
  | hostedCopyRequest (step : Option (BitVec 64))
deriving DecidableEq, Repr

end Sys2Proof
end

