-- ==== Sys2Proof/Decode.lean ====
section
/-!
DEFINITION. The command a table word spells. The rows of spec/opcode_table.json give no bits (their "fields" is
"none"), so no word spells a command.
-/
namespace Sys2Proof

/-- The command that a word spells by the bits of spec/opcode_table.json: no row gives bits. -/
def decodeTableWord (_nbits _w : Nat) : Option Instr := none

end Sys2Proof
end

