-- ==== Sys2Proof/Config.lean ====
section
/-!
DEFINITION. What one part or installation fixes, and the free values: values the spec leaves open after a command that
goes on. A free value is an opaque constant applied to the state's free-value counter; nothing can be proved of it.
-/
namespace Sys2Proof.Config

/-- The module's serial number (R453). Each part has its own; nothing rests on its value (log entry 4). -/
opaque serial : BitVec 64

/-- How far the n-th special-function or activation result lies from the correctly rounded one; read as a signed
number and limited to the bound of R97 or R144 by its user (log entry 1). -/
opaque slack : Nat → BitVec 8

/-- The outcome of three or more bad bits or symbols: 0 uncorrectable, 1 miscorrected, else delivered as read
(R200, R209; log entry 1). -/
opaque manyBad : Nat → BitVec 2

/-- The n-th miscorrected or as-read data pattern (R200, R209; log entry 1). -/
opaque wrongData : Nat → BitVec 512

/-- The DRAM bank of a ring address: R210 and R397 order requests by bank, and the spec maps no address to one (log
entry 17). -/
opaque dramBank : Nat → BitVec 8

/-- A bank sum that no pass has written since LOAD_IMAGE (R158; log entry 1). -/
opaque bankSum : Nat → BitVec 32

/-- RES_FAULT.CAUSE of a class J fault that a scrub or patrol read raises: Table 1 of "Faults, Partners and Securing
State" makes it one, and no code of RES_FAULT.CAUSE names it (log entry 1). -/
opaque scrubCause : Nat → BitVec 4

/-- The securing interval recommended before any gate-to-gate interval is known (R499; log entry 1). -/
opaque firstInterval : Nat → BitVec 16

/-- Which bits of a fuse record that failed or was interrupted were blown (R458; log entry 1). -/
opaque fuseMask : Nat → BitVec 512

/-- How far a fuse request had come when a module reset interrupted it (R458; log entry 1). -/
opaque fuseStop : Nat → BitVec 4

/-- CODE of the event of a failed read-back: R458 has it recorded, and Table 9 of "Faults, Partners and Securing State"
lists no code for it (log entry 1). -/
opaque fuseEvent : Nat → BitVec 16

/-- Digest of the ROM, as measurement block 1 reports it (R464); each mask revision has its own (log entry 4). -/
opaque romDigest : BitVec 512

/-- SHA-512 of the vendor's root key in slot 0, the device secret, the identity key pair and the factory chain of the
device certificate (R453, R463): each part has its own (log entry 4). -/
opaque vendorHash : BitVec 512
opaque deviceSecret : BitVec 256
opaque identityPrivate : BitVec 4096
opaque identityPublic : BitVec 4096
opaque deviceChain : List (BitVec 8)

/-- What the n-th read of an offset of a core's debug page shows of a trapped core, where no register lies: 0 nothing,
k + 1 word k of its scalar, vector and descriptor state. R117 and R454 let it be read there; the spec gives it no offsets,
and a page has fewer than the state has words (log entry 111). -/
opaque debugPlace : Nat → Nat → Nat

/-- What the scan chains leave in the cores' scalar and vector registers when the test port has driven them the n-th time:
the core, the word as the debug page counts it, its new value (R480; log entry 153). -/
opaque scanned : Nat → List (Nat × Nat × BitVec 32)

/-- Whether the n-th flush of the log to flash fails to complete within 20 ms (R425, R515; log entry 75). -/
opaque flushFails : Nat → Bool

/-- Bit i: stack i fails the n-th ring training outside start-up (R213; log entry 1). -/
opaque trainFails : Nat → BitVec 36

/-- How far a region's round trip between the clock domains lies above its least length: 59 fc are 42 ns, 86 fc 62 ns
(R441; log entry 139). -/
opaque crossing : Nat → BitVec 5

end Sys2Proof.Config
end

