-- ==== Sys2Proof/Machine/Float.lean ====
section
/-!
DEFINITION. Floating-point values and their encodings (R159 to R161), rounding to nearest even (R163), and the exact
arithmetic from which every rounded operation of the vector engine, the array, the output stage and the numerics apply
is built: an operation is formed exactly on dyadic numbers and rounded once.
-/
namespace Sys2Proof.Machine

/-- A value as the units see it: a NaN, an infinity, or the finite number (−1)^neg × m × 2^e; m = 0 is a signed zero. -/
inductive FVal where
  | nan
  | inf (neg : Bool)
  | fin (neg : Bool) (m : Nat) (e : Int)
deriving DecidableEq, Repr

/-- The fields of a floating-point format (R160, Table 2). -/
structure FFormat where
  expBits : Nat
  manBits : Nat
  bias : Int
  /-- the format has infinities and reserves its top exponent; E4M3 does neither (R161) -/
  ieee : Bool
deriving DecidableEq, Repr

def fp32Fmt : FFormat := ⟨8, 23, 127, true⟩
def bf16Fmt : FFormat := ⟨8, 7, 127, true⟩
def fp16Fmt : FFormat := ⟨5, 10, 15, true⟩
def e4m3Fmt : FFormat := ⟨4, 3, 7, false⟩
def e5m2Fmt : FFormat := ⟨5, 2, 15, true⟩

/-- Number of bits of a natural number. -/
def bitLen (n : Nat) : Nat := if n = 0 then 0 else Nat.log2 n + 1

/-- The exponent of the last mantissa bit of a subnormal, and of the smallest normal. -/
def FFormat.minExp (F : FFormat) : Int := 1 - F.bias - F.manBits

/-- Decode an encoding (R160, R161). -/
def FFormat.decode (F : FFormat) (x : Nat) : FVal :=
  let man := x % 2 ^ F.manBits
  let ex := x / 2 ^ F.manBits % 2 ^ F.expBits
  let neg := decide (x / 2 ^ (F.manBits + F.expBits) % 2 = 1)
  if F.ieee ∧ ex = 2 ^ F.expBits - 1 then
    if man = 0 then .inf neg else .nan
  else if !F.ieee ∧ ex = 2 ^ F.expBits - 1 ∧ man = 2 ^ F.manBits - 1 then .nan
  else if ex = 0 then .fin neg man F.minExp
  else .fin neg (2 ^ F.manBits + man) (ex + F.minExp - 1)

/-- Divide by 2^d and round to nearest, ties to even (R163). -/
def shiftRne (m d : Nat) : Nat :=
  let q := m / 2 ^ d
  let r := m % 2 ^ d
  if d = 0 then m
  else if 2 * r > 2 ^ d ∨ (2 * r = 2 ^ d ∧ q % 2 = 1) then q + 1 else q

/-- Round m × 2^e to p significant bits, the last bit not below 2^emin: mantissa and exponent. -/
def roundTo (p : Nat) (emin : Int) (m : Nat) (e : Int) : Nat × Int :=
  let q := max emin (e + bitLen m - p)
  if q ≤ e then (m * 2 ^ (e - q).toNat, q) else (shiftRne m (q - e).toNat, q)

/-- Round to p bits with an unbounded exponent (R164, R175). -/
def roundFree (p : Nat) (m : Nat) (e : Int) : Nat × Int :=
  let q := e + bitLen m - p
  if q ≤ e then (m, e) else (shiftRne m (q - e).toNat, q)

/-- Encode a finite value after rounding; none where it overflows (R164). -/
def FFormat.encodeFin (F : FFormat) (neg : Bool) (m : Nat) (e : Int) : Option Nat :=
  let p := F.manBits + 1
  let (m1, q1) := roundTo p F.minExp m e
  let (m2, q2) := if m1 = 2 ^ p then (2 ^ F.manBits, q1 + 1) else (m1, q1)
  let sgn := if neg then 2 ^ (F.manBits + F.expBits) else 0
  if m2 < 2 ^ F.manBits then some (sgn + m2)
  else
    let ex := (q2 - F.minExp + 1).toNat
    let top := 2 ^ F.expBits - 1
    let man := m2 - 2 ^ F.manBits
    if (F.ieee ∧ top ≤ ex) ∨ (!F.ieee ∧ (top < ex ∨ (ex = top ∧ man = 2 ^ F.manBits - 1))) then none
    else some (sgn + ex * 2 ^ F.manBits + man)

/-- The encoding of an infinity (formats that have one). -/
def FFormat.infBits (F : FFormat) (neg : Bool) : Nat :=
  (if neg then 2 ^ (F.manBits + F.expBits) else 0) + (2 ^ F.expBits - 1) * 2 ^ F.manBits

/-- The encoding of the largest finite value. -/
def FFormat.maxBits (F : FFormat) (neg : Bool) : Nat :=
  (if neg then 2 ^ (F.manBits + F.expBits) else 0) +
    (if F.ieee then (2 ^ F.expBits - 1) * 2 ^ F.manBits - 1 else 2 ^ (F.manBits + F.expBits) - 2)

/-- The canonical NaN of a format (R167). -/
def FFormat.nanBits (F : FFormat) : Nat :=
  if F.ieee then (2 ^ F.expBits - 1) * 2 ^ F.manBits + 2 ^ (F.manBits - 1) else 2 ^ (F.manBits + F.expBits) - 1

/-- Round a value into FP32: overflow gives an infinity, a NaN the canonical NaN (R167, R169). -/
def toFp32 : FVal → Word
  | .nan => BitVec.ofNat 32 fp32Fmt.nanBits
  | .inf s => BitVec.ofNat 32 (fp32Fmt.infBits s)
  | .fin s m e =>
    match fp32Fmt.encodeFin s m e with
    | some x => BitVec.ofNat 32 x
    | none => BitVec.ofNat 32 (fp32Fmt.infBits s)

/-- The value of an FP32 pattern. -/
def ofFp32 (x : Word) : FVal := fp32Fmt.decode x.toNat

/-- Round a value into BF16, in the low 16 bits. -/
def toBf16 : FVal → BitVec 16
  | .nan => BitVec.ofNat 16 bf16Fmt.nanBits
  | .inf s => BitVec.ofNat 16 (bf16Fmt.infBits s)
  | .fin s m e =>
    match bf16Fmt.encodeFin s m e with
    | some x => BitVec.ofNat 16 x
    | none => BitVec.ofNat 16 (bf16Fmt.infBits s)

def ofBf16 (x : BitVec 16) : FVal := bf16Fmt.decode x.toNat

/-! ### Exact arithmetic -/

def FVal.isNan : FVal → Bool
  | .nan => true
  | _ => false

def FVal.isZero : FVal → Bool
  | .fin _ m _ => m == 0
  | _ => false

def FVal.sign : FVal → Bool
  | .nan => false
  | .inf s => s
  | .fin s _ _ => s

def FVal.neg : FVal → FVal
  | .nan => .nan
  | .inf s => .inf !s
  | .fin s m e => .fin (!s) m e

def FVal.abs : FVal → FVal
  | .nan => .nan
  | .inf _ => .inf false
  | .fin _ m e => .fin false m e

/-- A finite value as an integer multiple of 2^e0, e0 not above its exponent. -/
def signedAt (s : Bool) (m : Nat) (e e0 : Int) : Int :=
  let v : Int := m * 2 ^ (e - e0).toNat
  if s then -v else v

/-- Exact sum. The sum of opposite infinities is a NaN; an exact zero sum of unlike signs is +0 (IEEE 754, R187). -/
def FVal.add : FVal → FVal → FVal
  | .nan, _ => .nan
  | _, .nan => .nan
  | .inf a, .inf b => if a = b then .inf a else .nan
  | .inf a, .fin .. => .inf a
  | .fin .., .inf b => .inf b
  | .fin s1 m1 e1, .fin s2 m2 e2 =>
    let e0 := min e1 e2
    let v := signedAt s1 m1 e1 e0 + signedAt s2 m2 e2 e0
    if v = 0 then .fin (s1 && s2) 0 e0 else .fin (decide (v < 0)) v.natAbs e0

/-- Exact product. 0 × ∞ is a NaN. -/
def FVal.mul : FVal → FVal → FVal
  | .nan, _ => .nan
  | _, .nan => .nan
  | .inf a, .inf b => .inf (a != b)
  | .inf a, .fin s m _ => if m = 0 then .nan else .inf (a != s)
  | .fin s m _, .inf b => if m = 0 then .nan else .inf (s != b)
  | .fin s1 m1 e1, .fin s2 m2 e2 => .fin (s1 != s2) (m1 * m2) (e1 + e2)

/-- Scale by 2^k, exactly. -/
def FVal.scale (k : Int) : FVal → FVal
  | .fin s m e => .fin s m (e + k)
  | x => x

/-- Order of two values that are no NaN: a < b as numbers, −0 equal to +0. -/
def FVal.lt : FVal → FVal → Bool
  | .nan, _ => false
  | _, .nan => false
  | .inf a, .inf b => a && !b
  | .inf a, .fin .. => a
  | .fin .., .inf b => !b
  | .fin s1 m1 e1, .fin s2 m2 e2 =>
    let e0 := min e1 e2
    decide (signedAt s1 m1 e1 e0 < signedAt s2 m2 e2 e0)

/-- Equality of two values that are no NaN, as numbers. -/
def FVal.eqv (a b : FVal) : Bool := !a.isNan && !b.isNan && !a.lt b && !b.lt a

/-- The order of VMAX and VMIN: as numbers, and −0 below +0 (R95). -/
def FVal.ltz (a b : FVal) : Bool := a.lt b || (a.isZero && b.isZero && a.sign && !b.sign)

/-- The value of an integer. -/
def FVal.ofInt (i : Int) : FVal := .fin (decide (i < 0)) i.natAbs 0

/-- The nearest integer to a finite value, ties to even (R170). -/
def roundInt (s : Bool) (m : Nat) (e : Int) : Int :=
  let v : Nat := if 0 ≤ e then m * 2 ^ e.toNat else shiftRne m (-e).toNat
  if s then -(v : Int) else v

/-- Is an FP32 value subnormal (or the rounded result of an operation): a non-zero magnitude below 2^−126. -/
def isSubnormal32 (x : Word) : Bool := (x &&& 0x7F800000) == 0 && (x &&& 0x007FFFFF) != 0

/-- Replace an FP32 subnormal by zero of the same sign where FTZ is set (R95, R165). -/
def flush32 (ftz : Bool) (x : Word) : Word := if ftz && isSubnormal32 x then x &&& 0x80000000 else x

/-- FP32 sum, product and fused multiply-add, each rounded once. -/
def fadd32 (a b : Word) : Word := toFp32 ((ofFp32 a).add (ofFp32 b))
def fmul32 (a b : Word) : Word := toFp32 ((ofFp32 a).mul (ofFp32 b))
def ffma32 (a b c : Word) : Word := toFp32 (((ofFp32 a).mul (ofFp32 b)).add (ofFp32 c))
def fsub32 (a b : Word) : Word := toFp32 ((ofFp32 a).add (ofFp32 b).neg)

/-- FP32 quotient by a small positive integer, rounded once (R339). -/
def fdivNat32 (a : Word) (n : Nat) : Word :=
  match ofFp32 a with
  | .fin s m e =>
    -- 64 further quotient bits and a sticky bit decide the rounding
    let q := m * 2 ^ 64 / n
    let st := if m * 2 ^ 64 % n = 0 then 0 else 1
    toFp32 (.fin s (2 * q + st) (e - 65))
  | v => toFp32 v

end Sys2Proof.Machine
end

