-- ==== Sys2Proof/Machine/Sfu.lean ====
section
/-!
DEFINITION. The special functions (R97, Table 6) and the activations of the output stage (R144, Table 6 of "The Matrix
Array"). Each is computed in fixed point with 200 fraction bits and rounded once, which is the correctly rounded value
the spec bounds results against; the result then lies a free number of units in the last place from it, within the bound
(log entry 1).
-/
namespace Sys2Proof.Machine

/-- Fraction bits of the fixed-point evaluation. -/
def fxP : Nat := 200

/-- Taylor series of e^r − its terms from n down, r a fixed-point number: sum of r^i / i!. -/
def expSeries (r : Int) : Nat → Int → Int → Int
  | 0, _, acc => acc
  | k + 1, term, acc =>
    let n : Int := 60 - k
    let t := term * r / 2 ^ fxP / n
    expSeries r k t (acc + t)

/-- Sum of t^(2i+1) / (2i+1), from the term given: the inverse hyperbolic tangent. -/
def atanhSeries (t2 : Int) : Nat → Int → Int → Int → Int
  | 0, _, _, acc => acc
  | k + 1, i, p, acc => atanhSeries t2 k (i + 2) (p * t2 / 2 ^ fxP) (acc + p / i)

/-- Alternating series of the inverse tangent of 1/n. -/
def atanSeries (n : Int) : Nat → Int → Int → Int → Int
  | 0, _, _, acc => acc
  | k + 1, i, p, acc => atanSeries n k (i + 2) (-(p / (n * n))) (acc + p / i)

/-- ln 2 in fixed point: 2 artanh(1/3). -/
def fxLn2 : Int :=
  let t : Int := 2 ^ fxP / 3
  2 * atanhSeries (t * t / 2 ^ fxP) 70 1 t 0

/-- π in fixed point (Machin). -/
def fxPi : Int := 4 * (4 * atanSeries 5 90 1 (2 ^ fxP / 5) 0 - atanSeries 239 30 1 (2 ^ fxP / 239) 0)

/-- Integer square root, bit by bit from bit b down. -/
def isqrtBits (n : Nat) : Nat → Nat → Nat
  | 0, acc => acc
  | b + 1, acc => if (acc + 2 ^ b) * (acc + 2 ^ b) ≤ n then isqrtBits n b (acc + 2 ^ b) else isqrtBits n b acc

def isqrt (n : Nat) : Nat := isqrtBits n (bitLen n / 2 + 1) 0

/-- A finite value as a fixed-point number (rounded towards −∞; used only for magnitudes below 2^12). -/
def toFx (s : Bool) (m : Nat) (e : Int) : Int :=
  let k := e + fxP
  let v : Int := if 0 ≤ k then m * 2 ^ k.toNat else (m / 2 ^ (-k).toNat : Nat)
  if s then -v else v

/-- e^x for a fixed-point x: mantissa and exponent. -/
def expFx (x : Int) : Nat × Int :=
  let k := (2 * x + fxLn2) / (2 * fxLn2)
  let r := x - k * fxLn2
  ((expSeries r 60 (2 ^ fxP) (2 ^ fxP)).toNat, k - fxP)

/-- Is a finite magnitude at or above 2^k? -/
def magGe (m : Nat) (e k : Int) : Bool := m != 0 && decide (k ≤ (bitLen m : Int) - 1 + e)

/-- The correctly rounded e^x, before Table 6. -/
def refExp (s : Bool) (m : Nat) (e : Int) : FVal :=
  if magGe m e 8 then (if s then .fin false 0 0 else .inf false)
  else let (r, k) := expFx (toFx s m e); .fin false r k

/-- ln x for x > 0. -/
def refLn (m : Nat) (e : Int) : FVal :=
  let n : Int := bitLen m - 1
  -- y = m / 2^n in [1, 2); ln x = 2 artanh((y − 1) / (y + 1)) + (e + n) ln 2
  let num : Int := (m : Int) - 2 ^ n.toNat
  let den : Int := (m : Int) + 2 ^ n.toNat
  let t := num * 2 ^ fxP / den
  let l := 2 * atanhSeries (t * t / 2 ^ fxP) 70 1 t 0 + (e + n) * fxLn2
  .fin (decide (l < 0)) l.natAbs (-fxP)

/-- 1/√x for x > 0. -/
def refRsqrt (m : Nat) (e : Int) : FVal :=
  let (m', e') := if e % 2 = 0 then (m, e) else (2 * m, e - 1)
  .fin false (isqrt (2 ^ (2 * fxP) / m')) (-fxP - e' / 2)

/-- Quotient of two positive mantissa–exponent numbers, with 128 more bits than the numerator's. -/
def divMag (a : Nat × Int) (b : Nat × Int) : Nat × Int := (a.1 * 2 ^ 256 / b.1, a.2 - b.2 - 256)

/-- Sum of two mantissa–exponent numbers. -/
def addMag (a b : Nat × Int) : Nat × Int :=
  let e0 := min a.2 b.2
  (a.1 * 2 ^ (a.2 - e0).toNat + b.1 * 2 ^ (b.2 - e0).toNat, e0)

/-- tanh x: (1 − e^−2|x|) ÷ (1 + e^−2|x|) with the sign of x; x itself below 2^−13, 1 above 2^5. -/
def refTanh (s : Bool) (m : Nat) (e : Int) : FVal :=
  if !magGe m e (-13) then .fin s m e
  else if magGe m e 5 then .fin s 1 0
  else
    let (r, k) := expFx (-2 * toFx false m e)
    let one : Nat := 2 ^ (-k).toNat
    let (q, qe) := divMag (one - r, k) (one + r, k)
    .fin s q qe

/-- 1 ÷ (1 + e^−z) for a fixed-point z above −512: mantissa and exponent. -/
def sigmoidFx (z : Int) : Nat × Int :=
  if 0 ≤ z then divMag (1, 0) (addMag (1, 0) (expFx (-z)))
  else let t := expFx z; divMag t (addMag (1, 0) t)

/-! ### The results -/

/-- An FP32 pattern moved by a signed number of units in the last place, its sign kept, within the finite range. -/
def ulpStep (x : Word) (k : Int) : Word :=
  let mag : Int := (x &&& 0x7FFFFFFF).toNat + k
  (x &&& 0x80000000) ||| BitVec.ofNat 32 (max 0 (min mag 0x7F7FFFFF)).toNat

/-- The free offset of the n-th result, limited to −b to b. -/
def slackOf (b : Int) (n : Nat) : Int := max (-b) (min b (Config.slack n).toInt)

/-- A reference value rounded to FP32 and moved by the free offset; infinities and exact zeros of Table 6 are passed
unchanged by the callers. -/
def approx32 (b : Int) (n : Nat) (v : FVal) : Word :=
  let x := toFp32 v
  if x &&& 0x7FFFFFFF == 0x7F800000 then x else ulpStep x (slackOf b n)

/-- The special-function operations. -/
inductive SfuOp where
  | exp | log | rsqrt | tanh
deriving DecidableEq, Repr

/-- The special values of Table 6 of "The Core" (R97); none where the result is the approximated one. -/
def sfuSpecial : SfuOp → FVal → Option FVal
  | _, .nan => some .nan
  | .exp, .inf s => some (if s then .fin false 0 0 else .inf false)
  | .exp, .fin s m e =>
    if m = 0 then some (.fin false 1 0)
    else if !s && (FVal.fin false 8872 0).lt (.fin false (m * 100) e) then some (.inf false) else none
  | .log, .inf s => some (if s then .nan else .inf false)
  | .log, .fin s m _ => if m = 0 then some (.inf true) else if s then some .nan else none
  | .rsqrt, .inf s => some (if s then .nan else .fin false 0 0)
  | .rsqrt, .fin s m _ => if m = 0 then some (.inf s) else if s then some .nan else none
  | .tanh, .inf s => some (.fin s 1 0)
  | .tanh, .fin s m _ => if m = 0 then some (.fin s 0 0) else none

/-- The reference value of a special function on an ordinary finite input. -/
def sfuRef : SfuOp → FVal → FVal
  | .exp, .fin s m e => refExp s m e
  | .log, .fin _ m e => refLn m e
  | .rsqrt, .fin _ m e => refRsqrt m e
  | .tanh, .fin s m e => refTanh s m e
  | _, v => v

/-- A special function in FP32 (within 2 units in the last place). -/
def sfu32 (op : SfuOp) (n : Nat) (v : FVal) : Word :=
  match sfuSpecial op v with
  | some r => toFp32 r
  | none => approx32 2 n (sfuRef op v)

/-- A special function rounded to BF16 (within 1 unit in the last place). -/
def sfu16 (op : SfuOp) (n : Nat) (v : FVal) : BitVec 16 :=
  match sfuSpecial op v with
  | some r => toBf16 r
  | none =>
    let x := toBf16 (sfuRef op v)
    if x &&& 0x7FFF == 0x7F80 then x
    else
      let mag : Int := (x &&& 0x7FFF).toNat + slackOf 1 n
      (x &&& 0x8000) ||| BitVec.ofNat 16 (max 0 (min mag 0x7F7F)).toNat

/-- 0.044715 × y³ + y, times √(8/π): twice the argument of GELU-tanh's tanh, in fixed point (|y| below 2^10). -/
def geluArg (y : Int) : Int :=
  let y3 := y * y / 2 ^ fxP * y / 2 ^ fxP
  let inner := y + y3 * 44715 / 1000000
  let c : Int := isqrt ((8 * 2 ^ (3 * fxP) / fxPi.toNat))
  inner * c / 2 ^ fxP

/-- The activations on an FP32 input (R144); n numbers the free offset. -/
def activate (act : Nat) (clamp : BitVec 16) (n : Nat) (x : Word) : Word :=
  let v := ofFp32 x
  let neg := v.sign
  match v with
  | .nan => toFp32 .nan
  | .inf s =>
    if act = 0 then x
    else if act = 1 ∨ act = 4 then toFp32 (if s then .fin false 0 0 else .inf false)
    else if act = 2 ∨ act = 3 then toFp32 (if s then .fin true 0 0 else .inf false)
    else if act = 5 then toFp32 (.fin s 1 0)
    else if act = 6 then toFp32 (if s then .fin false 0 0 else .fin false 1 0)
    else
      match (ofBf16 clamp).abs with
      | .nan => toFp32 .nan
      | c => toFp32 (if s then c.neg else c)
  | .fin s m e =>
    if act = 0 then x
    else if act = 1 then (if s then 0 else x)
    else if act = 2 then
      if m = 0 then x
      else if magGe m e 10 then (if s then toFp32 (.fin true 0 0) else x)
      else
        let z := geluArg (toFx s m e)
        if z < -(512 * 2 ^ fxP) then toFp32 (.fin true 0 0)
        else let (q, k) := sigmoidFx z; approx32 2 n (.fin neg (m * q) (e + k))
    else if act = 3 then
      if m = 0 then x
      else if magGe m e 9 then (if s then toFp32 (.fin true 0 0) else x)
      else let (q, k) := sigmoidFx (toFx s m e); approx32 2 n (.fin neg (m * q) (e + k))
    else if act = 4 then (if s then 0 else toFp32 (v.mul v))
    else if act = 5 then (if m = 0 then x else approx32 2 n (refTanh s m e))
    else if act = 6 then
      if magGe m e 9 then toFp32 (if s then .fin false 0 0 else .fin false 1 0)
      else let (q, k) := sigmoidFx (toFx s m e); approx32 2 n (.fin false q k)
    else
      match (ofBf16 clamp).abs with
      | .nan => toFp32 .nan
      | c => if c.lt v then toFp32 c else if v.lt c.neg then toFp32 c.neg else x

end Sys2Proof.Machine
end

