-- ==== Sys2Proof/Machine/Fields.lean ====
section
/-!
DEFINITION. The register fields of the PW40: every field of every register table of the spec that is not "reserved"
(R9 to R13), under its own name with the dot written as an underscore, and the table that gives its place, its access
code and its Reset entry. Where the Reset entry is "—" or "fuse" the table holds 0 (log entry 3).
-/
namespace Sys2Proof.Machine

/-- Every named register field. The rule that owns its table stands before each group. -/
inductive Field where
  -- R61, 02_six_levels.md
  | RES_MODULE_ID_MODULE_ID
  | RES_MODULE_ID_NEXT_ID
  | RES_MODULE_ID_ASSIGNED
  | RES_MODULE_ID_PENDING
  | RES_FEED_TAGS_FEED_A_TAG
  | RES_FEED_TAGS_FEED_B_TAG
  | RES_FEED_TAGS_A_CHANGED
  | RES_FEED_TAGS_B_CHANGED
  | RES_SITE_TAG_SITE_TAG
  -- R116, 03_core_and_bundles.md
  | CORE_STATUS_STATE
  | CORE_STATUS_STALLED
  | CORE_STATUS_IN_BWAIT
  | CORE_STATUS_STREAM_BUSY
  | CORE_STATUS_ARRAY_BUSY
  | CORE_PC_PC
  | CORE_TRAP_CAUSE
  | CORE_TRAP_SLOT
  | CORE_TRAP_INFO
  | CORE_TRAP_PC_PC
  | CORE_CFG_FTZ
  | CORE_ID_TILE
  | CORE_ID_CLUSTER
  | CORE_ID_CORE
  | CORE_ID_VALID
  | CORE_ISSUED_COUNT
  | CORE_STALLS_COUNT
  -- R156, 04_matrix_array.md
  | ARR_RAMP_STAGGER
  | ARR_SKEW_SLOT
  | ARR_SKEW_EN
  | ARR_DBG_SEL_SLOT
  | ARR_DBG_SEL_BANK
  | ARR_DBG_SEL_LINE
  | ARR_DBG_SEL_CAPTURED
  | ARR_DBG_SEL_CAPTURE
  | ARR_DBG_DATA_SUM
  -- R196, 05_formats_and_glaze.md
  | CORE_NAN_VALID
  | CORE_NAN_UNIT
  | CORE_NAN_DESC
  | CORE_NAN_LAYER_TAG
  | CORE_NAN_TAG_VALID
  | CORE_NAN_PC_PC
  | CORE_NAN_PC_SLOT
  | CORE_NAN_STEP_STEP
  | CORE_FLAGS_OVF16
  -- R197, 05_formats_and_glaze.md
  | NUM_CFG_NAN_MODE
  | NUM_NAN_LOC_TILE
  | NUM_NAN_LOC_CLUSTER
  | NUM_NAN_LOC_CORE
  | NUM_NAN_LOC_SLOT
  | NUM_NAN_LOC_UNIT
  | NUM_NAN_LOC_VALID
  | NUM_NAN_PC_PC
  | NUM_NAN_PC_DESC
  | NUM_NAN_TAG_LAYER_TAG
  | NUM_NAN_TAG_TAG_VALID
  | NUM_NAN_STEP_STEP
  | NUM_NAN_TIME_AC
  | NUM_NAN_COUNT_COUNT
  | NUM_LAYER_SEL_TAG
  | NUM_LAYER_SEL_VIEW
  | NUM_LAYER_CRUMBS_COUNT
  | NUM_LAYER_SATS_COUNT
  | NUM_LAYER_OVF_OVF16
  | NUM_LAYER_OVF_OTHER
  | NUM_LAYER_SCALE_RANGE
  | NUM_LAYER_SCALE_UNDER
  | NUM_LAYER_CSB_COUNT
  -- R234, 06_memory_tiers.md
  | MEM_RING_CFG_STACKS
  | MEM_RING_CFG_DEGRADED
  | MEM_RING_CFG_RING_FILLED
  | MEM_RING_CFG_SRAM_FILLED
  | MEM_RING_CFG_SIZE_GIB
  | MEM_RING_MAP_LO_IN_USE
  | MEM_RING_MAP_HI_IN_USE
  | MEM_SCRUB_CFG_PERIOD_S
  | MEM_SCRUB_CFG_PATROL_H
  | MEM_SCRUB_EFF_PERIOD_S
  | MEM_SCRUB_EFF_PATROL_MIN
  | MEM_SCRUB_PASSES_CLUSTER
  | MEM_SCRUB_PASSES_PATROL
  | MEM_CE_SEL_KIND
  | MEM_CE_SEL_INDEX
  | MEM_CE_SEL_STATUS
  | MEM_CE_SEL_BUSY
  | MEM_CE_SEL_CLEAR
  | MEM_CE_SEL_GO
  | MEM_CE_COUNT_COUNT
  | MEM_CE_OVF_COUNT
  | MEM_UE_COUNT_COUNT
  | MEM_MERGE_COUNT
  | MEM_TOTAL_CE_COUNT
  | MEM_TOTAL_UE_COUNT
  | MEM_CE_ENTRY_LO_VALID
  | MEM_CE_ENTRY_LO_TIER
  | MEM_CE_ENTRY_LO_SLOT
  | MEM_CE_ENTRY_LO_POS
  | MEM_CE_ENTRY_LO_REPEAT
  | MEM_CE_ENTRY_HI_LOC
  -- R268, 07_mesh.md
  | MESH_SLIP_COUNT_COUNT
  | MESH_SLIP_LAST_KIND
  | MESH_SLIP_LAST_SYS
  | MESH_SLIP_LAST_ID
  | MESH_SLIP_LAST_SLOT
  | MESH_SLIP_LAST_PORT
  | MESH_SLIP_LAST_EXCESS
  | MESH_DROP_COUNT
  | MESH_DROP_SLOT
  | MESH_DROP_CAUSE
  | MESH_HOLD_MAX_FC
  | MESH_HOLD_MAX_TREE
  | MESH_RTR_SEL_SLOT
  | MESH_RTR_SEL_PORT
  | MESH_RTR_SEL_VC
  | MESH_RTR_FLITS_COUNT
  | MESH_RTR_STALL_COUNT
  | MESH_BAR_SEL_ID
  | MESH_BAR_SEL_SYS
  | MESH_BAR_STATE_ROOT
  | MESH_BAR_STATE_OPEN
  | MESH_BAR_STATE_PENDING
  | MESH_BAR_STATE_RELEASES
  | MESH_BAR_LAST_FC
  -- R296, 08_optical_fabric.md
  | OPT_SUMMARY_FITTED
  | OPT_SUMMARY_ACTIVE
  | OPT_SUMMARY_NOT_UP
  | OPT_EVENTS_LOST
  | OPT_EVENTS_REFUSED
  | OPT_EVENTS_REMAPPED
  | OPT_EVENTS_DARK
  | OPT_EVENTS_FEC_HIGH
  | OPT_EVENTS_RX_DROP
  | OPT_FEC_LIMIT_LIMIT
  | OPT_TRAIN_BUSY
  | OPT_TRAIN_LAST_MS
  | OPT_PORT_STATE_STATE
  | OPT_PORT_STATE_CAUSE
  | OPT_PORT_STATE_DARK_LANES
  | OPT_PORT_STATE_REMAPPED
  | OPT_PORT_STATE_ENABLED
  | OPT_PORT_STATE_PEER_ENABLED
  | OPT_PORT_STATE_EXPECTED
  | OPT_PORT_PEER_MODULE_ID
  | OPT_PORT_PEER_TILE
  | OPT_PORT_PEER_PORT
  | OPT_PORT_PEER_VALID
  | OPT_PORT_LINK_FIBRE_NS
  | OPT_PORT_LINK_RETRAINS
  | OPT_PORT_FEC_CW_CORRECTED
  | OPT_PORT_FEC_BAD_UNCORRECTABLE
  | OPT_PORT_FEC_BAD_REPLAYS
  | OPT_PORT_TX_FLITS
  | OPT_PORT_RX_FLITS
  | OPT_PORT_CTRL_DISABLE
  | OPT_PORT_CTRL_RETRAIN
  | OPT_PORT_CTRL_DROP_CAUSE
  | OPT_PORT_CTRL_RX_DROPS
  -- R321, 09_training_step.md
  | RES_STEP_LO_COUNT
  | RES_STEP_HI_COUNT
  | RES_STEP_START_LO_COUNT
  | RES_STEP_START_HI_COUNT
  | RES_STEP_STATE_PHASE
  | RES_STEP_STATE_MICRO
  | RES_STEP_STATE_BUF_SEL
  | RES_STEP_STATE_STABLE
  | RES_STEP_STATE_SKIPPED
  | RES_STEP_STATE_STOPPED
  | RES_STEP_STATE_HOLD
  | RES_STEP_QP_LAST_FC
  | RES_STEP_CTRL_START_BUF
  | RES_STEP_CTRL_STOP_EN
  | RES_STEP_STOP_COUNT
  | RES_STEP_HOLDS_INPUT
  | RES_STEP_HOLDS_SECURE
  -- R322, 09_training_step.md
  | MEM_IN_CFG_SLOTS
  | MEM_IN_CFG_DEPTH
  | MEM_IN_CFG_VALID
  | MEM_IN_SLOT_UNITS
  | MEM_IN_BASE_LO_ADDR
  | MEM_IN_BASE_HI_ADDR
  | MEM_IN_PROD_STEP
  | MEM_IN_STAT_STARVED
  | MEM_IN_STAT_OVERRUNS
  -- R345, 10_training_numerics.md
  | NUM_LS_EXP
  | NUM_LS_EN
  | NUM_LS_CLEAN
  | NUM_LS_CFG_INIT_EXP
  | NUM_LS_CFG_CLEAN_STEPS
  | NUM_LS_CFG_SKIP_LIMIT
  | NUM_LS_STAT_SKIPS
  | NUM_LS_STAT_CONSEC
  | NUM_LS_STAT_LAST_OVF
  | NUM_LS_STAT_FLOOR
  | NUM_EXP_SEL_TAG
  | NUM_EXP_S
  | NUM_EXP_EN
  | NUM_EXP_UPDATE
  | NUM_EXP_LAST_UP
  | NUM_EXP_LAST_DOWN
  | NUM_EXP_LIM_S_MIN
  | NUM_EXP_LIM_S_MAX
  | NUM_EXP_THR_RAISE_THRESH
  | NUM_EXP_MOVES_RAISES
  | NUM_EXP_MOVES_LOWERS
  | NUM_MON_SETTLE_LEFT
  | NUM_MON_STOP_EN
  | NUM_MON_RATIO_STOP
  | NUM_MON_STAT_EVENTS
  | NUM_MON_STAT_MISSING
  | NUM_MON_LAST_TAG
  | NUM_MON_LAST_LOW
  | NUM_MON_LAST_HIGH
  | NUM_MON_LAST_VALID
  | NUM_MON_LAST_STEP_STEP
  | NUM_MON_FLAG_SEL_WORD
  | NUM_MON_FLAGS_FLAGS
  | NUM_RESTART_LOST
  | NUM_RESTART_BUSY
  | NUM_RESTART_DONE
  | NUM_AREA_LO_ADDR
  | NUM_AREA_HI_ADDR
  | NUM_PAGE_ADDR
  -- R361, 11_distillation_pairing.md
  | RES_DISTIL_CFG_MODE
  | RES_DISTIL_CFG_K
  | RES_DISTIL_CFG_BUFFERS
  | RES_DISTIL_CFG_FROZEN
  | RES_DISTIL_TEMP_T
  | RES_DISTIL_VOCAB_SIZE
  | RES_DISTIL_REGIONS_TEACHER
  | RES_DISTIL_REGIONS_STUDENT
  | RES_DISTIL_BAR_READY_ID
  | RES_DISTIL_BAR_READY_SYS
  | RES_DISTIL_BAR_FREE_ID
  | RES_DISTIL_BAR_FREE_SYS
  | RES_DISTIL_ROLE_SEL_REGION
  | RES_DISTIL_ROLE_ROLE
  | RES_DISTIL_FROZEN_SEL_INDEX
  | RES_DISTIL_FROZEN_BASE_UNITS
  | RES_DISTIL_FROZEN_LEN_UNITS
  -- R391, 12_layout_image.md
  | IMG_STATE_STATE
  | IMG_STATE_PATCHES
  | IMG_RESULT_CODE
  | IMG_RESULT_PATCH
  | IMG_ITEM_SECTION
  | IMG_ITEM_RECORD
  | IMG_ARB_ARB
  | TXN_TIMEOUT_SECONDS
  | IMG_DIGEST_WORD
  | TXN_STATE_STATE
  | TXN_STATE_REQUESTER
  | TXN_STATE_ITEMS
  | TXN_RESULT_OUTCOME
  | TXN_RESULT_CODE
  | TXN_RESULT_ITEM
  | TXN_AGE_SECONDS
  | TXN_AGE_SEQ
  | TXN_COND_REGION
  | TXN_COND_OUTLET
  | TXN_COND_VALID
  -- R402, 13_host_attachment.md
  | HOST_MBX_CMD_WORD
  | HOST_MBX_CTRL_GO
  | HOST_MBX_CTRL_BUSY
  | HOST_MBX_CTRL_DONE
  | HOST_MBX_CPL_WORD
  | HOST_BAR2_BASE_GIB
  | HOST_IRQ_STATUS_SRC
  | HOST_IRQ_MASK_SRC
  | HOST_SQ_BASE_LO_ADDR
  | HOST_SQ_BASE_HI_ADDR
  | HOST_RING_CFG_SIZE
  | HOST_RING_CFG_EN
  | HOST_RING_CFG_HOST_MEM
  | HOST_SQ_TAIL_INDEX
  | HOST_SQ_HEAD_INDEX
  | HOST_CQ_BASE_LO_ADDR
  | HOST_CQ_BASE_HI_ADDR
  | HOST_CQ_TAIL_INDEX
  | HOST_CQ_HEAD_INDEX
  | HOST_RING_STAT_FAULT
  | HOST_RING_STAT_CAUSE
  -- R449, 14_power_clocks_thermal.md
  | PWR_FEED_A_VOLTS
  | PWR_FEED_A_AMPS
  | PWR_FEED_B_VOLTS
  | PWR_FEED_B_AMPS
  | PWR_BUS_VOLTS
  | PWR_BUS_WATTS
  | PWR_FEED_STAT_A_STATE
  | PWR_FEED_STAT_B_STATE
  | PWR_FEED_STAT_A_RANGE
  | PWR_FEED_STAT_B_RANGE
  | PWR_FEED_STAT_A_CARRY
  | PWR_FEED_STAT_B_CARRY
  | PWR_FEED_STAT_SAG
  | PWR_FEED_STAT_SAG_SEEN
  | PWR_FEED_STAT_A_ISO_SEEN
  | PWR_FEED_STAT_B_ISO_SEEN
  | PWR_CAP_CAP_W
  | PWR_CAP_PROFILE
  | PWR_CAP_LEVEL
  | PWR_PLAN_PLANNED_W
  | PWR_PLAN_PEAK_W
  | PWR_HOLDUP_FITTED
  | PWR_HOLDUP_ARMED
  | PWR_HOLDUP_READY
  | PWR_HOLDUP_ACTIVE
  | PWR_HOLDUP_JOULES
  | PWR_LADDER_MODULE
  | PWR_LADDER_BUSY
  | PWR_EVENTS_SAGS
  | PWR_EVENTS_ISOLATIONS
  | PWR_CLK_RUN_REGIONS
  | PWR_AC_LO_COUNT
  | PWR_AC_HI_COUNT
  | PWR_REGION_SEL_REGION
  | PWR_REGION_STATE
  | PWR_REGION_CLK
  | PWR_REGION_LOCKED
  | PWR_REGION_SHORT
  | PWR_REGION_TRIPPED
  | PWR_REGION_THERM_LEVEL
  | PWR_REGION_SKIP_LEVEL
  | PWR_REGION_SKIP_UNITS
  | PWR_REGION_EVT_LOCK_LOSS
  -- R450, 14_power_clocks_thermal.md
  | THERM_COOL_INLET
  | THERM_COOL_OUTLET
  | THERM_FLOW_FLOW
  | THERM_FLOW_OUTLET_WARN
  | THERM_FLOW_RANGE_WARN
  | THERM_FLOW_WARN_SEEN
  | THERM_POINTS_THROTTLE_C
  | THERM_POINTS_TRIP_C
  | THERM_POINTS_OUTLET_C
  | THERM_HOT_TJ
  | THERM_HOT_REGION
  | THERM_SUM_THROTTLED
  | THERM_SUM_TRIPS
  | THERM_SEL_REGION
  | THERM_REGION_TJ
  | THERM_REGION_LEVEL
  | THERM_REGION_TRIPPED
  | THERM_REGION_VALID
  | THERM_REGION_PEAK_TJ
  -- R465, 15_fuses_and_trust.md
  | FUSE_PART_ORDER_CODE
  | FUSE_PART_HOLDUP_FITTED
  | FUSE_PART_HALF_PORTS
  | FUSE_SERIAL_LO_SERIAL
  | FUSE_SERIAL_HI_SERIAL
  | FUSE_LIFECYCLE_STATE
  | FUSE_LIFECYCLE_SLOT_SET
  | FUSE_LIFECYCLE_PENDING_STATE
  | FUSE_ARB_FW
  | FUSE_ARB_IMAGE
  | FUSE_FEATURE_ENABLE
  | FUSE_FEATURE_DISABLE
  | FUSE_FEATURE_EFFECTIVE
  | FUSE_FEATURE_PAIR_SHARED
  | FUSE_FEATURE_LOCK_POLICY
  | FUSE_FEATURE_LOCK_FREEZE
  | FUSE_SENSE_COUNT
  | FUSE_SENSE_MISMATCH
  | FUSE_SLOT_HASH_WORD
  | FUSE_POLICY_OOB_ADMIN
  | FUSE_POLICY_DEBUG_SOFT
  | FUSE_REQ_LO_ADDR
  | FUSE_REQ_HI_ADDR
  | FUSE_REQ_CTRL_GO
  | FUSE_REQ_CTRL_BUSY
  | FUSE_REQ_CTRL_RESULT
  | FUSE_REQ_CTRL_RECORD
  -- R481, 16_start_up_and_test.md
  | RES_START_STATE_STEP
  | RES_START_STATE_READY
  | RES_START_STATE_RECOVERY
  | RES_START_STATE_FAIL
  | RES_START_STATE_TOTAL_MS
  | RES_START_TEST_CORES
  | RES_START_TEST_ROUTERS
  | RES_START_TEST_STACKS
  | RES_COOL_CHECK_STATE
  | RES_COOL_CHECK_REPEATS
  | RES_COOL_CHECK_DELTA
  | RES_START_DUR_TIME
  -- R513, 17_faults_and_state_securing.md
  | MNT_QUEUE_DEPTH
  | MNT_QUEUE_RUNNING
  | MNT_QUEUE_NEXT_SEQ
  | MNT_LAST_ACTIVITY
  | MNT_LAST_RESULT
  | MNT_LAST_SEQ
  | MNT_SEC_SET
  | MNT_SEC_RECOMMENDED
  | MNT_SEC_EFF_INTERVAL
  | MNT_SEC_EFF_SINCE
  | MNT_SYS_RATE_RATE
  | MNT_LOCAL_RATE_RATE
  | MNT_DRAIN_COST_US
  | MNT_HALF_LIFE_HOURS
  | MNT_DRAIN_STATE
  | MNT_DRAIN_UNPACED
  | MNT_DRAIN_RESULT
  | MNT_DRAIN_FAILS
  | MNT_DRAIN_STEP_STEP
  | MNT_DRAIN_TIME_US
  | MNT_MOTION_CFG_THRESH
  | MNT_MOTION_CFG_SUSTAIN
  | MNT_MOTION_STAT_PEAK
  | MNT_MOTION_STAT_TRIGGERED
  | MNT_HOST_BASE_LO_ADDR
  | MNT_HOST_BASE_HI_ADDR
  | MNT_HOST_UNITS_UNITS
  | MNT_HOST_SRC_MODULE_ID
  | MNT_HOST_SRC_VALID
  | MNT_HOST_SRC_RELEASE
  | MNT_HCOPY_STEP_STEP
  | MNT_HCOPY_STAT_VALID
  | MNT_HCOPY_STAT_BUF_SEL
  | MNT_HCOPY_STAT_SHARED
  | MNT_HCOPY_STAT_FLAGGED
  | MNT_PCOPY_STEP_STEP
  | MNT_PCOPY_STAT_FLAGS
  -- R514, 17_faults_and_state_securing.md
  | RES_PAIR_PARTNER_ID
  | RES_PAIR_IN_EFFECT
  | RES_PAIR_VERIFIED
  | RES_PAIR_SHARED
  | RES_PAIR_PORTS
  | RES_PAIR_REFUSAL
  | RES_FAULT_CAUSE
  | RES_FAULT_PHASE
  | RES_FAULT_LOCAL_VALID
  | RES_FAULT_BUF_SEL
  | RES_FAULT_REGION
  | RES_FAULT_STEP_STEP
  | RES_FAULT_COUNT_JOB
  | RES_RESET_CAUSE
  | RES_RESTORE_DONE
  | RES_RESTORE_PAIRS_INTACT
  | RES_RESTORE_DIGEST_DIFFERS
  -- R515, 17_faults_and_state_securing.md
  | LOG_NEWEST_SEQ
  | LOG_OLDEST_SEQ
  | LOG_LOST_COUNT
  | LOG_FLASH_RESTORED
  | LOG_FLASH_FLUSH_FAILED
  -- R533, 18_connectors_and_ratings.md
  | RES_MGMT_SECURE_NOW
  | RES_MGMT_SN_HELD
  | RES_MGMT_SN_HELD_SEEN
  | RES_MGMT_PERST
  | RES_MGMT_THERM_TRIP
  | RES_MGMT_ALERT
  | RES_MGMT_SMB_TIMEOUT_SEEN
deriving DecidableEq, Repr

/-- The access codes of Table 4 of "Scope, Variants and Conventions" (R9). -/
inductive Access where
  | ro | rw | w1c | wo | rwf
deriving DecidableEq, Repr

/-- How a field's register repeats: once; in a row of `count` registers `stride` bytes apart; once in each region's
debug window; once in each core page of a debug window (R116, R156, R268). -/
inductive FieldKind where
  | single
  | array (stride count : Nat)
  | region
  | corePage
deriving DecidableEq, Repr

/-- One row of a register table: where the register lies (the BAR0 offset of the first instance; within the debug
window or core page for the last two kinds), the field's lowest bit and width, its access code, its Reset entry. -/
structure FieldInfo where
  kind : FieldKind
  addr : Nat
  lo : Nat
  width : Nat
  acc : Access
  reset : Nat
deriving DecidableEq, Repr

/-- The register tables of the spec. -/
def Field.info : Field → FieldInfo
  | .RES_MODULE_ID_MODULE_ID => ⟨.single, 0xb00000, 0, 14, .ro, 0⟩
  | .RES_MODULE_ID_NEXT_ID => ⟨.single, 0xb00000, 16, 14, .rw, 0⟩
  | .RES_MODULE_ID_ASSIGNED => ⟨.single, 0xb00000, 30, 1, .ro, 0⟩
  | .RES_MODULE_ID_PENDING => ⟨.single, 0xb00000, 31, 1, .ro, 0⟩
  | .RES_FEED_TAGS_FEED_A_TAG => ⟨.single, 0xb00004, 0, 4, .ro, 0⟩
  | .RES_FEED_TAGS_FEED_B_TAG => ⟨.single, 0xb00004, 4, 4, .ro, 0⟩
  | .RES_FEED_TAGS_A_CHANGED => ⟨.single, 0xb00004, 8, 1, .w1c, 0⟩
  | .RES_FEED_TAGS_B_CHANGED => ⟨.single, 0xb00004, 9, 1, .w1c, 0⟩
  | .RES_SITE_TAG_SITE_TAG => ⟨.single, 0xb00008, 0, 16, .rw, 0⟩
  | .CORE_STATUS_STATE => ⟨.corePage, 0x0, 0, 2, .ro, 0⟩
  | .CORE_STATUS_STALLED => ⟨.corePage, 0x0, 2, 1, .ro, 0⟩
  | .CORE_STATUS_IN_BWAIT => ⟨.corePage, 0x0, 3, 1, .ro, 0⟩
  | .CORE_STATUS_STREAM_BUSY => ⟨.corePage, 0x0, 4, 4, .ro, 0⟩
  | .CORE_STATUS_ARRAY_BUSY => ⟨.corePage, 0x0, 8, 1, .ro, 0⟩
  | .CORE_PC_PC => ⟨.corePage, 0x4, 0, 12, .ro, 0⟩
  | .CORE_TRAP_CAUSE => ⟨.corePage, 0x8, 0, 8, .ro, 0⟩
  | .CORE_TRAP_SLOT => ⟨.corePage, 0x8, 8, 2, .ro, 0⟩
  | .CORE_TRAP_INFO => ⟨.corePage, 0x8, 16, 16, .ro, 0⟩
  | .CORE_TRAP_PC_PC => ⟨.corePage, 0xc, 0, 12, .ro, 0⟩
  | .CORE_CFG_FTZ => ⟨.corePage, 0x10, 0, 1, .rw, 0⟩
  | .CORE_ID_TILE => ⟨.corePage, 0x14, 0, 6, .ro, 0⟩
  | .CORE_ID_CLUSTER => ⟨.corePage, 0x14, 6, 6, .ro, 0⟩
  | .CORE_ID_CORE => ⟨.corePage, 0x14, 12, 4, .ro, 0⟩
  | .CORE_ID_VALID => ⟨.corePage, 0x14, 16, 1, .ro, 0⟩
  | .CORE_ISSUED_COUNT => ⟨.corePage, 0x18, 0, 32, .ro, 0⟩
  | .CORE_STALLS_COUNT => ⟨.corePage, 0x1c, 0, 32, .ro, 0⟩
  | .ARR_RAMP_STAGGER => ⟨.region, 0x4800, 0, 4, .rw, 2⟩
  | .ARR_SKEW_SLOT => ⟨.region, 0x4804, 0, 7, .rw, 0⟩
  | .ARR_SKEW_EN => ⟨.region, 0x4804, 7, 1, .rw, 0⟩
  | .ARR_DBG_SEL_SLOT => ⟨.region, 0x4808, 0, 7, .rw, 0⟩
  | .ARR_DBG_SEL_BANK => ⟨.region, 0x4808, 7, 1, .rw, 0⟩
  | .ARR_DBG_SEL_LINE => ⟨.region, 0x4808, 8, 9, .rw, 0⟩
  | .ARR_DBG_SEL_CAPTURED => ⟨.region, 0x4808, 30, 1, .ro, 0⟩
  | .ARR_DBG_SEL_CAPTURE => ⟨.region, 0x4808, 31, 1, .wo, 0⟩
  | .ARR_DBG_DATA_SUM => ⟨.region, 0x4880, 0, 32, .ro, 0⟩
  | .CORE_NAN_VALID => ⟨.corePage, 0x20, 0, 1, .ro, 0⟩
  | .CORE_NAN_UNIT => ⟨.corePage, 0x20, 1, 3, .ro, 0⟩
  | .CORE_NAN_DESC => ⟨.corePage, 0x20, 4, 8, .ro, 0⟩
  | .CORE_NAN_LAYER_TAG => ⟨.corePage, 0x20, 12, 12, .ro, 0⟩
  | .CORE_NAN_TAG_VALID => ⟨.corePage, 0x20, 24, 1, .ro, 0⟩
  | .CORE_NAN_PC_PC => ⟨.corePage, 0x24, 0, 12, .ro, 0⟩
  | .CORE_NAN_PC_SLOT => ⟨.corePage, 0x24, 12, 2, .ro, 0⟩
  | .CORE_NAN_STEP_STEP => ⟨.corePage, 0x28, 0, 32, .ro, 0⟩
  | .CORE_FLAGS_OVF16 => ⟨.corePage, 0x2c, 0, 1, .ro, 0⟩
  | .NUM_CFG_NAN_MODE => ⟨.single, 0x700000, 0, 1, .rw, 0⟩
  | .NUM_NAN_LOC_TILE => ⟨.single, 0x700010, 0, 6, .ro, 0⟩
  | .NUM_NAN_LOC_CLUSTER => ⟨.single, 0x700010, 6, 6, .ro, 0⟩
  | .NUM_NAN_LOC_CORE => ⟨.single, 0x700010, 12, 4, .ro, 0⟩
  | .NUM_NAN_LOC_SLOT => ⟨.single, 0x700010, 16, 2, .ro, 0⟩
  | .NUM_NAN_LOC_UNIT => ⟨.single, 0x700010, 18, 3, .ro, 0⟩
  | .NUM_NAN_LOC_VALID => ⟨.single, 0x700010, 31, 1, .ro, 0⟩
  | .NUM_NAN_PC_PC => ⟨.single, 0x700014, 0, 12, .ro, 0⟩
  | .NUM_NAN_PC_DESC => ⟨.single, 0x700014, 16, 8, .ro, 0⟩
  | .NUM_NAN_TAG_LAYER_TAG => ⟨.single, 0x700018, 0, 12, .ro, 0⟩
  | .NUM_NAN_TAG_TAG_VALID => ⟨.single, 0x700018, 12, 1, .ro, 0⟩
  | .NUM_NAN_STEP_STEP => ⟨.single, 0x70001c, 0, 32, .ro, 0⟩
  | .NUM_NAN_TIME_AC => ⟨.single, 0x700020, 0, 32, .ro, 0⟩
  | .NUM_NAN_COUNT_COUNT => ⟨.single, 0x700024, 0, 16, .ro, 0⟩
  | .NUM_LAYER_SEL_TAG => ⟨.single, 0x700030, 0, 12, .rw, 0⟩
  | .NUM_LAYER_SEL_VIEW => ⟨.single, 0x700030, 12, 1, .rw, 0⟩
  | .NUM_LAYER_CRUMBS_COUNT => ⟨.single, 0x700034, 0, 32, .ro, 0⟩
  | .NUM_LAYER_SATS_COUNT => ⟨.single, 0x700038, 0, 32, .ro, 0⟩
  | .NUM_LAYER_OVF_OVF16 => ⟨.single, 0x70003c, 0, 16, .ro, 0⟩
  | .NUM_LAYER_OVF_OTHER => ⟨.single, 0x70003c, 16, 16, .ro, 0⟩
  | .NUM_LAYER_SCALE_RANGE => ⟨.single, 0x700040, 0, 16, .ro, 0⟩
  | .NUM_LAYER_SCALE_UNDER => ⟨.single, 0x700040, 16, 16, .ro, 0⟩
  | .NUM_LAYER_CSB_COUNT => ⟨.single, 0x700044, 0, 32, .ro, 0⟩
  | .MEM_RING_CFG_STACKS => ⟨.single, 0x800000, 0, 6, .ro, 0⟩
  | .MEM_RING_CFG_DEGRADED => ⟨.single, 0x800000, 6, 1, .ro, 0⟩
  | .MEM_RING_CFG_RING_FILLED => ⟨.single, 0x800000, 7, 1, .ro, 0⟩
  | .MEM_RING_CFG_SRAM_FILLED => ⟨.single, 0x800000, 8, 1, .ro, 0⟩
  | .MEM_RING_CFG_SIZE_GIB => ⟨.single, 0x800000, 16, 11, .ro, 0⟩
  | .MEM_RING_MAP_LO_IN_USE => ⟨.single, 0x800004, 0, 32, .ro, 0⟩
  | .MEM_RING_MAP_HI_IN_USE => ⟨.single, 0x800008, 0, 4, .ro, 0⟩
  | .MEM_SCRUB_CFG_PERIOD_S => ⟨.single, 0x800010, 0, 10, .rw, 60⟩
  | .MEM_SCRUB_CFG_PATROL_H => ⟨.single, 0x800010, 16, 8, .rw, 24⟩
  | .MEM_SCRUB_EFF_PERIOD_S => ⟨.single, 0x800014, 0, 10, .ro, 60⟩
  | .MEM_SCRUB_EFF_PATROL_MIN => ⟨.single, 0x800014, 12, 14, .ro, 1440⟩
  | .MEM_SCRUB_PASSES_CLUSTER => ⟨.single, 0x800018, 0, 16, .ro, 0⟩
  | .MEM_SCRUB_PASSES_PATROL => ⟨.single, 0x800018, 16, 16, .ro, 0⟩
  | .MEM_CE_SEL_KIND => ⟨.single, 0x800020, 0, 1, .rw, 0⟩
  | .MEM_CE_SEL_INDEX => ⟨.single, 0x800020, 1, 11, .rw, 0⟩
  | .MEM_CE_SEL_STATUS => ⟨.single, 0x800020, 26, 2, .ro, 0⟩
  | .MEM_CE_SEL_BUSY => ⟨.single, 0x800020, 28, 1, .ro, 0⟩
  | .MEM_CE_SEL_CLEAR => ⟨.single, 0x800020, 30, 1, .wo, 0⟩
  | .MEM_CE_SEL_GO => ⟨.single, 0x800020, 31, 1, .wo, 0⟩
  | .MEM_CE_COUNT_COUNT => ⟨.single, 0x800024, 0, 32, .ro, 0⟩
  | .MEM_CE_OVF_COUNT => ⟨.single, 0x800028, 0, 16, .ro, 0⟩
  | .MEM_UE_COUNT_COUNT => ⟨.single, 0x80002c, 0, 16, .ro, 0⟩
  | .MEM_MERGE_COUNT => ⟨.single, 0x800030, 0, 32, .ro, 0⟩
  | .MEM_TOTAL_CE_COUNT => ⟨.single, 0x800034, 0, 32, .ro, 0⟩
  | .MEM_TOTAL_UE_COUNT => ⟨.single, 0x800038, 0, 16, .ro, 0⟩
  | .MEM_CE_ENTRY_LO_VALID => ⟨.array 8 16, 0x800040, 0, 1, .ro, 0⟩
  | .MEM_CE_ENTRY_LO_TIER => ⟨.array 8 16, 0x800040, 1, 2, .ro, 0⟩
  | .MEM_CE_ENTRY_LO_SLOT => ⟨.array 8 16, 0x800040, 3, 5, .ro, 0⟩
  | .MEM_CE_ENTRY_LO_POS => ⟨.array 8 16, 0x800040, 8, 7, .ro, 0⟩
  | .MEM_CE_ENTRY_LO_REPEAT => ⟨.array 8 16, 0x800040, 15, 8, .ro, 0⟩
  | .MEM_CE_ENTRY_HI_LOC => ⟨.array 8 16, 0x800044, 0, 30, .ro, 0⟩
  | .MESH_SLIP_COUNT_COUNT => ⟨.region, 0x5000, 0, 16, .ro, 0⟩
  | .MESH_SLIP_LAST_KIND => ⟨.region, 0x5004, 0, 2, .ro, 0⟩
  | .MESH_SLIP_LAST_SYS => ⟨.region, 0x5004, 2, 1, .ro, 0⟩
  | .MESH_SLIP_LAST_ID => ⟨.region, 0x5004, 3, 8, .ro, 0⟩
  | .MESH_SLIP_LAST_SLOT => ⟨.region, 0x5004, 11, 7, .ro, 0⟩
  | .MESH_SLIP_LAST_PORT => ⟨.region, 0x5004, 18, 3, .ro, 0⟩
  | .MESH_SLIP_LAST_EXCESS => ⟨.region, 0x5004, 21, 11, .ro, 0⟩
  | .MESH_DROP_COUNT => ⟨.region, 0x5008, 0, 16, .ro, 0⟩
  | .MESH_DROP_SLOT => ⟨.region, 0x5008, 16, 7, .ro, 0⟩
  | .MESH_DROP_CAUSE => ⟨.region, 0x5008, 23, 2, .ro, 0⟩
  | .MESH_HOLD_MAX_FC => ⟨.region, 0x500c, 0, 16, .ro, 0⟩
  | .MESH_HOLD_MAX_TREE => ⟨.region, 0x500c, 16, 8, .ro, 0⟩
  | .MESH_RTR_SEL_SLOT => ⟨.region, 0x5010, 0, 7, .rw, 0⟩
  | .MESH_RTR_SEL_PORT => ⟨.region, 0x5010, 7, 3, .rw, 0⟩
  | .MESH_RTR_SEL_VC => ⟨.region, 0x5010, 10, 2, .rw, 0⟩
  | .MESH_RTR_FLITS_COUNT => ⟨.region, 0x5014, 0, 32, .ro, 0⟩
  | .MESH_RTR_STALL_COUNT => ⟨.region, 0x5018, 0, 32, .ro, 0⟩
  | .MESH_BAR_SEL_ID => ⟨.region, 0x5020, 0, 8, .rw, 0⟩
  | .MESH_BAR_SEL_SYS => ⟨.region, 0x5020, 8, 1, .rw, 0⟩
  | .MESH_BAR_STATE_ROOT => ⟨.region, 0x5024, 0, 1, .ro, 0⟩
  | .MESH_BAR_STATE_OPEN => ⟨.region, 0x5024, 1, 1, .ro, 0⟩
  | .MESH_BAR_STATE_PENDING => ⟨.region, 0x5024, 2, 3, .ro, 0⟩
  | .MESH_BAR_STATE_RELEASES => ⟨.region, 0x5024, 16, 16, .ro, 0⟩
  | .MESH_BAR_LAST_FC => ⟨.region, 0x5028, 0, 32, .ro, 0⟩
  | .OPT_SUMMARY_FITTED => ⟨.single, 0x900000, 0, 8, .ro, 0⟩
  | .OPT_SUMMARY_ACTIVE => ⟨.single, 0x900000, 8, 8, .ro, 0⟩
  | .OPT_SUMMARY_NOT_UP => ⟨.single, 0x900000, 16, 8, .ro, 0⟩
  | .OPT_EVENTS_LOST => ⟨.single, 0x900004, 0, 1, .w1c, 0⟩
  | .OPT_EVENTS_REFUSED => ⟨.single, 0x900004, 1, 1, .w1c, 0⟩
  | .OPT_EVENTS_REMAPPED => ⟨.single, 0x900004, 2, 1, .w1c, 0⟩
  | .OPT_EVENTS_DARK => ⟨.single, 0x900004, 3, 1, .w1c, 0⟩
  | .OPT_EVENTS_FEC_HIGH => ⟨.single, 0x900004, 4, 1, .w1c, 0⟩
  | .OPT_EVENTS_RX_DROP => ⟨.single, 0x900004, 5, 1, .w1c, 0⟩
  | .OPT_FEC_LIMIT_LIMIT => ⟨.single, 0x900008, 0, 24, .rw, 1000000⟩
  | .OPT_TRAIN_BUSY => ⟨.single, 0x90000c, 0, 1, .ro, 0⟩
  | .OPT_TRAIN_LAST_MS => ⟨.single, 0x90000c, 8, 8, .ro, 0⟩
  | .OPT_PORT_STATE_STATE => ⟨.array 32 160, 0x901000, 0, 4, .ro, 0⟩
  | .OPT_PORT_STATE_CAUSE => ⟨.array 32 160, 0x901000, 4, 4, .ro, 0⟩
  | .OPT_PORT_STATE_DARK_LANES => ⟨.array 32 160, 0x901000, 8, 8, .ro, 0⟩
  | .OPT_PORT_STATE_REMAPPED => ⟨.array 32 160, 0x901000, 16, 1, .ro, 0⟩
  | .OPT_PORT_STATE_ENABLED => ⟨.array 32 160, 0x901000, 17, 1, .ro, 0⟩
  | .OPT_PORT_STATE_PEER_ENABLED => ⟨.array 32 160, 0x901000, 18, 1, .ro, 0⟩
  | .OPT_PORT_STATE_EXPECTED => ⟨.array 32 160, 0x901000, 19, 1, .ro, 0⟩
  | .OPT_PORT_PEER_MODULE_ID => ⟨.array 32 160, 0x901004, 0, 14, .ro, 0⟩
  | .OPT_PORT_PEER_TILE => ⟨.array 32 160, 0x901004, 14, 6, .ro, 0⟩
  | .OPT_PORT_PEER_PORT => ⟨.array 32 160, 0x901004, 20, 2, .ro, 0⟩
  | .OPT_PORT_PEER_VALID => ⟨.array 32 160, 0x901004, 31, 1, .ro, 0⟩
  | .OPT_PORT_LINK_FIBRE_NS => ⟨.array 32 160, 0x901008, 0, 11, .ro, 0⟩
  | .OPT_PORT_LINK_RETRAINS => ⟨.array 32 160, 0x901008, 16, 16, .ro, 0⟩
  | .OPT_PORT_FEC_CW_CORRECTED => ⟨.array 32 160, 0x90100c, 0, 32, .ro, 0⟩
  | .OPT_PORT_FEC_BAD_UNCORRECTABLE => ⟨.array 32 160, 0x901010, 0, 16, .ro, 0⟩
  | .OPT_PORT_FEC_BAD_REPLAYS => ⟨.array 32 160, 0x901010, 16, 16, .ro, 0⟩
  | .OPT_PORT_TX_FLITS => ⟨.array 32 160, 0x901014, 0, 32, .ro, 0⟩
  | .OPT_PORT_RX_FLITS => ⟨.array 32 160, 0x901018, 0, 32, .ro, 0⟩
  | .OPT_PORT_CTRL_DISABLE => ⟨.array 32 160, 0x90101c, 0, 1, .rw, 0⟩
  | .OPT_PORT_CTRL_RETRAIN => ⟨.array 32 160, 0x90101c, 1, 1, .wo, 0⟩
  | .OPT_PORT_CTRL_DROP_CAUSE => ⟨.array 32 160, 0x90101c, 2, 2, .ro, 0⟩
  | .OPT_PORT_CTRL_RX_DROPS => ⟨.array 32 160, 0x90101c, 16, 16, .ro, 0⟩
  | .RES_STEP_LO_COUNT => ⟨.single, 0xb00100, 0, 32, .ro, 0⟩
  | .RES_STEP_HI_COUNT => ⟨.single, 0xb00104, 0, 32, .ro, 0⟩
  | .RES_STEP_START_LO_COUNT => ⟨.single, 0xb00108, 0, 32, .rw, 0⟩
  | .RES_STEP_START_HI_COUNT => ⟨.single, 0xb0010c, 0, 32, .rw, 0⟩
  | .RES_STEP_STATE_PHASE => ⟨.single, 0xb00110, 0, 3, .ro, 0⟩
  | .RES_STEP_STATE_MICRO => ⟨.single, 0xb00110, 3, 8, .ro, 0⟩
  | .RES_STEP_STATE_BUF_SEL => ⟨.single, 0xb00110, 11, 1, .ro, 0⟩
  | .RES_STEP_STATE_STABLE => ⟨.single, 0xb00110, 12, 1, .ro, 0⟩
  | .RES_STEP_STATE_SKIPPED => ⟨.single, 0xb00110, 13, 1, .ro, 0⟩
  | .RES_STEP_STATE_STOPPED => ⟨.single, 0xb00110, 14, 1, .ro, 0⟩
  | .RES_STEP_STATE_HOLD => ⟨.single, 0xb00110, 16, 6, .ro, 0⟩
  | .RES_STEP_QP_LAST_FC => ⟨.single, 0xb00114, 0, 24, .ro, 0⟩
  | .RES_STEP_CTRL_START_BUF => ⟨.single, 0xb00118, 0, 1, .rw, 0⟩
  | .RES_STEP_CTRL_STOP_EN => ⟨.single, 0xb00118, 1, 1, .rw, 0⟩
  | .RES_STEP_STOP_COUNT => ⟨.single, 0xb0011c, 0, 32, .rw, 0⟩
  | .RES_STEP_HOLDS_INPUT => ⟨.single, 0xb00120, 0, 16, .ro, 0⟩
  | .RES_STEP_HOLDS_SECURE => ⟨.single, 0xb00120, 16, 16, .ro, 0⟩
  | .MEM_IN_CFG_SLOTS => ⟨.array 32 8, 0x800200, 0, 8, .ro, 0⟩
  | .MEM_IN_CFG_DEPTH => ⟨.array 32 8, 0x800200, 8, 8, .ro, 0⟩
  | .MEM_IN_CFG_VALID => ⟨.array 32 8, 0x800200, 16, 1, .ro, 0⟩
  | .MEM_IN_SLOT_UNITS => ⟨.array 32 8, 0x800204, 0, 28, .ro, 0⟩
  | .MEM_IN_BASE_LO_ADDR => ⟨.array 32 8, 0x800208, 0, 32, .ro, 0⟩
  | .MEM_IN_BASE_HI_ADDR => ⟨.array 32 8, 0x80020c, 0, 16, .ro, 0⟩
  | .MEM_IN_PROD_STEP => ⟨.array 32 8, 0x800210, 0, 32, .rw, 0⟩
  | .MEM_IN_STAT_STARVED => ⟨.array 32 8, 0x800214, 0, 16, .ro, 0⟩
  | .MEM_IN_STAT_OVERRUNS => ⟨.array 32 8, 0x800214, 16, 16, .ro, 0⟩
  | .NUM_LS_EXP => ⟨.single, 0x700100, 0, 5, .ro, 0⟩
  | .NUM_LS_EN => ⟨.single, 0x700100, 5, 1, .ro, 0⟩
  | .NUM_LS_CLEAN => ⟨.single, 0x700100, 16, 16, .ro, 0⟩
  | .NUM_LS_CFG_INIT_EXP => ⟨.single, 0x700104, 0, 5, .ro, 0⟩
  | .NUM_LS_CFG_CLEAN_STEPS => ⟨.single, 0x700104, 8, 16, .ro, 2000⟩
  | .NUM_LS_CFG_SKIP_LIMIT => ⟨.single, 0x700104, 24, 8, .ro, 0⟩
  | .NUM_LS_STAT_SKIPS => ⟨.single, 0x700108, 0, 16, .ro, 0⟩
  | .NUM_LS_STAT_CONSEC => ⟨.single, 0x700108, 16, 8, .ro, 0⟩
  | .NUM_LS_STAT_LAST_OVF => ⟨.single, 0x700108, 24, 1, .ro, 0⟩
  | .NUM_LS_STAT_FLOOR => ⟨.single, 0x700108, 25, 1, .w1c, 0⟩
  | .NUM_EXP_SEL_TAG => ⟨.single, 0x700110, 0, 12, .rw, 0⟩
  | .NUM_EXP_S => ⟨.single, 0x700114, 0, 8, .ro, 0⟩
  | .NUM_EXP_EN => ⟨.single, 0x700114, 8, 1, .ro, 0⟩
  | .NUM_EXP_UPDATE => ⟨.single, 0x700114, 9, 1, .ro, 0⟩
  | .NUM_EXP_LAST_UP => ⟨.single, 0x700114, 10, 1, .ro, 0⟩
  | .NUM_EXP_LAST_DOWN => ⟨.single, 0x700114, 11, 1, .ro, 0⟩
  | .NUM_EXP_LIM_S_MIN => ⟨.single, 0x700118, 0, 8, .ro, 0⟩
  | .NUM_EXP_LIM_S_MAX => ⟨.single, 0x700118, 8, 8, .ro, 0⟩
  | .NUM_EXP_THR_RAISE_THRESH => ⟨.single, 0x70011c, 0, 32, .ro, 0⟩
  | .NUM_EXP_MOVES_RAISES => ⟨.single, 0x700120, 0, 16, .ro, 0⟩
  | .NUM_EXP_MOVES_LOWERS => ⟨.single, 0x700120, 16, 16, .ro, 0⟩
  | .NUM_MON_SETTLE_LEFT => ⟨.single, 0x700130, 0, 4, .ro, 0⟩
  | .NUM_MON_STOP_EN => ⟨.single, 0x700130, 4, 1, .ro, 0⟩
  | .NUM_MON_RATIO_STOP => ⟨.single, 0x700130, 5, 1, .ro, 0⟩
  | .NUM_MON_STAT_EVENTS => ⟨.single, 0x700134, 0, 16, .ro, 0⟩
  | .NUM_MON_STAT_MISSING => ⟨.single, 0x700134, 16, 16, .ro, 0⟩
  | .NUM_MON_LAST_TAG => ⟨.single, 0x700138, 0, 12, .ro, 0⟩
  | .NUM_MON_LAST_LOW => ⟨.single, 0x700138, 12, 1, .ro, 0⟩
  | .NUM_MON_LAST_HIGH => ⟨.single, 0x700138, 13, 1, .ro, 0⟩
  | .NUM_MON_LAST_VALID => ⟨.single, 0x700138, 14, 1, .ro, 0⟩
  | .NUM_MON_LAST_STEP_STEP => ⟨.single, 0x70013c, 0, 32, .ro, 0⟩
  | .NUM_MON_FLAG_SEL_WORD => ⟨.single, 0x700140, 0, 7, .rw, 0⟩
  | .NUM_MON_FLAGS_FLAGS => ⟨.single, 0x700144, 0, 32, .w1c, 0⟩
  | .NUM_RESTART_LOST => ⟨.single, 0x700150, 0, 1, .wo, 0⟩
  | .NUM_RESTART_BUSY => ⟨.single, 0x700150, 1, 1, .ro, 0⟩
  | .NUM_RESTART_DONE => ⟨.single, 0x700150, 2, 1, .ro, 0⟩
  | .NUM_AREA_LO_ADDR => ⟨.single, 0x700158, 0, 32, .ro, 0⟩
  | .NUM_AREA_HI_ADDR => ⟨.single, 0x70015c, 0, 16, .ro, 0⟩
  | .NUM_PAGE_ADDR => ⟨.single, 0x700160, 0, 20, .ro, 0⟩
  | .RES_DISTIL_CFG_MODE => ⟨.single, 0xb00180, 0, 2, .ro, 0⟩
  | .RES_DISTIL_CFG_K => ⟨.single, 0xb00180, 8, 9, .ro, 0⟩
  | .RES_DISTIL_CFG_BUFFERS => ⟨.single, 0xb00180, 17, 3, .ro, 0⟩
  | .RES_DISTIL_CFG_FROZEN => ⟨.single, 0xb00180, 20, 4, .ro, 0⟩
  | .RES_DISTIL_TEMP_T => ⟨.single, 0xb00184, 0, 32, .ro, 0⟩
  | .RES_DISTIL_VOCAB_SIZE => ⟨.single, 0xb00188, 0, 32, .ro, 0⟩
  | .RES_DISTIL_REGIONS_TEACHER => ⟨.single, 0xb0018c, 0, 9, .ro, 0⟩
  | .RES_DISTIL_REGIONS_STUDENT => ⟨.single, 0xb0018c, 16, 9, .ro, 0⟩
  | .RES_DISTIL_BAR_READY_ID => ⟨.single, 0xb00190, 0, 8, .ro, 0⟩
  | .RES_DISTIL_BAR_READY_SYS => ⟨.single, 0xb00190, 8, 1, .ro, 0⟩
  | .RES_DISTIL_BAR_FREE_ID => ⟨.single, 0xb00190, 16, 8, .ro, 0⟩
  | .RES_DISTIL_BAR_FREE_SYS => ⟨.single, 0xb00190, 24, 1, .ro, 0⟩
  | .RES_DISTIL_ROLE_SEL_REGION => ⟨.single, 0xb00194, 0, 9, .rw, 0⟩
  | .RES_DISTIL_ROLE_ROLE => ⟨.single, 0xb00198, 0, 2, .ro, 0⟩
  | .RES_DISTIL_FROZEN_SEL_INDEX => ⟨.single, 0xb0019c, 0, 3, .rw, 0⟩
  | .RES_DISTIL_FROZEN_BASE_UNITS => ⟨.single, 0xb001a0, 0, 29, .ro, 0⟩
  | .RES_DISTIL_FROZEN_LEN_UNITS => ⟨.single, 0xb001a4, 0, 29, .ro, 0⟩
  | .IMG_STATE_STATE => ⟨.single, 0x600000, 0, 2, .ro, 0⟩
  | .IMG_STATE_PATCHES => ⟨.single, 0x600000, 16, 16, .ro, 0⟩
  | .IMG_RESULT_CODE => ⟨.single, 0x600004, 0, 8, .ro, 0⟩
  | .IMG_RESULT_PATCH => ⟨.single, 0x600004, 8, 1, .ro, 0⟩
  | .IMG_ITEM_SECTION => ⟨.single, 0x600008, 0, 4, .ro, 0⟩
  | .IMG_ITEM_RECORD => ⟨.single, 0x600008, 4, 28, .ro, 0⟩
  | .IMG_ARB_ARB => ⟨.single, 0x60000c, 0, 7, .ro, 0⟩
  | .TXN_TIMEOUT_SECONDS => ⟨.single, 0x600010, 0, 16, .rw, 30⟩
  | .IMG_DIGEST_WORD => ⟨.array 4 16, 0x600040, 0, 32, .ro, 0⟩
  | .TXN_STATE_STATE => ⟨.array 32 4, 0x600100, 0, 2, .ro, 0⟩
  | .TXN_STATE_REQUESTER => ⟨.array 32 4, 0x600100, 2, 2, .ro, 0⟩
  | .TXN_STATE_ITEMS => ⟨.array 32 4, 0x600100, 16, 13, .ro, 0⟩
  | .TXN_RESULT_OUTCOME => ⟨.array 32 4, 0x600104, 0, 3, .ro, 0⟩
  | .TXN_RESULT_CODE => ⟨.array 32 4, 0x600104, 4, 8, .ro, 0⟩
  | .TXN_RESULT_ITEM => ⟨.array 32 4, 0x600104, 12, 12, .ro, 0⟩
  | .TXN_AGE_SECONDS => ⟨.array 32 4, 0x600108, 0, 16, .ro, 0⟩
  | .TXN_AGE_SEQ => ⟨.array 32 4, 0x600108, 16, 16, .ro, 0⟩
  | .TXN_COND_REGION => ⟨.array 32 4, 0x60010c, 0, 9, .ro, 0⟩
  | .TXN_COND_OUTLET => ⟨.array 32 4, 0x60010c, 9, 1, .ro, 0⟩
  | .TXN_COND_VALID => ⟨.array 32 4, 0x60010c, 10, 1, .ro, 0⟩
  | .HOST_MBX_CMD_WORD => ⟨.array 4 16, 0x0, 0, 32, .rw, 0⟩
  | .HOST_MBX_CTRL_GO => ⟨.single, 0x40, 0, 1, .wo, 0⟩
  | .HOST_MBX_CTRL_BUSY => ⟨.single, 0x40, 1, 1, .ro, 0⟩
  | .HOST_MBX_CTRL_DONE => ⟨.single, 0x40, 2, 1, .w1c, 0⟩
  | .HOST_MBX_CPL_WORD => ⟨.array 4 8, 0x60, 0, 32, .ro, 0⟩
  | .HOST_BAR2_BASE_GIB => ⟨.single, 0x80, 0, 11, .rw, 0⟩
  | .HOST_IRQ_STATUS_SRC => ⟨.single, 0x84, 0, 19, .w1c, 0⟩
  | .HOST_IRQ_MASK_SRC => ⟨.single, 0x88, 0, 19, .rw, 524287⟩
  | .HOST_SQ_BASE_LO_ADDR => ⟨.array 64 4, 0x100, 0, 32, .rw, 0⟩
  | .HOST_SQ_BASE_HI_ADDR => ⟨.array 64 4, 0x104, 0, 16, .rw, 0⟩
  | .HOST_RING_CFG_SIZE => ⟨.array 64 4, 0x108, 0, 4, .rw, 0⟩
  | .HOST_RING_CFG_EN => ⟨.array 64 4, 0x108, 4, 1, .rw, 0⟩
  | .HOST_RING_CFG_HOST_MEM => ⟨.array 64 4, 0x108, 5, 1, .rw, 0⟩
  | .HOST_SQ_TAIL_INDEX => ⟨.array 64 4, 0x10c, 0, 12, .rw, 0⟩
  | .HOST_SQ_HEAD_INDEX => ⟨.array 64 4, 0x110, 0, 12, .ro, 0⟩
  | .HOST_CQ_BASE_LO_ADDR => ⟨.array 64 4, 0x114, 0, 32, .rw, 0⟩
  | .HOST_CQ_BASE_HI_ADDR => ⟨.array 64 4, 0x118, 0, 32, .rw, 0⟩
  | .HOST_CQ_TAIL_INDEX => ⟨.array 64 4, 0x11c, 0, 12, .ro, 0⟩
  | .HOST_CQ_HEAD_INDEX => ⟨.array 64 4, 0x120, 0, 12, .rw, 0⟩
  | .HOST_RING_STAT_FAULT => ⟨.array 64 4, 0x124, 0, 1, .w1c, 0⟩
  | .HOST_RING_STAT_CAUSE => ⟨.array 64 4, 0x124, 1, 3, .ro, 0⟩
  | .PWR_FEED_A_VOLTS => ⟨.single, 0x200000, 0, 16, .ro, 0⟩
  | .PWR_FEED_A_AMPS => ⟨.single, 0x200000, 16, 16, .ro, 0⟩
  | .PWR_FEED_B_VOLTS => ⟨.single, 0x200004, 0, 16, .ro, 0⟩
  | .PWR_FEED_B_AMPS => ⟨.single, 0x200004, 16, 16, .ro, 0⟩
  | .PWR_BUS_VOLTS => ⟨.single, 0x200008, 0, 16, .ro, 0⟩
  | .PWR_BUS_WATTS => ⟨.single, 0x200008, 16, 16, .ro, 0⟩
  | .PWR_FEED_STAT_A_STATE => ⟨.single, 0x20000c, 0, 2, .ro, 0⟩
  | .PWR_FEED_STAT_B_STATE => ⟨.single, 0x20000c, 2, 2, .ro, 0⟩
  | .PWR_FEED_STAT_A_RANGE => ⟨.single, 0x20000c, 4, 1, .ro, 0⟩
  | .PWR_FEED_STAT_B_RANGE => ⟨.single, 0x20000c, 5, 1, .ro, 0⟩
  | .PWR_FEED_STAT_A_CARRY => ⟨.single, 0x20000c, 6, 1, .ro, 0⟩
  | .PWR_FEED_STAT_B_CARRY => ⟨.single, 0x20000c, 7, 1, .ro, 0⟩
  | .PWR_FEED_STAT_SAG => ⟨.single, 0x20000c, 8, 1, .ro, 0⟩
  | .PWR_FEED_STAT_SAG_SEEN => ⟨.single, 0x20000c, 9, 1, .w1c, 0⟩
  | .PWR_FEED_STAT_A_ISO_SEEN => ⟨.single, 0x20000c, 10, 1, .w1c, 0⟩
  | .PWR_FEED_STAT_B_ISO_SEEN => ⟨.single, 0x20000c, 11, 1, .w1c, 0⟩
  | .PWR_CAP_CAP_W => ⟨.single, 0x200010, 0, 16, .ro, 21000⟩
  | .PWR_CAP_PROFILE => ⟨.single, 0x200010, 16, 2, .ro, 1⟩
  | .PWR_CAP_LEVEL => ⟨.single, 0x200010, 20, 4, .ro, 0⟩
  | .PWR_PLAN_PLANNED_W => ⟨.single, 0x200014, 0, 16, .ro, 0⟩
  | .PWR_PLAN_PEAK_W => ⟨.single, 0x200014, 16, 16, .ro, 0⟩
  | .PWR_HOLDUP_FITTED => ⟨.single, 0x200018, 0, 1, .ro, 0⟩
  | .PWR_HOLDUP_ARMED => ⟨.single, 0x200018, 1, 1, .ro, 0⟩
  | .PWR_HOLDUP_READY => ⟨.single, 0x200018, 2, 1, .ro, 0⟩
  | .PWR_HOLDUP_ACTIVE => ⟨.single, 0x200018, 3, 1, .ro, 0⟩
  | .PWR_HOLDUP_JOULES => ⟨.single, 0x200018, 16, 16, .ro, 0⟩
  | .PWR_LADDER_MODULE => ⟨.single, 0x20001c, 0, 3, .ro, 0⟩
  | .PWR_LADDER_BUSY => ⟨.single, 0x20001c, 3, 1, .ro, 0⟩
  | .PWR_EVENTS_SAGS => ⟨.single, 0x200020, 0, 16, .ro, 0⟩
  | .PWR_EVENTS_ISOLATIONS => ⟨.single, 0x200020, 16, 16, .ro, 0⟩
  | .PWR_CLK_RUN_REGIONS => ⟨.array 4 13, 0x200040, 0, 32, .ro, 0⟩
  | .PWR_AC_LO_COUNT => ⟨.single, 0x200080, 0, 32, .ro, 0⟩
  | .PWR_AC_HI_COUNT => ⟨.single, 0x200084, 0, 32, .ro, 0⟩
  | .PWR_REGION_SEL_REGION => ⟨.single, 0x200100, 0, 9, .rw, 0⟩
  | .PWR_REGION_STATE => ⟨.single, 0x200104, 0, 3, .ro, 0⟩
  | .PWR_REGION_CLK => ⟨.single, 0x200104, 3, 1, .ro, 0⟩
  | .PWR_REGION_LOCKED => ⟨.single, 0x200104, 4, 1, .ro, 0⟩
  | .PWR_REGION_SHORT => ⟨.single, 0x200104, 5, 1, .ro, 0⟩
  | .PWR_REGION_TRIPPED => ⟨.single, 0x200104, 6, 1, .ro, 0⟩
  | .PWR_REGION_THERM_LEVEL => ⟨.single, 0x200104, 7, 4, .ro, 0⟩
  | .PWR_REGION_SKIP_LEVEL => ⟨.single, 0x200104, 11, 4, .ro, 0⟩
  | .PWR_REGION_SKIP_UNITS => ⟨.single, 0x200108, 0, 32, .ro, 0⟩
  | .PWR_REGION_EVT_LOCK_LOSS => ⟨.single, 0x20010c, 0, 8, .ro, 0⟩
  | .THERM_COOL_INLET => ⟨.single, 0x300000, 0, 16, .ro, 0⟩
  | .THERM_COOL_OUTLET => ⟨.single, 0x300000, 16, 16, .ro, 0⟩
  | .THERM_FLOW_FLOW => ⟨.single, 0x300004, 0, 16, .ro, 0⟩
  | .THERM_FLOW_OUTLET_WARN => ⟨.single, 0x300004, 16, 1, .ro, 0⟩
  | .THERM_FLOW_RANGE_WARN => ⟨.single, 0x300004, 17, 1, .ro, 0⟩
  | .THERM_FLOW_WARN_SEEN => ⟨.single, 0x300004, 18, 1, .w1c, 0⟩
  | .THERM_POINTS_THROTTLE_C => ⟨.single, 0x300008, 0, 8, .ro, 95⟩
  | .THERM_POINTS_TRIP_C => ⟨.single, 0x300008, 8, 8, .ro, 110⟩
  | .THERM_POINTS_OUTLET_C => ⟨.single, 0x300008, 16, 8, .ro, 60⟩
  | .THERM_HOT_TJ => ⟨.single, 0x30000c, 0, 16, .ro, 0⟩
  | .THERM_HOT_REGION => ⟨.single, 0x30000c, 16, 9, .ro, 0⟩
  | .THERM_SUM_THROTTLED => ⟨.single, 0x300010, 0, 9, .ro, 0⟩
  | .THERM_SUM_TRIPS => ⟨.single, 0x300010, 16, 16, .ro, 0⟩
  | .THERM_SEL_REGION => ⟨.single, 0x300020, 0, 9, .rw, 0⟩
  | .THERM_REGION_TJ => ⟨.single, 0x300024, 0, 16, .ro, 0⟩
  | .THERM_REGION_LEVEL => ⟨.single, 0x300024, 16, 4, .ro, 0⟩
  | .THERM_REGION_TRIPPED => ⟨.single, 0x300024, 20, 1, .ro, 0⟩
  | .THERM_REGION_VALID => ⟨.single, 0x300024, 21, 1, .ro, 0⟩
  | .THERM_REGION_PEAK_TJ => ⟨.single, 0x300028, 0, 16, .ro, 0⟩
  | .FUSE_PART_ORDER_CODE => ⟨.single, 0x400000, 0, 2, .ro, 0⟩
  | .FUSE_PART_HOLDUP_FITTED => ⟨.single, 0x400000, 2, 1, .ro, 0⟩
  | .FUSE_PART_HALF_PORTS => ⟨.single, 0x400000, 3, 1, .ro, 0⟩
  | .FUSE_SERIAL_LO_SERIAL => ⟨.single, 0x400004, 0, 32, .ro, 0⟩
  | .FUSE_SERIAL_HI_SERIAL => ⟨.single, 0x400008, 0, 32, .ro, 0⟩
  | .FUSE_LIFECYCLE_STATE => ⟨.single, 0x40000c, 0, 2, .ro, 0⟩
  | .FUSE_LIFECYCLE_SLOT_SET => ⟨.single, 0x40000c, 4, 4, .ro, 0⟩
  | .FUSE_LIFECYCLE_PENDING_STATE => ⟨.single, 0x40000c, 8, 2, .ro, 0⟩
  | .FUSE_ARB_FW => ⟨.single, 0x400010, 0, 7, .ro, 0⟩
  | .FUSE_ARB_IMAGE => ⟨.single, 0x400010, 8, 7, .ro, 0⟩
  | .FUSE_FEATURE_ENABLE => ⟨.single, 0x400014, 0, 3, .ro, 0⟩
  | .FUSE_FEATURE_DISABLE => ⟨.single, 0x400014, 4, 3, .ro, 0⟩
  | .FUSE_FEATURE_EFFECTIVE => ⟨.single, 0x400014, 8, 3, .ro, 0⟩
  | .FUSE_FEATURE_PAIR_SHARED => ⟨.single, 0x400014, 12, 1, .ro, 0⟩
  | .FUSE_FEATURE_LOCK_POLICY => ⟨.single, 0x400014, 16, 1, .ro, 0⟩
  | .FUSE_FEATURE_LOCK_FREEZE => ⟨.single, 0x400014, 17, 1, .ro, 0⟩
  | .FUSE_SENSE_COUNT => ⟨.single, 0x400018, 0, 16, .ro, 0⟩
  | .FUSE_SENSE_MISMATCH => ⟨.single, 0x400018, 16, 1, .w1c, 0⟩
  | .FUSE_SLOT_HASH_WORD => ⟨.array 4 64, 0x400040, 0, 32, .ro, 0⟩
  | .FUSE_POLICY_OOB_ADMIN => ⟨.single, 0x400200, 0, 1, .rwf, 1⟩
  | .FUSE_POLICY_DEBUG_SOFT => ⟨.single, 0x400200, 1, 1, .rwf, 1⟩
  | .FUSE_REQ_LO_ADDR => ⟨.single, 0x400210, 0, 32, .rw, 0⟩
  | .FUSE_REQ_HI_ADDR => ⟨.single, 0x400214, 0, 16, .rw, 0⟩
  | .FUSE_REQ_CTRL_GO => ⟨.single, 0x400218, 0, 1, .wo, 0⟩
  | .FUSE_REQ_CTRL_BUSY => ⟨.single, 0x400218, 1, 1, .ro, 0⟩
  | .FUSE_REQ_CTRL_RESULT => ⟨.single, 0x400218, 4, 4, .ro, 0⟩
  | .FUSE_REQ_CTRL_RECORD => ⟨.single, 0x400218, 8, 8, .ro, 0⟩
  | .RES_START_STATE_STEP => ⟨.single, 0xb00200, 0, 4, .ro, 0⟩
  | .RES_START_STATE_READY => ⟨.single, 0xb00200, 4, 1, .ro, 0⟩
  | .RES_START_STATE_RECOVERY => ⟨.single, 0xb00200, 5, 1, .ro, 0⟩
  | .RES_START_STATE_FAIL => ⟨.single, 0xb00200, 6, 1, .ro, 0⟩
  | .RES_START_STATE_TOTAL_MS => ⟨.single, 0xb00200, 16, 16, .ro, 0⟩
  | .RES_START_TEST_CORES => ⟨.single, 0xb00204, 0, 16, .ro, 0⟩
  | .RES_START_TEST_ROUTERS => ⟨.single, 0xb00204, 16, 8, .ro, 0⟩
  | .RES_START_TEST_STACKS => ⟨.single, 0xb00204, 24, 6, .ro, 0⟩
  | .RES_COOL_CHECK_STATE => ⟨.single, 0xb00208, 0, 3, .ro, 0⟩
  | .RES_COOL_CHECK_REPEATS => ⟨.single, 0xb00208, 3, 3, .ro, 0⟩
  | .RES_COOL_CHECK_DELTA => ⟨.single, 0xb00208, 16, 16, .ro, 0⟩
  | .RES_START_DUR_TIME => ⟨.array 4 8, 0xb00210, 0, 16, .ro, 0⟩
  | .MNT_QUEUE_DEPTH => ⟨.single, 0xa00000, 0, 5, .ro, 0⟩
  | .MNT_QUEUE_RUNNING => ⟨.single, 0xa00000, 8, 8, .ro, 0⟩
  | .MNT_QUEUE_NEXT_SEQ => ⟨.single, 0xa00000, 16, 16, .ro, 0⟩
  | .MNT_LAST_ACTIVITY => ⟨.single, 0xa00004, 0, 3, .ro, 0⟩
  | .MNT_LAST_RESULT => ⟨.single, 0xa00004, 4, 4, .ro, 0⟩
  | .MNT_LAST_SEQ => ⟨.single, 0xa00004, 16, 16, .ro, 0⟩
  | .MNT_SEC_SET => ⟨.single, 0xa00010, 0, 16, .ro, 0⟩
  | .MNT_SEC_RECOMMENDED => ⟨.single, 0xa00010, 16, 16, .ro, 65535⟩
  | .MNT_SEC_EFF_INTERVAL => ⟨.single, 0xa00014, 0, 16, .ro, 65535⟩
  | .MNT_SEC_EFF_SINCE => ⟨.single, 0xa00014, 16, 16, .ro, 0⟩
  | .MNT_SYS_RATE_RATE => ⟨.single, 0xa00018, 0, 32, .rw, 0⟩
  | .MNT_LOCAL_RATE_RATE => ⟨.single, 0xa0001c, 0, 32, .ro, 0⟩
  | .MNT_DRAIN_COST_US => ⟨.single, 0xa00020, 0, 32, .ro, 0⟩
  | .MNT_HALF_LIFE_HOURS => ⟨.single, 0xa00024, 0, 16, .rw, 168⟩
  | .MNT_DRAIN_STATE => ⟨.single, 0xa00030, 0, 2, .ro, 0⟩
  | .MNT_DRAIN_UNPACED => ⟨.single, 0xa00030, 2, 1, .ro, 0⟩
  | .MNT_DRAIN_RESULT => ⟨.single, 0xa00030, 4, 4, .ro, 0⟩
  | .MNT_DRAIN_FAILS => ⟨.single, 0xa00030, 16, 16, .ro, 0⟩
  | .MNT_DRAIN_STEP_STEP => ⟨.single, 0xa00034, 0, 32, .ro, 0⟩
  | .MNT_DRAIN_TIME_US => ⟨.single, 0xa00038, 0, 32, .ro, 0⟩
  | .MNT_MOTION_CFG_THRESH => ⟨.single, 0xa00040, 0, 9, .rw, 32⟩
  | .MNT_MOTION_CFG_SUSTAIN => ⟨.single, 0xa00040, 9, 8, .rw, 3⟩
  | .MNT_MOTION_STAT_PEAK => ⟨.single, 0xa00044, 0, 9, .ro, 0⟩
  | .MNT_MOTION_STAT_TRIGGERED => ⟨.single, 0xa00044, 16, 1, .w1c, 0⟩
  | .MNT_HOST_BASE_LO_ADDR => ⟨.single, 0xa00050, 0, 32, .rw, 0⟩
  | .MNT_HOST_BASE_HI_ADDR => ⟨.single, 0xa00054, 0, 16, .rw, 0⟩
  | .MNT_HOST_UNITS_UNITS => ⟨.single, 0xa00058, 0, 28, .rw, 0⟩
  | .MNT_HOST_SRC_MODULE_ID => ⟨.single, 0xa0005c, 0, 14, .ro, 0⟩
  | .MNT_HOST_SRC_VALID => ⟨.single, 0xa0005c, 14, 1, .ro, 0⟩
  | .MNT_HOST_SRC_RELEASE => ⟨.single, 0xa0005c, 15, 1, .wo, 0⟩
  | .MNT_HCOPY_STEP_STEP => ⟨.array 8 2, 0xa00060, 0, 32, .ro, 0⟩
  | .MNT_HCOPY_STAT_VALID => ⟨.array 8 2, 0xa00064, 0, 1, .ro, 0⟩
  | .MNT_HCOPY_STAT_BUF_SEL => ⟨.array 8 2, 0xa00064, 1, 1, .ro, 0⟩
  | .MNT_HCOPY_STAT_SHARED => ⟨.array 8 2, 0xa00064, 2, 1, .ro, 0⟩
  | .MNT_HCOPY_STAT_FLAGGED => ⟨.array 8 2, 0xa00064, 3, 1, .ro, 0⟩
  | .MNT_PCOPY_STEP_STEP => ⟨.array 8 2, 0xa00070, 0, 32, .ro, 0⟩
  | .MNT_PCOPY_STAT_FLAGS => ⟨.array 8 2, 0xa00074, 0, 4, .ro, 0⟩
  | .RES_PAIR_PARTNER_ID => ⟨.single, 0xb00280, 0, 14, .ro, 0⟩
  | .RES_PAIR_IN_EFFECT => ⟨.single, 0xb00280, 14, 1, .ro, 0⟩
  | .RES_PAIR_VERIFIED => ⟨.single, 0xb00280, 15, 1, .ro, 0⟩
  | .RES_PAIR_SHARED => ⟨.single, 0xb00280, 16, 1, .ro, 0⟩
  | .RES_PAIR_PORTS => ⟨.single, 0xb00280, 17, 8, .ro, 0⟩
  | .RES_PAIR_REFUSAL => ⟨.single, 0xb00280, 25, 3, .ro, 0⟩
  | .RES_FAULT_CAUSE => ⟨.single, 0xb00284, 0, 4, .ro, 0⟩
  | .RES_FAULT_PHASE => ⟨.single, 0xb00284, 4, 3, .ro, 0⟩
  | .RES_FAULT_LOCAL_VALID => ⟨.single, 0xb00284, 7, 1, .ro, 0⟩
  | .RES_FAULT_BUF_SEL => ⟨.single, 0xb00284, 8, 1, .ro, 0⟩
  | .RES_FAULT_REGION => ⟨.single, 0xb00284, 9, 9, .ro, 0⟩
  | .RES_FAULT_STEP_STEP => ⟨.single, 0xb00288, 0, 32, .ro, 0⟩
  | .RES_FAULT_COUNT_JOB => ⟨.single, 0xb0028c, 0, 16, .ro, 0⟩
  | .RES_RESET_CAUSE => ⟨.single, 0xb00290, 0, 3, .ro, 0⟩
  | .RES_RESTORE_DONE => ⟨.single, 0xb00294, 0, 1, .ro, 0⟩
  | .RES_RESTORE_PAIRS_INTACT => ⟨.single, 0xb00294, 1, 1, .ro, 0⟩
  | .RES_RESTORE_DIGEST_DIFFERS => ⟨.single, 0xb00294, 2, 1, .ro, 0⟩
  | .LOG_NEWEST_SEQ => ⟨.single, 0x500000, 0, 32, .ro, 0⟩
  | .LOG_OLDEST_SEQ => ⟨.single, 0x500004, 0, 32, .ro, 0⟩
  | .LOG_LOST_COUNT => ⟨.single, 0x500008, 0, 32, .ro, 0⟩
  | .LOG_FLASH_RESTORED => ⟨.single, 0x50000c, 0, 1, .ro, 0⟩
  | .LOG_FLASH_FLUSH_FAILED => ⟨.single, 0x50000c, 1, 1, .ro, 0⟩
  | .RES_MGMT_SECURE_NOW => ⟨.single, 0xb00300, 0, 1, .ro, 0⟩
  | .RES_MGMT_SN_HELD => ⟨.single, 0xb00300, 1, 1, .ro, 0⟩
  | .RES_MGMT_SN_HELD_SEEN => ⟨.single, 0xb00300, 2, 1, .w1c, 0⟩
  | .RES_MGMT_PERST => ⟨.single, 0xb00300, 3, 1, .ro, 0⟩
  | .RES_MGMT_THERM_TRIP => ⟨.single, 0xb00300, 4, 1, .ro, 0⟩
  | .RES_MGMT_ALERT => ⟨.single, 0xb00300, 5, 1, .ro, 0⟩
  | .RES_MGMT_SMB_TIMEOUT_SEEN => ⟨.single, 0xb00300, 6, 1, .w1c, 0⟩

/-- Every field, in the order of the tables, in pieces. -/
def Field.part0 : List Field :=
  [.RES_MODULE_ID_MODULE_ID, .RES_MODULE_ID_NEXT_ID, .RES_MODULE_ID_ASSIGNED, .RES_MODULE_ID_PENDING,
   .RES_FEED_TAGS_FEED_A_TAG, .RES_FEED_TAGS_FEED_B_TAG, .RES_FEED_TAGS_A_CHANGED, .RES_FEED_TAGS_B_CHANGED,
   .RES_SITE_TAG_SITE_TAG, .CORE_STATUS_STATE, .CORE_STATUS_STALLED, .CORE_STATUS_IN_BWAIT,
   .CORE_STATUS_STREAM_BUSY, .CORE_STATUS_ARRAY_BUSY, .CORE_PC_PC, .CORE_TRAP_CAUSE,
   .CORE_TRAP_SLOT, .CORE_TRAP_INFO, .CORE_TRAP_PC_PC, .CORE_CFG_FTZ,
   .CORE_ID_TILE, .CORE_ID_CLUSTER, .CORE_ID_CORE, .CORE_ID_VALID,
   .CORE_ISSUED_COUNT, .CORE_STALLS_COUNT, .ARR_RAMP_STAGGER, .ARR_SKEW_SLOT,
   .ARR_SKEW_EN, .ARR_DBG_SEL_SLOT, .ARR_DBG_SEL_BANK, .ARR_DBG_SEL_LINE,
   .ARR_DBG_SEL_CAPTURED, .ARR_DBG_SEL_CAPTURE, .ARR_DBG_DATA_SUM, .CORE_NAN_VALID,
   .CORE_NAN_UNIT, .CORE_NAN_DESC, .CORE_NAN_LAYER_TAG, .CORE_NAN_TAG_VALID,
   .CORE_NAN_PC_PC, .CORE_NAN_PC_SLOT, .CORE_NAN_STEP_STEP, .CORE_FLAGS_OVF16,
   .NUM_CFG_NAN_MODE, .NUM_NAN_LOC_TILE, .NUM_NAN_LOC_CLUSTER, .NUM_NAN_LOC_CORE,
   .NUM_NAN_LOC_SLOT, .NUM_NAN_LOC_UNIT, .NUM_NAN_LOC_VALID, .NUM_NAN_PC_PC,
   .NUM_NAN_PC_DESC, .NUM_NAN_TAG_LAYER_TAG, .NUM_NAN_TAG_TAG_VALID, .NUM_NAN_STEP_STEP,
   .NUM_NAN_TIME_AC, .NUM_NAN_COUNT_COUNT, .NUM_LAYER_SEL_TAG, .NUM_LAYER_SEL_VIEW]
def Field.part1 : List Field :=
  [.NUM_LAYER_CRUMBS_COUNT, .NUM_LAYER_SATS_COUNT, .NUM_LAYER_OVF_OVF16, .NUM_LAYER_OVF_OTHER,
   .NUM_LAYER_SCALE_RANGE, .NUM_LAYER_SCALE_UNDER, .NUM_LAYER_CSB_COUNT, .MEM_RING_CFG_STACKS,
   .MEM_RING_CFG_DEGRADED, .MEM_RING_CFG_RING_FILLED, .MEM_RING_CFG_SRAM_FILLED, .MEM_RING_CFG_SIZE_GIB,
   .MEM_RING_MAP_LO_IN_USE, .MEM_RING_MAP_HI_IN_USE, .MEM_SCRUB_CFG_PERIOD_S, .MEM_SCRUB_CFG_PATROL_H,
   .MEM_SCRUB_EFF_PERIOD_S, .MEM_SCRUB_EFF_PATROL_MIN, .MEM_SCRUB_PASSES_CLUSTER, .MEM_SCRUB_PASSES_PATROL,
   .MEM_CE_SEL_KIND, .MEM_CE_SEL_INDEX, .MEM_CE_SEL_STATUS, .MEM_CE_SEL_BUSY,
   .MEM_CE_SEL_CLEAR, .MEM_CE_SEL_GO, .MEM_CE_COUNT_COUNT, .MEM_CE_OVF_COUNT,
   .MEM_UE_COUNT_COUNT, .MEM_MERGE_COUNT, .MEM_TOTAL_CE_COUNT, .MEM_TOTAL_UE_COUNT,
   .MEM_CE_ENTRY_LO_VALID, .MEM_CE_ENTRY_LO_TIER, .MEM_CE_ENTRY_LO_SLOT, .MEM_CE_ENTRY_LO_POS,
   .MEM_CE_ENTRY_LO_REPEAT, .MEM_CE_ENTRY_HI_LOC, .MESH_SLIP_COUNT_COUNT, .MESH_SLIP_LAST_KIND,
   .MESH_SLIP_LAST_SYS, .MESH_SLIP_LAST_ID, .MESH_SLIP_LAST_SLOT, .MESH_SLIP_LAST_PORT,
   .MESH_SLIP_LAST_EXCESS, .MESH_DROP_COUNT, .MESH_DROP_SLOT, .MESH_DROP_CAUSE,
   .MESH_HOLD_MAX_FC, .MESH_HOLD_MAX_TREE, .MESH_RTR_SEL_SLOT, .MESH_RTR_SEL_PORT,
   .MESH_RTR_SEL_VC, .MESH_RTR_FLITS_COUNT, .MESH_RTR_STALL_COUNT, .MESH_BAR_SEL_ID,
   .MESH_BAR_SEL_SYS, .MESH_BAR_STATE_ROOT, .MESH_BAR_STATE_OPEN, .MESH_BAR_STATE_PENDING]
def Field.part2 : List Field :=
  [.MESH_BAR_STATE_RELEASES, .MESH_BAR_LAST_FC, .OPT_SUMMARY_FITTED, .OPT_SUMMARY_ACTIVE,
   .OPT_SUMMARY_NOT_UP, .OPT_EVENTS_LOST, .OPT_EVENTS_REFUSED, .OPT_EVENTS_REMAPPED,
   .OPT_EVENTS_DARK, .OPT_EVENTS_FEC_HIGH, .OPT_EVENTS_RX_DROP, .OPT_FEC_LIMIT_LIMIT,
   .OPT_TRAIN_BUSY, .OPT_TRAIN_LAST_MS, .OPT_PORT_STATE_STATE, .OPT_PORT_STATE_CAUSE,
   .OPT_PORT_STATE_DARK_LANES, .OPT_PORT_STATE_REMAPPED, .OPT_PORT_STATE_ENABLED, .OPT_PORT_STATE_PEER_ENABLED,
   .OPT_PORT_STATE_EXPECTED, .OPT_PORT_PEER_MODULE_ID, .OPT_PORT_PEER_TILE, .OPT_PORT_PEER_PORT,
   .OPT_PORT_PEER_VALID, .OPT_PORT_LINK_FIBRE_NS, .OPT_PORT_LINK_RETRAINS, .OPT_PORT_FEC_CW_CORRECTED,
   .OPT_PORT_FEC_BAD_UNCORRECTABLE, .OPT_PORT_FEC_BAD_REPLAYS, .OPT_PORT_TX_FLITS, .OPT_PORT_RX_FLITS,
   .OPT_PORT_CTRL_DISABLE, .OPT_PORT_CTRL_RETRAIN, .OPT_PORT_CTRL_DROP_CAUSE, .OPT_PORT_CTRL_RX_DROPS,
   .RES_STEP_LO_COUNT, .RES_STEP_HI_COUNT, .RES_STEP_START_LO_COUNT, .RES_STEP_START_HI_COUNT,
   .RES_STEP_STATE_PHASE, .RES_STEP_STATE_MICRO, .RES_STEP_STATE_BUF_SEL, .RES_STEP_STATE_STABLE,
   .RES_STEP_STATE_SKIPPED, .RES_STEP_STATE_STOPPED, .RES_STEP_STATE_HOLD, .RES_STEP_QP_LAST_FC,
   .RES_STEP_CTRL_START_BUF, .RES_STEP_CTRL_STOP_EN, .RES_STEP_STOP_COUNT, .RES_STEP_HOLDS_INPUT,
   .RES_STEP_HOLDS_SECURE, .MEM_IN_CFG_SLOTS, .MEM_IN_CFG_DEPTH, .MEM_IN_CFG_VALID,
   .MEM_IN_SLOT_UNITS, .MEM_IN_BASE_LO_ADDR, .MEM_IN_BASE_HI_ADDR, .MEM_IN_PROD_STEP]
def Field.part3 : List Field :=
  [.MEM_IN_STAT_STARVED, .MEM_IN_STAT_OVERRUNS, .NUM_LS_EXP, .NUM_LS_EN,
   .NUM_LS_CLEAN, .NUM_LS_CFG_INIT_EXP, .NUM_LS_CFG_CLEAN_STEPS, .NUM_LS_CFG_SKIP_LIMIT,
   .NUM_LS_STAT_SKIPS, .NUM_LS_STAT_CONSEC, .NUM_LS_STAT_LAST_OVF, .NUM_LS_STAT_FLOOR,
   .NUM_EXP_SEL_TAG, .NUM_EXP_S, .NUM_EXP_EN, .NUM_EXP_UPDATE,
   .NUM_EXP_LAST_UP, .NUM_EXP_LAST_DOWN, .NUM_EXP_LIM_S_MIN, .NUM_EXP_LIM_S_MAX,
   .NUM_EXP_THR_RAISE_THRESH, .NUM_EXP_MOVES_RAISES, .NUM_EXP_MOVES_LOWERS, .NUM_MON_SETTLE_LEFT,
   .NUM_MON_STOP_EN, .NUM_MON_RATIO_STOP, .NUM_MON_STAT_EVENTS, .NUM_MON_STAT_MISSING,
   .NUM_MON_LAST_TAG, .NUM_MON_LAST_LOW, .NUM_MON_LAST_HIGH, .NUM_MON_LAST_VALID,
   .NUM_MON_LAST_STEP_STEP, .NUM_MON_FLAG_SEL_WORD, .NUM_MON_FLAGS_FLAGS, .NUM_RESTART_LOST,
   .NUM_RESTART_BUSY, .NUM_RESTART_DONE, .NUM_AREA_LO_ADDR, .NUM_AREA_HI_ADDR,
   .NUM_PAGE_ADDR, .RES_DISTIL_CFG_MODE, .RES_DISTIL_CFG_K, .RES_DISTIL_CFG_BUFFERS,
   .RES_DISTIL_CFG_FROZEN, .RES_DISTIL_TEMP_T, .RES_DISTIL_VOCAB_SIZE, .RES_DISTIL_REGIONS_TEACHER,
   .RES_DISTIL_REGIONS_STUDENT, .RES_DISTIL_BAR_READY_ID, .RES_DISTIL_BAR_READY_SYS, .RES_DISTIL_BAR_FREE_ID,
   .RES_DISTIL_BAR_FREE_SYS, .RES_DISTIL_ROLE_SEL_REGION, .RES_DISTIL_ROLE_ROLE, .RES_DISTIL_FROZEN_SEL_INDEX,
   .RES_DISTIL_FROZEN_BASE_UNITS, .RES_DISTIL_FROZEN_LEN_UNITS, .IMG_STATE_STATE, .IMG_STATE_PATCHES]
def Field.part4 : List Field :=
  [.IMG_RESULT_CODE, .IMG_RESULT_PATCH, .IMG_ITEM_SECTION, .IMG_ITEM_RECORD,
   .IMG_ARB_ARB, .TXN_TIMEOUT_SECONDS, .IMG_DIGEST_WORD, .TXN_STATE_STATE,
   .TXN_STATE_REQUESTER, .TXN_STATE_ITEMS, .TXN_RESULT_OUTCOME, .TXN_RESULT_CODE,
   .TXN_RESULT_ITEM, .TXN_AGE_SECONDS, .TXN_AGE_SEQ, .TXN_COND_REGION,
   .TXN_COND_OUTLET, .TXN_COND_VALID, .HOST_MBX_CMD_WORD, .HOST_MBX_CTRL_GO,
   .HOST_MBX_CTRL_BUSY, .HOST_MBX_CTRL_DONE, .HOST_MBX_CPL_WORD, .HOST_BAR2_BASE_GIB,
   .HOST_IRQ_STATUS_SRC, .HOST_IRQ_MASK_SRC, .HOST_SQ_BASE_LO_ADDR, .HOST_SQ_BASE_HI_ADDR,
   .HOST_RING_CFG_SIZE, .HOST_RING_CFG_EN, .HOST_RING_CFG_HOST_MEM, .HOST_SQ_TAIL_INDEX,
   .HOST_SQ_HEAD_INDEX, .HOST_CQ_BASE_LO_ADDR, .HOST_CQ_BASE_HI_ADDR, .HOST_CQ_TAIL_INDEX,
   .HOST_CQ_HEAD_INDEX, .HOST_RING_STAT_FAULT, .HOST_RING_STAT_CAUSE, .PWR_FEED_A_VOLTS,
   .PWR_FEED_A_AMPS, .PWR_FEED_B_VOLTS, .PWR_FEED_B_AMPS, .PWR_BUS_VOLTS,
   .PWR_BUS_WATTS, .PWR_FEED_STAT_A_STATE, .PWR_FEED_STAT_B_STATE, .PWR_FEED_STAT_A_RANGE,
   .PWR_FEED_STAT_B_RANGE, .PWR_FEED_STAT_A_CARRY, .PWR_FEED_STAT_B_CARRY, .PWR_FEED_STAT_SAG,
   .PWR_FEED_STAT_SAG_SEEN, .PWR_FEED_STAT_A_ISO_SEEN, .PWR_FEED_STAT_B_ISO_SEEN, .PWR_CAP_CAP_W,
   .PWR_CAP_PROFILE, .PWR_CAP_LEVEL, .PWR_PLAN_PLANNED_W, .PWR_PLAN_PEAK_W]
def Field.part5 : List Field :=
  [.PWR_HOLDUP_FITTED, .PWR_HOLDUP_ARMED, .PWR_HOLDUP_READY, .PWR_HOLDUP_ACTIVE,
   .PWR_HOLDUP_JOULES, .PWR_LADDER_MODULE, .PWR_LADDER_BUSY, .PWR_EVENTS_SAGS,
   .PWR_EVENTS_ISOLATIONS, .PWR_CLK_RUN_REGIONS, .PWR_AC_LO_COUNT, .PWR_AC_HI_COUNT,
   .PWR_REGION_SEL_REGION, .PWR_REGION_STATE, .PWR_REGION_CLK, .PWR_REGION_LOCKED,
   .PWR_REGION_SHORT, .PWR_REGION_TRIPPED, .PWR_REGION_THERM_LEVEL, .PWR_REGION_SKIP_LEVEL,
   .PWR_REGION_SKIP_UNITS, .PWR_REGION_EVT_LOCK_LOSS, .THERM_COOL_INLET, .THERM_COOL_OUTLET,
   .THERM_FLOW_FLOW, .THERM_FLOW_OUTLET_WARN, .THERM_FLOW_RANGE_WARN, .THERM_FLOW_WARN_SEEN,
   .THERM_POINTS_THROTTLE_C, .THERM_POINTS_TRIP_C, .THERM_POINTS_OUTLET_C, .THERM_HOT_TJ,
   .THERM_HOT_REGION, .THERM_SUM_THROTTLED, .THERM_SUM_TRIPS, .THERM_SEL_REGION,
   .THERM_REGION_TJ, .THERM_REGION_LEVEL, .THERM_REGION_TRIPPED, .THERM_REGION_VALID,
   .THERM_REGION_PEAK_TJ, .FUSE_PART_ORDER_CODE, .FUSE_PART_HOLDUP_FITTED, .FUSE_PART_HALF_PORTS,
   .FUSE_SERIAL_LO_SERIAL, .FUSE_SERIAL_HI_SERIAL, .FUSE_LIFECYCLE_STATE, .FUSE_LIFECYCLE_SLOT_SET,
   .FUSE_LIFECYCLE_PENDING_STATE, .FUSE_ARB_FW, .FUSE_ARB_IMAGE, .FUSE_FEATURE_ENABLE,
   .FUSE_FEATURE_DISABLE, .FUSE_FEATURE_EFFECTIVE, .FUSE_FEATURE_PAIR_SHARED, .FUSE_FEATURE_LOCK_POLICY,
   .FUSE_FEATURE_LOCK_FREEZE, .FUSE_SENSE_COUNT, .FUSE_SENSE_MISMATCH, .FUSE_SLOT_HASH_WORD]
def Field.part6 : List Field :=
  [.FUSE_POLICY_OOB_ADMIN, .FUSE_POLICY_DEBUG_SOFT, .FUSE_REQ_LO_ADDR, .FUSE_REQ_HI_ADDR,
   .FUSE_REQ_CTRL_GO, .FUSE_REQ_CTRL_BUSY, .FUSE_REQ_CTRL_RESULT, .FUSE_REQ_CTRL_RECORD,
   .RES_START_STATE_STEP, .RES_START_STATE_READY, .RES_START_STATE_RECOVERY, .RES_START_STATE_FAIL,
   .RES_START_STATE_TOTAL_MS, .RES_START_TEST_CORES, .RES_START_TEST_ROUTERS, .RES_START_TEST_STACKS,
   .RES_COOL_CHECK_STATE, .RES_COOL_CHECK_REPEATS, .RES_COOL_CHECK_DELTA, .RES_START_DUR_TIME,
   .MNT_QUEUE_DEPTH, .MNT_QUEUE_RUNNING, .MNT_QUEUE_NEXT_SEQ, .MNT_LAST_ACTIVITY,
   .MNT_LAST_RESULT, .MNT_LAST_SEQ, .MNT_SEC_SET, .MNT_SEC_RECOMMENDED,
   .MNT_SEC_EFF_INTERVAL, .MNT_SEC_EFF_SINCE, .MNT_SYS_RATE_RATE, .MNT_LOCAL_RATE_RATE,
   .MNT_DRAIN_COST_US, .MNT_HALF_LIFE_HOURS, .MNT_DRAIN_STATE, .MNT_DRAIN_UNPACED,
   .MNT_DRAIN_RESULT, .MNT_DRAIN_FAILS, .MNT_DRAIN_STEP_STEP, .MNT_DRAIN_TIME_US,
   .MNT_MOTION_CFG_THRESH, .MNT_MOTION_CFG_SUSTAIN, .MNT_MOTION_STAT_PEAK, .MNT_MOTION_STAT_TRIGGERED,
   .MNT_HOST_BASE_LO_ADDR, .MNT_HOST_BASE_HI_ADDR, .MNT_HOST_UNITS_UNITS, .MNT_HOST_SRC_MODULE_ID,
   .MNT_HOST_SRC_VALID, .MNT_HOST_SRC_RELEASE, .MNT_HCOPY_STEP_STEP, .MNT_HCOPY_STAT_VALID,
   .MNT_HCOPY_STAT_BUF_SEL, .MNT_HCOPY_STAT_SHARED, .MNT_HCOPY_STAT_FLAGGED, .MNT_PCOPY_STEP_STEP,
   .MNT_PCOPY_STAT_FLAGS, .RES_PAIR_PARTNER_ID, .RES_PAIR_IN_EFFECT, .RES_PAIR_VERIFIED]
def Field.part7 : List Field :=
  [.RES_PAIR_SHARED, .RES_PAIR_PORTS, .RES_PAIR_REFUSAL, .RES_FAULT_CAUSE,
   .RES_FAULT_PHASE, .RES_FAULT_LOCAL_VALID, .RES_FAULT_BUF_SEL, .RES_FAULT_REGION,
   .RES_FAULT_STEP_STEP, .RES_FAULT_COUNT_JOB, .RES_RESET_CAUSE, .RES_RESTORE_DONE,
   .RES_RESTORE_PAIRS_INTACT, .RES_RESTORE_DIGEST_DIFFERS, .LOG_NEWEST_SEQ, .LOG_OLDEST_SEQ,
   .LOG_LOST_COUNT, .LOG_FLASH_RESTORED, .LOG_FLASH_FLUSH_FAILED, .RES_MGMT_SECURE_NOW,
   .RES_MGMT_SN_HELD, .RES_MGMT_SN_HELD_SEEN, .RES_MGMT_PERST, .RES_MGMT_THERM_TRIP,
   .RES_MGMT_ALERT, .RES_MGMT_SMB_TIMEOUT_SEEN]
def Field.all : List Field :=
  Field.part0 ++ Field.part1 ++ Field.part2 ++ Field.part3 ++ Field.part4 ++ Field.part5 ++ Field.part6 ++ Field.part7

/-- The number of a field, its place in the tables. -/
def Field.num (f : Field) : Nat := f.ctorIdx

/-- The key of instance `i` of a field in the register map of the state: fewer than 512 fields, any number of
instances. -/
def Field.key (f : Field) (i : Nat) : Nat := i * 512 + f.num

/-- A field's Reset entry as a word. -/
def Field.resetWord (f : Field) : Word := BitVec.ofNat 32 f.info.reset

/-- The bits a field of width w can hold. -/
def Field.mask (f : Field) : Word := BitVec.ofNat 32 (2 ^ f.info.width - 1)

end Sys2Proof.Machine
end

