-- ==== Sys2Proof/Machine/ImageData.lean ====
section
/-!
DEFINITION. The layout image as data: the header and the section records of "The Layout Image and Transactions"
(R363 to R372), each with the fields its table gives it. The loader (Machine/Load.lean) reads them from ring bytes.
-/
namespace Sys2Proof.Machine

/-- A core reference of a record: tile [5:0], cluster [11:6], core [16:12], as written (R366). -/
structure Cref where
  tile : Nat
  cluster : Nat
  core : Nat
deriving DecidableEq, Repr

/-- A router reference of a record: a grid position (R366). -/
structure Rref where
  x : Nat
  y : Nat
deriving DecidableEq, Repr

/-- A region record of REGION_MAP (R368, Table 4). -/
structure RegionRec where
  region : Nat
  state : Nat
  role : Nat
  stagger : Nat
  startSlot : Nat
  stackedTop : List Nat
deriving DecidableEq, Repr

/-- ROUTES kind 1 (R369). -/
structure RouteRec where
  at' : Rref
  route : Nat
  vc : Nat
  out : Nat
deriving DecidableEq, Repr

/-- ROUTES kind 2: entry router of a core after a ROUTER remap (R44, R369). -/
structure EntryRec where
  core : Cref
  at' : Rref
deriving DecidableEq, Repr

/-- A remote-target entry (R284, Table 5 of "Optical Ports"). -/
structure RemoteTarget where
  localBase : Nat
  length : Nat
  vc : Nat
  route : Nat
  farRoute : Nat
  egress : Nat
  tag : Nat
deriving DecidableEq, Repr

/-- ROUTES kind 3 (R369). -/
structure RemoteRec where
  core : Cref
  index : Nat
  entry : RemoteTarget
deriving DecidableEq, Repr

/-- A receive-table entry (R286, Table 6 of "Optical Ports"). -/
structure RxEntry where
  base : Nat
  glazeBase : Nat
  length : Nat
  vc : Nat
  forward : Bool
  route : Nat
  nextFarRoute : Nat
  egress : Nat
deriving DecidableEq, Repr

/-- ROUTES kind 4 (R369). -/
structure RxRec where
  port : Nat
  index : Nat
  entry : RxEntry
deriving DecidableEq, Repr

/-- ROUTES kind 5: a port the image uses (R369). -/
structure PortRec where
  port : Nat
  expect : Bool
  moduleId : Nat
  tile : Nat
  peerPort : Nat
deriving DecidableEq, Repr

/-- VC_TABLES source entry (R369). -/
structure SourceRec where
  core : Cref
  vc : Nat
  destKind : Nat
  dest : Nat
  route : Nat
  ackRoute : Nat
deriving DecidableEq, Repr

/-- MCAST_TREES kind 1 (R370). -/
structure TreeRec where
  tree : Nat
  root : Cref
  holdLimit : Nat
deriving DecidableEq, Repr

/-- MCAST_TREES kind 2 (R370): OUT is a mask of N, E, S, W, local, spine. -/
structure ForkRec where
  tree : Nat
  at' : Rref
  out : Nat
deriving DecidableEq, Repr

/-- BARRIERS kind 1 (R370). -/
structure BarrierRec where
  id : Nat
  sys : Bool
  root : Rref
  watchdog : Nat
deriving DecidableEq, Repr

/-- BARRIERS kind 2 (R370). -/
structure MemberRec where
  id : Nat
  sys : Bool
  core : Cref
  waitOnly : Bool
deriving DecidableEq, Repr

/-- BARRIERS kind 3 (R370): IN and RELEASE are masks of N, E, S, W, local, spine, port link. -/
structure NodeRec where
  id : Nat
  sys : Bool
  at' : Rref
  inputs : Nat
  parent : Nat
  release : Nat
deriving DecidableEq, Repr

/-- A PROGRAMS core block (R371). -/
structure ProgramRec where
  core : Cref
  nearTop : Nat
  bundles : List (BitVec 128)
deriving DecidableEq, Repr

/-- A PRELOAD block (R371). -/
structure PreloadRec where
  target : Nat
  core : Cref
  address : Nat
  data : List Byte
deriving DecidableEq, Repr

/-- The NUMERICS module record (R371). -/
structure NumericsRec where
  nanMode : Bool
  lsEn : Bool
  initExp : Nat
  cleanSteps : Nat
  skipLimit : Nat
  monStop : Bool
  area : Nat
  page : Nat
deriving DecidableEq, Repr

/-- A LAYER_TAGS record: the per-tag settings of R324. -/
structure TagRec where
  tag : Nat
  update : Bool
  expEn : Bool
  monEn : Bool
  mode : Bool
  f : Nat
  sMin : Int
  sMax : Int
  raise : Nat
  lo : Word
  hi : Word
deriving DecidableEq, Repr

/-- A step-table entry (R309, Table 3). -/
structure StepEntry where
  kind : Nat
  base : Nat
  base2 : Nat
  length : Nat
  slots : Nat
  depth : Nat
deriving DecidableEq, Repr

/-- A drain slot (R372, R495). -/
structure DrainSlot where
  opening : Nat
  closing : Nat
  valid : Bool
deriving DecidableEq, Repr

/-- The STEP_PLAN section (R299, R372). -/
structure StepPlan where
  u : Nat
  overlap : Bool
  gate : Nat
  fwdEnd : Nat
  bwdEnd : Nat
  egressEnd : Nat
  reduceEnd : Nat
  updateEnd : Nat
  swapEnd : Nat
  egressValid : Bool
  drains : List DrainSlot
  entries : List StepEntry
deriving DecidableEq, Repr

/-- A SLACK record (R264, R372). -/
structure SlackRec where
  id : Nat
  sys : Bool
  pred : Nat
  predSys : Bool
  p : Nat
  s : Nat
deriving DecidableEq, Repr

/-- The TENDER section (R347 to R349, R372); frozen ranges are (base, length) in 4 KiB units. -/
structure Tender where
  mode : Nat
  k : Nat
  b : Nat
  vocab : Nat
  temp : Word
  ready : Nat
  free : Nat
  frozen : List (Nat × Nat)
deriving DecidableEq, Repr

/-- A layout image, decoded. -/
structure Image where
  kind : Nat
  signer : Nat
  arb : Nat
  length : Nat
  digest : BitVec 512
  baseDigest : BitVec 512
  ringTop : Nat
  plannedW : Nat
  partnerId : Nat
  partnerValid : Bool
  regions : List RegionRec
  routes : List RouteRec
  entries : List EntryRec
  remotes : List RemoteRec
  receives : List RxRec
  ports : List PortRec
  sources : List SourceRec
  trees : List TreeRec
  forks : List ForkRec
  barriers : List BarrierRec
  members : List MemberRec
  nodes : List NodeRec
  programs : List ProgramRec
  preloads : List PreloadRec
  numerics : NumericsRec
  ftz : List Cref
  tags : List TagRec
  stepPlan : Option StepPlan
  slack : List SlackRec
  tender : Option Tender
deriving DecidableEq, Repr

end Sys2Proof.Machine
end

