-- ==== Sys2Proof/Machine/State.lean ====
section
/-!
DEFINITION. The state of the module as plain data: the register fields (under their spec names), the memories, the
architectural state of every physical core, its array and stream engine, the routers, clusters, ports, transactions,
the fuse bank and flash, the log, and the queue of waiting commands; and `State.reset`.
-/
namespace Sys2Proof.Machine

/-! ### How a step can stop -/

/-- The reasons a command ends in a fault. The spec describes no state in which the module stops for good, so no meaning
raises one. -/
inductive Fault where
  /-- An operand that no row admits. No meaning raises it: what an operand outside its range does is said at its row (log
  entry 14). Safe. -/
  | illFormed
deriving DecidableEq, Repr

/-- The reasons a command is refused. -/
inductive Refusal where
  /-- The command has no meaning in the model yet; its mnemonic. Safe. No arm of `exec` raises it. -/
  | notModelled (mnemonic : String)
deriving DecidableEq, Repr

/-! ### Counts and reports -/

/-- The seven counters of a layer tag (R188, Table 6). -/
structure Counts where
  crumbs : Nat := 0
  satBlocks : Nat := 0
  sats : Nat := 0
  ovf16 : Nat := 0
  ovfOther : Nat := 0
  range : Nat := 0
  under : Nat := 0
deriving DecidableEq, Repr

/-- A count report on its way to the module numerics block (R189). -/
structure CountReport where
  tag : Nat
  counts : Counts
  /-- it was on its way when the quiet point began: the quiet point waits for it (R190) -/
  awaited : Bool
deriving DecidableEq, Repr

/-- A NaN report on its way to the first-NaN latch (R193, R194). -/
structure NanReport where
  tile : Nat
  cluster : Nat
  core : Nat
  slot : Nat
  pc : Nat
  unit : Nat
  desc : Nat
  tag : Nat
  tagValid : Bool
  step : Nat
deriving DecidableEq, Repr

/-! ### A core -/

/-- A counted loop in progress or stopped (R83, R85): the count, the address of its LOOP bundle and its end. -/
structure LoopCtr where
  count : Word := 0
  start : BitVec 12 := 0
  last : BitVec 12 := 0
deriving DecidableEq, Repr

/-- A stream descriptor in a channel's queue: the copied entries, the scalars added, and what STRM issue fixes
(R93, R310). -/
structure StreamJob where
  index : BitVec 8
  prim : BitVec 256
  ext : BitVec 256
  srcAdd : Word
  dstAdd : Word
  pc : BitVec 12
  step : BitVec 64
  bufSel : Bool
  /-- STREAM_DESC_START has run -/
  started : Bool
  /-- write packets sent over the mesh and not yet acknowledged (R111) -/
  acksLeft : Nat
  tag : Nat
  counts : Counts
  /-- bytes of ring reads that have not come yet, and the pieces that have: module address, and bytes where no word is
  uncorrectable (R211, R244) -/
  reads : Nat := 0
  got : List (Nat × Option (List Byte)) := []
deriving DecidableEq, Repr

/-- An array descriptor in the array queue: the copied entry with the ARUN scalars already added to its three bases
(R98). -/
structure ArrayJob where
  /-- the model's own count of ARUNs, which tells equal descriptors apart -/
  no : Nat
  index : BitVec 6
  desc : BitVec 256
  stat : Nat
  mov : Nat
  out : Nat
  pc : BitVec 12
  /-- the descriptor runs in skewed-feed mode (R154) -/
  skew : Bool
deriving DecidableEq, Repr

/-- A stationary operand in the cells or their shadow: the pass it belongs to and the elements loaded so far, keyed by
(k × 4096 + column or row), as encoded bytes; glaze bytes keyed the same way by k ÷ 16 (R129 to R132). -/
structure Pass where
  job : ArrayJob
  pass : Nat
  groups : Nat
  elems : SMap Word
  glazes : SMap Byte
deriving DecidableEq, Repr

/-- What an accumulator bank is doing (R134, R137, R138, R140). -/
inductive BankPhase where
  | free | open | held | closed
deriving DecidableEq, Repr

/-- An accumulator bank (R137). -/
structure Bank where
  phase : BankPhase := .free
  /-- the descriptor that opened it, and the last one that added to it (R141) -/
  opener : Option ArrayJob := none
  owner : Option ArrayJob := none
  mc : Nat := 0
  nc : Nat := 0
  /-- the sums by line × 32 + column, FP32 or INT32 patterns; none where no pass has written since LOAD_IMAGE (R158) -/
  sums : SMap (Option Word) := []
  /-- what a sum that is not listed holds: none after LOAD_IMAGE, zero once a K = 0 descriptor has opened the bank (R127) -/
  fill : Option Word := none
  /-- place in the order in which banks closed -/
  seq : Nat := 0
deriving DecidableEq, Repr

/-- The matrix array of a core (R118 to R158). -/
structure ArrayState where
  queue : List ArrayJob := []
  /-- the head descriptor has passed ARRAY_DESC_HEAD -/
  headOk : Bool := false
  /-- the next pass of the head descriptor, in fold order (R125), that the shadow loads -/
  nextPass : Nat := 0
  shadow : Option Pass := none
  /-- passes that have flipped and whose caboose has not reached the accumulator, oldest first (R135) -/
  inFlight : List Pass := []
  bank0 : Bank := {}
  bank1 : Bank := {}
  /-- the bank the next opening takes (R137) -/
  nextBank : Bool := false
  closes : Nat := 0
  gated : Bool := true
  /-- the fc of a ramp request not yet admitted (R151, R153) -/
  rampWanted : Option Nat := none
  /-- chain steps that the oldest pass in flight has done in skewed-feed mode (R155) -/
  chain : Nat := 0
  /-- zero vectors are fed after the last caboose (R152) -/
  tail : Bool := false
  issued : Nat := 0
  /-- the core has executed END or was stopped: a bank that closes with nothing behind it drains and is not held (R140) -/
  ended : Bool := false
  /-- descriptors not yet complete: number, layer tag and counts so far (R189) -/
  tally : List (Nat × Nat × Counts) := []
deriving DecidableEq, Repr

/-- The architectural state of a physical core that is not a register of its debug page (R68, Table 1). -/
structure CoreState where
  sregs : SMap Word := []
  preds : BitVec 8 := 1
  loops : SMap LoopCtr := []
  /-- active loop counters, innermost first (R86) -/
  active : List Nat := []
  /-- vector registers by v × 128 + lane -/
  vregs : SMap Word := []
  adesc : SMap (BitVec 256) := []
  sdesc : SMap (BitVec 256) := []
  istore : SMap (BitVec 128) := []
  /-- the BSYNC that stalls has already posted (R89, R252) -/
  posted : Bool := false
  /-- local fc count, register ready times and the fc until which the special-function unit is taken (R75, R97, R99) -/
  fc : Nat := 0
  ready : SMap Nat := []
  sfuUntil : Nat := 0
  /-- the four stream channels' queues (R93) -/
  chans : SMap (List StreamJob) := []
  /-- barrier posts and releases by sys × 256 + id (R252) -/
  posts : SMap Nat := []
  releases : SMap Nat := []
  /-- step count, BUF_SEL and write permission delivered by the last releases (R305, R313) -/
  step : BitVec 64 := 0
  bufSel : Bool := false
  mayWriteUnique : Bool := false
  arr : ArrayState := {}
  /-- remote-target entries (R284) -/
  remotes : SMap RemoteTarget := []
deriving DecidableEq, Repr

/-! ### Mesh -/

/-- The way a flit is routed (R237): a route ID, a multicast tree, a barrier's release tree, by one output to the units of
the next router, or, arrived there, into those units by the input it came by. -/
inductive FlitPath where
  | route (id : Nat)
  | tree (t : Nat)
  | release (bar : Nat)
  | hop (out : Nat)
  | unit (input : Nat)
deriving DecidableEq, Repr

/-- What the releases of the gate and of REDUCE-end bring a member (R305, R313, R327): the step count, BUF_SEL, whether it
may write UNIQUE ranges, and the numerics page. -/
structure News where
  step : BitVec 64
  bufSel : Bool
  write : Bool
  page : List Byte
deriving DecidableEq, Repr

/-- What a flit brings to its destination. -/
inductive FlitLoad where
  /-- part of a write of elements or of glaze bytes: module address and bytes -/
  | write (addr : Nat) (data : List Byte)
  /-- part of a multicast write: local-view offset and bytes (R109) -/
  | mcast (offset : Nat) (data : List Byte)
  /-- part of a write to a remote target, in the FP32 view: receive-table entry, egress format, offset, layer tag, bytes
  (R284, R293) -/
  | remote (farRoute egress offset tag : Nat) (data : List Byte)
  /-- a fibre flit on its way to a port of this module (R286, R288) -/
  | onward (pkt : FibrePacket)
  /-- a stream engine's request for bytes of the ring: module address and number (R211) -/
  | read (addr n : Nat)
  /-- what answers it, a line at a time: module address, number, and the bytes where no word is uncorrectable (R244) -/
  | answer (addr n : Nat) (data : Option (List Byte))
  | ack
  /-- the acknowledgement of a tree's packet, combined on the way to the root (R261) -/
  | leafAck (tree : Nat)
  /-- a barrier's arrival and its overflow bit (R254, R329) -/
  | arrival (bar : Nat) (v : Bool)
  /-- a barrier's release, the system's overflow bit, and its news (R254, R329) -/
  | release (bar : Nat) (v : Bool) (news : Option News)
deriving DecidableEq, Repr

/-- A flit (R237): its channel, its path, its load, whether it ends its packet, the writer to acknowledge (core
number × 4 + stream channel; 2^20 × (port + 1) more for a writer behind a port), and the route its acknowledgement
takes (R369), for a writer behind a port the receive-table entry by which its write came. -/
structure Flit where
  vc : Vc
  path : FlitPath
  load : FlitLoad
  last : Bool
  owner : Nat
  ackRoute : Nat
deriving DecidableEq, Repr

/-- A router (R236 to R262); maps are keyed by port × 4 + channel. -/
structure Router where
  inbuf : SMap (List Flit) := []
  /-- flits that the units behind an input (the core, the spine, a bridge, a port's receive buffers) have handed over and
  the input buffer has no room for yet -/
  source : SMap (List Flit) := []
  /-- credits in use towards the neighbour at each output and channel; 8 are there (R238) -/
  used : SMap Nat := []
  /-- round-robin position of each output and channel (R245) -/
  turn : SMap Nat := []
  /-- consecutive fc a MAINT flit has been eligible at each output without a grant (R246) -/
  maintWait : SMap Nat := []
  /-- fork hold buffers (R259) -/
  hold : SMap (List Flit) := []
  /-- a multicast-hold slip was raised in the branch's present episode (R262) -/
  slipped : SMap Bool := []
  /-- writers of the packets acknowledged from a branch of a tree and not yet from all its branches, by tree × 8 + branch
  (R261) -/
  treeAcks : SMap (List Nat) := []
deriving DecidableEq, Repr

/-- A barrier at its root (R252 to R264). -/
structure BarrierState where
  /-- generations whose arrivals have all reached the root, and generations released -/
  complete : Nat := 0
  released : Nat := 0
  /-- fc at which the last release left the root -/
  lastFc : Nat := 0
  /-- OR of the overflow flags that arrivals carried (R329) -/
  v : Bool := false
  /-- releases in the present step (R495) -/
  inStep : Nat := 0
deriving DecidableEq, Repr

/-! ### Memory units -/

/-- A correctable-error table entry (R228, R234). -/
structure CeEntry where
  tier : Nat
  slot : Nat
  pos : Nat
  rep : Nat
  loc : Nat
deriving DecidableEq, Repr

/-- The error counts of a cluster or a ring channel (R227 to R230), its merge counter (R206) and its scrub or patrol
position (R223, R224). -/
structure UnitErr where
  ce : Nat := 0
  ovf : Nat := 0
  ue : Nat := 0
  merge : Nat := 0
  table : List CeEntry := []
  pos : Nat := 0
  /-- scrub or patrol passes completed since module reset -/
  passes : Nat := 0
  /-- a scrub or patrol access is waiting for its bank -/
  waiting : Bool := false
deriving DecidableEq, Repr

/-- A merge window of stacked SRAM (R204): its line, the ports whose requests it holds, and, once its bank has read the
line, what the read brought: none where a word of the line is uncorrectable. -/
structure Window where
  line : Nat
  ports : List Nat
  isOpen : Bool
  granted : Bool
  data : Option (List Byte) := none
deriving DecidableEq, Repr

/-- What the read of a stacked-SRAM line delivers to a port: the line, and its bytes where no word is uncorrectable. -/
structure Delivery where
  line : Nat
  data : Option (List Byte)
deriving DecidableEq, Repr

/-- The stacked SRAM of a cluster: its merge windows, reads that are served alone, as (port, line), and the last line
delivered to each port (R203 to R205). -/
structure Stacked where
  windows : List Window := []
  alone : List (Nat × Nat) := []
  delivered : SMap (Option Delivery) := []
deriving DecidableEq, Repr

/-! ### Ports -/

/-- A forwarded packet whose acknowledgement has still to come back (R286, R288): its channel, receive-table entry of the
next module, writer and stream channel, and the receive-table entry by which it came. -/
structure Relay where
  vc : Vc
  farRoute : BitVec 8
  writer : PCore
  chan : Fin 4
  entry : BitVec 8
deriving DecidableEq, Repr

/-- The non-register state of an optical port (R273, R275, R276). -/
structure Port where
  /-- flits waiting on the transmit side, by channel -/
  tx : SMap (List Flit) := []
  /-- flits sent and kept for replay, newest first, at most 2,048 -/
  kept : List FibrePacket := []
  /-- kept flits that the peer has asked for again, oldest first -/
  resend : List FibrePacket := []
  /-- sequence numbers of the next flit to send and of the next one to take in (R275) -/
  txSeq : Nat := 0
  rxSeq : Nat := 0
  /-- flits sent whose credit has not come back, by channel (R273) -/
  used : SMap Nat := []
  /-- flits taken in and handed on whose credit has not been given back, by channel, newest first: the mesh flits that each
  became (R273) -/
  owing : SMap (List Nat) := []
  /-- flits taken in of packets whose last flit has still to come, oldest first (R287) -/
  parts : List FibrePacket := []
  /-- until the first flit not taken in comes, every flit out asks the peer for a replay from it (R275) -/
  asks : Bool := false
  /-- packets received here, forwarded, and not yet acknowledged, oldest first -/
  relays : List Relay := []
  /-- replays in a row that failed to deliver the same flit -/
  failed : Nat := 0
  /-- the first replay after RUN has been logged -/
  logged : Bool := false
  maintWait : Nat := 0
  /-- flits of secured copies that wait to be sent, oldest first, marked where a drain sends them (R489, R494); flit slots
  since the last one went, and whether the next MAINT flit is to be one of them -/
  copies : List (Bool × FibrePacket) := []
  copyWait : Nat := 0
  copyTurn : Bool := false
  /-- the image's receive table for this port -/
  rx : SMap RxEntry := []
  /-- what the loaded image expects, when it names a neighbour (R281) -/
  expect : Option PortRec := none
  /-- a training pass is under way -/
  training : Bool := false
deriving DecidableEq, Repr

/-! ### Regions -/

/-- The non-register state of a region. -/
structure Region where
  /-- consecutive thermal samples at or above the trip threshold (R446) -/
  hot : Nat := 0
  /-- a state set while the coolant check holds the region, to take effect when it ends (R477) -/
  heldState : Option Nat := none
  /-- the fc in which an array of the region last began a ramp (R153) -/
  lastRampFc : Option Nat := none
  /-- fc of the last throttle-start event (R445) -/
  throttleFc : Option Nat := none
  /-- its PLL has lost lock and has not locked again (R433) -/
  lockLost : Bool := false
  /-- the skip level whose pattern the region follows, taken as the counter of its fc wraps (R434) -/
  skip : Nat := 0
  /-- fc skipped since RUN (R434, R449) -/
  skipped : Nat := 0
  /-- events on their way to the always-on domain, at most 255, and the fc in which the one in transit left (R441) -/
  crossing : Nat := 0
  crossFc : Nat := 0
  /-- start slot of the loaded image (R438), and the fc of the RUN release -/
  startSlot : Nat := 0
  /-- allocation of the loaded image, per cluster (R368) -/
  stackedTop : List Nat := []
deriving DecidableEq, Repr

/-! ### Host side -/

/-- How the last host access ended, as the host sees it (R212, R218, R220, R230). -/
inductive RspStatus where
  | ok | unsupported | abort | poisoned | discarded | waiting
deriving DecidableEq, Repr

/-- The completion of a host access. -/
structure HostRsp where
  status : RspStatus := .ok
  data : List Byte := []
deriving DecidableEq, Repr

/-- An access that waits on a stopped region clock (R401, R442), or a posted write queued behind one. -/
structure Stalled where
  region : Nat
  /-- it came through BAR0 -/
  bar0 : Bool
  /-- module address -/
  addr : Nat
  op : HostOp
deriving DecidableEq, Repr

/-- A long command in progress (R373, R431, R490). -/
structure LoadJob where
  ctx : Option Ctx
  addr : Nat
  image : Image
deriving DecidableEq, Repr

structure LadderJob where
  ctx : Ctx
  target : Nat
  isSet : Bool
  regions : RegionSet
  startFc : Nat
deriving DecidableEq, Repr

/-- A pairing exchange in progress: begun by PAIR, or by the apply of a partner commit (R385, R488). -/
structure PairJob where
  ctx : Option Ctx
  partner : Nat
  /-- made by the apply of a partner-scope commit -/
  commit : Bool
deriving DecidableEq, Repr

/-- The rest of a transaction that is not in its registers (R379, R380). -/
structure Txn where
  items : List (Word × BitVec 64) := []
  regions : RegionSet := 0
  /-- TXN_TIMEOUT as it stood at TXN_BEGIN (R386), and the fc of TXN_BEGIN -/
  timeout : Nat := 0
  startFc : Nat := 0
deriving DecidableEq, Repr

/-- An event-log entry (R511, Table 8). -/
structure LogEntry where
  seq : Word
  counter : BitVec 64
  step : BitVec 64
  code : BitVec 16
  cls : BitVec 8
  location : BitVec 16
  detail : BitVec 16
  value : Word
  /-- a LOG_READ has covered it -/
  covered : Bool := false
deriving DecidableEq, Repr

/-- A queued or running maintenance activity (R507); its result is 16 until its effect has run. -/
structure Activity where
  seq : Nat
  code : Nat
  params : List Byte
  started : Bool
  result : Nat
  /-- fc at which it started -/
  startFc : Nat := 0
deriving DecidableEq, Repr

/-! ### Step, securing -/

/-- What this module says on the ports to its partner, or to the source it hosts. -/
inductive PartnerMsg where
  /-- the pairing exchange, and the reply to one (R490) -/
  | exchange (tags : PairTags)
  | reply (reply : PairReply)
  /-- its own tags have changed (R493) -/
  | tags (tags : PairTags)
  /-- the end of a copy that it hosts: complete, or why not (R497, R498) -/
  | copied (step : BitVec 64) (reply : DrainReply)
deriving DecidableEq, Repr

/-- The quiet point in progress (R302 to R306). -/
structure Quiet where
  /-- the first quiet point of a run (R306) -/
  first : Bool
  startFc : Nat
  /-- STOP_EN and RES_STEP_STOP match, as taken at the SWAP-end release (R304) -/
  stopAt : Bool
  /-- MON_STOP and a ratio event (R338) -/
  ratioStop : Bool
  applied : Bool
  committed : Bool
  /-- gate's last arrival has come in and the input check was counted (R319) -/
  starved : Bool
  starvedRings : List Nat
  secureCounted : Bool
  /-- the skip limit was reached: the fault comes once the apply is complete (R332, R341) -/
  limitHit : Bool := false
deriving DecidableEq, Repr

/-- A drain in progress (R494 to R498). -/
structure Drain where
  step : BitVec 64
  bufSel : Bool
  urgent : Bool
  flagged : Bool
  unpaced : Bool
  readDone : Bool
  startFc : Nat
  counter : BitVec 64
  /-- the pairing used the allowance when it began (R66, R491) -/
  shared : Bool
  /-- read time in µs, once it has read its last byte (R499) -/
  readUs : Nat
  /-- started by the DRAIN maintenance activity -/
  activity : Bool
deriving DecidableEq, Repr

/-- What is remembered of a pair half (R506). -/
structure PairHalf where
  overwritten : Bool := true
  lastStep : Option Nat := none
deriving DecidableEq, Repr

/-- The ratio-monitor and window state of a tag (R336 to R339). -/
structure TagState where
  monEn : Bool := false
  mode : Bool := false
  f : Nat := 0
  /-- LO and HI of the settings -/
  setLo : Word := 0
  setHi : Word := 0
  lo : Word := 0
  hi : Word := 0
  ref : Word := 0
  n : Word := 0
deriving DecidableEq, Repr

/-! ### Fuses and flash -/

/-- The fuse bank (R453). -/
structure FuseBank where
  orderCode : BitVec 2
  holdupFitted : Bool
  halfPorts : Bool
  serial : BitVec 64
  defects : List Word
  slot0 : Option (BitVec 512)
  slot1 : Option (BitVec 512)
  slot2 : Option (BitVec 512)
  slot3 : Option (BitVec 512)
  lifecycle : BitVec 2
  fwCount : BitVec 7
  imageCount : BitVec 7
  enables : BitVec 3
  disables : BitVec 3
  pairShared : Bool
  lockPolicy : Bool
  lockFreeze : Bool
  policy : BitVec 2
  /-- the device secret; every bit is blown in RETIRED (R459) -/
  secret : BitVec 256
  /-- slots that the factory or a completed record has set: one that an interrupted record blew in part may still be
  completed (R457, R458; log entry 110) -/
  whole : BitVec 4
deriving DecidableEq, Repr

/-- The bank as a part leaves the factory in OWNED, with no other slot set (log entry 3). -/
def FuseBank.factory : FuseBank :=
  ⟨0, true, false, Config.serial, [], some Config.vendorHash, none, none, none, 2, 0, 0, 0, 0, false, false, false, 0,
    Config.deviceSecret, 1⟩

/-- The two physical fuses of every logical bit (R452). -/
structure FusePair where
  one : FuseBank
  two : FuseBank
deriving DecidableEq, Repr

/-- Entries bit by bit: one is set where either list has it. -/
def orWords : List Word → List Word → List Word
  | [], ys => ys
  | xs, [] => xs
  | x :: xs, y :: ys => (x ||| y) :: orWords xs ys

/-- A key-hash slot of two banks. -/
def orSlot : Option (BitVec 512) → Option (BitVec 512) → Option (BitVec 512)
  | some x, some y => some (x ||| y)
  | some x, none => some x
  | none, y => y

/-- The greater of two counts. -/
def maxBv {w : Nat} (a b : BitVec w) : BitVec w := if a ≤ b then b else a

/-- What the bank reads: 1 where either fuse of a bit is blown (R452); of thermometer codes that is the greater. -/
def FusePair.read (p : FusePair) : FuseBank :=
  let a := p.one
  let b := p.two
  { orderCode := a.orderCode ||| b.orderCode
    holdupFitted := a.holdupFitted || b.holdupFitted
    halfPorts := a.halfPorts || b.halfPorts
    serial := a.serial ||| b.serial
    defects := orWords a.defects b.defects
    slot0 := orSlot a.slot0 b.slot0
    slot1 := orSlot a.slot1 b.slot1
    slot2 := orSlot a.slot2 b.slot2
    slot3 := orSlot a.slot3 b.slot3
    lifecycle := maxBv a.lifecycle b.lifecycle
    fwCount := maxBv a.fwCount b.fwCount
    imageCount := maxBv a.imageCount b.imageCount
    enables := a.enables ||| b.enables
    disables := a.disables ||| b.disables
    pairShared := a.pairShared || b.pairShared
    lockPolicy := a.lockPolicy || b.lockPolicy
    lockFreeze := a.lockFreeze || b.lockFreeze
    policy := a.policy ||| b.policy
    secret := a.secret ||| b.secret
    whole := a.whole ||| b.whole }

/-- A private key wrapped under a device secret (R463). -/
structure WrappedKey where
  under : BitVec 256
  key : BitVec 4096
deriving DecidableEq, Repr

/-- A fuse request record (R456). -/
structure FuseOp where
  op : Nat
  arg : Nat
  data : List Byte
deriving DecidableEq, Repr

/-- Controller flash (R61, R42, R461, R463, R499, R511). -/
structure Flash where
  moduleId : Option (BitVec 14)
  nextId : Option (BitVec 14)
  siteTag : BitVec 16
  softDefects : List Word
  /-- firmware copies A and B, whole; none stands for the copy that manufacture wrote (R461, R462; log entry 140) -/
  fwA : Option (List Byte)
  fwB : Option (List Byte)
  /-- the identity key pair, its private half wrapped, and the certificate chains of slots 0 and 1 (R463) -/
  identity : WrappedKey
  identityPublic : BitVec 4096
  cert0 : List Byte
  cert1 : List Byte
  log : List LogEntry
  logSeq : Word
  /-- the fault history H, in units of 2^-32 faults -/
  history : Nat
  /-- the last flush of the log did not complete (R425, R515) -/
  flushFailed : Bool
deriving DecidableEq, Repr

/-! ### Sensors and power -/

/-- Sample counts of a feed (R418, R518). -/
structure FeedCtr where
  low : Nat := 0
  high : Nat := 0
  range : Nat := 0
  /-- fc of the openings, newest first (R518) -/
  openings : List Nat := []
  /-- three openings: open until module reset (R518) -/
  latched : Bool := false
deriving DecidableEq, Repr

/-- The power loops' memory (R423, R426, R436). -/
structure PowerState where
  feedA : FeedCtr := {}
  feedB : FeedCtr := {}
  /-- the last input-power samples in mW, newest first, at most 100 -/
  watts : List Nat := []
  /-- consecutive samples with the 10 µs average below 0.9 × cap -/
  below : Nat := 0
  /-- the last bus sample, in 10 mV -/
  bus : Nat := 0
  /-- good feeds seen: start-up may run (R426) -/
  goodFeeds : Bool := false
  /-- held in reset after a class M fault (R425, R447) -/
  inReset : Bool := true
  /-- the 120 °C comparator latch: THERM_TRIP# and every converter off -/
  tripLatched : Bool := false
  /-- sensors not yet read below 80 °C since the latch (R447) -/
  hotMask : BitVec 400 := 0
deriving DecidableEq, Repr

/-- Coolant warning and check counts (R448, R476, R478), in 10 ms samples. -/
structure CoolState where
  high : Nat := 0
  low : Nat := 0
  bad : Nat := 0
  good : Nat := 0
  flowFor : Nat := 0
  lowFlow : Nat := 0
  checkOn : Bool := false
  /-- outlet less inlet temperature in 1/16 °C at each sample of the count, newest first (R476) -/
  deltas : List Int := []
deriving DecidableEq, Repr

/-- Motion sensor and SECURE_NOW# pin (R501, R503, R522). -/
structure SenseState where
  above : Nat := 0
  episode : Bool := false
  quiet : Nat := 0
  pin : Bool := false
  /-- the pin has raised its request and has not been deasserted for 100 µs since (R501, R522) -/
  pinUsed : Bool := false
  /-- fc of its last deassertion -/
  pinFc : Nat := 0
deriving DecidableEq, Repr

/-! ### The module -/

/-- The state of the module. -/
structure State where
  /-- commands waiting, first in, first out -/
  pending : List Instr
  /-- nominal fc since always-on power was applied; the always-on counter is this ÷ 28 (R8, R439) -/
  fc : Nat
  /-- fc at which the last RUN released the cores (R438, R451) -/
  runFc : Nat
  /-- index of the next free value (the model's own field, log entry 1) -/
  free : Nat
  /-- every register field, by `Field.key`; an unlisted field holds its Reset entry -/
  regs : SMap Word
  /-- memory bytes by physical address (Machine/Operands.lean); an unlisted byte reads 0 (R221, R222) -/
  mem : List Host.Cell
  /-- bad bit or symbol positions of words and lines in error, by physical word or line number (R200, R209) -/
  bad : SMap (List Nat)
  cores : SMap CoreState
  routers : SMap Router
  barriers : SMap BarrierState
  /-- arrivals that a router's barrier entry has taken in and not yet combined, with their overflow bits, by `arrivalKey`
  (R254, R329) -/
  arrivals : SMap (List Bool)
  stacked : SMap Stacked
  /-- clusters by tile × 40 + cluster; ring channel n at 1,600 + n -/
  units : SMap UnitErr
  ports : SMap Port
  regions : SMap Region
  /-- the loaded image (IMG_STATE LOADED or PATCHING) -/
  image : Option Image
  /-- the image whose tables a load that ended at the second digest left written, while none is loaded (R375) -/
  left : Option Image
  /-- the core index a cluster's spare carries, plus 1, by tile × 40 + cluster (R43) -/
  carried : SMap Nat
  /-- routers marked failed and lost clusters in force since the last load are read from the defect map at that load -/
  loadedDefects : List Word
  tables : List StepEntry
  counts : List CountReport
  nans : List NanReport
  /-- the whole step count of the report that the first-NaN latch holds (R194) -/
  nanStep : Nat
  /-- cores that have recorded and reported a NaN since LOAD_IMAGE or RUN are those with CORE_NAN.VALID -/
  runView : SMap Counts
  stepView : SMap Counts
  sinceQuiet : SMap Counts
  tags : SMap TagState
  quiet : Option Quiet
  /-- overflow bit V and skip decision of the present step (R329, R330) -/
  v : Bool
  skip : Bool
  /-- a RUN has come since LOAD_IMAGE: a step count has been in force (R305) -/
  ran : Bool
  /-- a job runs: from RUN until it completes, stops or faults -/
  job : Bool
  /-- the last job ended with a class J fault; later ones are its followers (R484) -/
  faulted : Bool
  /-- lines of the numerics area that hold an entry behind the values held: exponent-table line n as n, window-table line n
  as 1,024 + n (R340) -/
  dirty : List Nat
  /-- an uncorrectable error has been found in a UNIQUE range (R484) -/
  uniqueBad : Bool
  /-- the drain begun last, while it reads or the partner's answer is awaited -/
  drain : Option Drain
  /-- earlier drains that have read their last byte and await the partner's answer, oldest first -/
  replies : List Drain
  /-- the copy sent last: header page and range data (R487) -/
  sentCopy : List Byte
  /-- a secure request waits for the next quiet point; one is due at the quiet point in progress (R316, R502) -/
  deferred : Bool
  due : Bool
  scheduled : Bool
  /-- a drain has failed: the next gate schedules another (R498) -/
  redrain : Bool
  /-- step of the last drain completed since RUN (R496) -/
  lastDrain : Option (BitVec 64)
  drainTimes : List Nat
  gateTimes : List Nat
  lastGateFc : Option Nat
  /-- fault history H in units of 2^-32 faults (R499) -/
  history : Nat
  historySecs : Nat
  pairs : SMap PairHalf
  hosted : SMap CopyInfo
  /-- what the partner was last sent for a QUERY or RESTORE request (R504, R505) -/
  hostedReply : List Byte
  /-- the partner's own tags, as the last exchange brought them (R490) -/
  partnerTags : Option PairTags
  /-- messages sent on partner ports, oldest first: the ports, and what they say (R490, R493, R497) -/
  partnerOut : List (List Nat × PartnerMsg)
  txns : SMap Txn
  loading : Option LoadJob
  laddering : Option LadderJob
  pairing : Option PairJob
  /-- descriptors fetched and waiting for their turn, in fetch order (R405, R410) -/
  accepted : List (Ctx × List Byte)
  /-- the ring whose submission queue the module looks at first for its next fetch (R405) -/
  fetchTurn : BitVec 2
  /-- a HALT that waits for the pairing exchange of a pending commit (R411) -/
  halting : Option Ctx
  /-- commands fetched before a reset of the host interface: their completions are discarded (R394) -/
  orphans : List Ctx
  /-- out-of-band endpoints with a command outstanding: SMBus, PCIe (R414) -/
  oobBusy : BitVec 2
  /-- completions sent out of band, oldest first -/
  oobOut : List (List Byte)
  /-- PHASE of each command ring (R408) -/
  phase : BitVec 4
  /-- completion entries written to host memory, by CQ address (R392) -/
  hostMem : SMap Byte
  /-- MSI-X messages sent, by vector; the vector masks and pending bits (R399, R412) -/
  msix : SMap Nat
  msixMask : BitVec 64
  /-- address and data words of the table, by vector × 4 + word -/
  msixTable : SMap Word
  msixPending : BitVec 64
  rsp : HostRsp
  stalledQ : List Stalled
  /-- lines the host caches under HDM-DB, and writes waiting for a snoop: (line, address, bytes) (R398) -/
  snoop : List Nat
  snoopWait : List (Nat × Nat × List Byte)
  /-- completions whose CQ entry, or one before it, waits for a snoop, oldest first: the ring, whether the command asked for
  the interrupt, the entry with phase 0 (R398, R408) -/
  cqWait : List (Nat × Bool × List Byte)
  /-- packets accepted whose write waits for snoops: the lines, and the router, input and flit to acknowledge (R398) -/
  snoopAcks : List (List Nat × Nat × Nat × Flit)
  /-- host ring requests waiting behind the job in a channel, oldest first (R397) -/
  hostWait : List (Nat × HostWindow × Nat × HostOp)
  perst : Bool
  /-- the log, newest first (R511); its next SEQ; entries since the last LOG_READ -/
  log : List LogEntry
  nextSeq : Word
  sinceRead : Nat
  activities : List Activity
  fuses : FusePair
  /-- the fuse request under way (R457, R458) -/
  fuseOps : List FuseOp
  /-- bits set by completed requests are already in the shadow (R455): the bank as the shadow shows it -/
  shadowBank : FuseBank
  flash : Flash
  /-- ARB and DIGEST of the firmware copy that runs, and which copy: false A, true B (R461) -/
  firmware : Option (Bool × BitVec 7 × BitVec 512)
  patchChain : BitVec 512
  /-- an SPDM secured session is up over MCTP, over DOE (R417) -/
  sessions : BitVec 2
  measured : List Byte
  /-- the last firmware package was answered with the PLDM verify failure (R462) -/
  pldmRefused : Bool
  sensor : Int
  power : PowerState
  cool : CoolState
  sense : SenseState
  smbusDriving : Bool
  /-- the 7-bit address at which the SMBus endpoint answers: 0x52, or the one SMBus ARP assigned (R413) -/
  smbusAddr : BitVec 7
  /-- the test port drives the scan chains (R480) -/
  scanDriven : Bool
  /-- stacks that took a STACK entry since the last module reset (R213) -/
  lostStacks : BitVec 36
  /-- rows that need hard repair at the next reset (R232) -/
  repairs : List (Nat × Nat)
deriving DecidableEq, Repr

/-- The state right after reset: every register field at its Reset entry, every memory and table empty, nothing loaded,
the fuse bank and flash as Config gives them. -/
def State.reset : State where
  pending := []
  fc := 0
  runFc := 0
  free := 0
  regs := []
  mem := []
  bad := []
  cores := []
  routers := []
  barriers := []
  arrivals := []
  stacked := []
  units := []
  ports := []
  regions := []
  image := none
  left := none
  carried := []
  loadedDefects := []
  tables := []
  counts := []
  nans := []
  nanStep := 0
  runView := []
  stepView := []
  sinceQuiet := []
  tags := []
  quiet := none
  v := false
  skip := false
  ran := false
  job := false
  faulted := false
  dirty := []
  uniqueBad := false
  drain := none
  replies := []
  sentCopy := []
  deferred := false
  due := false
  scheduled := false
  redrain := false
  lastDrain := none
  drainTimes := []
  gateTimes := []
  lastGateFc := none
  history := 0
  historySecs := 0
  pairs := []
  hosted := []
  hostedReply := []
  partnerTags := none
  partnerOut := []
  txns := []
  loading := none
  laddering := none
  pairing := none
  accepted := []
  fetchTurn := 0
  halting := none
  orphans := []
  oobBusy := 0
  oobOut := []
  phase := 0
  hostMem := []
  msix := []
  msixMask := 0#64 - 1
  msixTable := []
  msixPending := 0
  rsp := {}
  stalledQ := []
  snoop := []
  snoopWait := []
  cqWait := []
  snoopAcks := []
  hostWait := []
  perst := false
  log := []
  nextSeq := 1
  sinceRead := 0
  activities := []
  fuses := ⟨.factory, .factory⟩
  fuseOps := []
  shadowBank := .factory
  flash := ⟨none, none, 0, [], none, none, ⟨Config.deviceSecret, Config.identityPrivate⟩, Config.identityPublic,
    Config.deviceChain, [], [], 1, 0, false⟩
  firmware := none
  patchChain := 0
  sessions := 0
  measured := []
  pldmRefused := false
  sensor := 0
  power := {}
  cool := {}
  sense := {}
  smbusDriving := false
  smbusAddr := 0x52
  scanDriven := false
  lostStacks := 0
  repairs := []

end Sys2Proof.Machine
end

