-- ==== Sys2Proof/Machine/Ops.lean ====
section
/-!
DEFINITION. The named operations over the state that every meaning uses: sparse maps, memory, register fields, free
values, the event log (R511), interrupts (R412) and ALERT# (R524).
-/
namespace Sys2Proof.Machine

/-! ### Sparse maps -/

/-- The value at a key; `d` is the map's default. -/
def mget {α : Type} (d : α) : SMap α → Nat → α
  | [], _ => d
  | (j, v) :: m, k => if j = k then v else mget d m k

/-- The map with key `k` set to `v`; a default value is not listed, and keys stay in rising order. -/
def mset {α : Type} [DecidableEq α] (d : α) (m : SMap α) (k : Nat) (v : α) : SMap α :=
  m.filter (fun e => e.1 < k) ++ ((if v = d then [] else [(k, v)]) ++ m.filter (fun e => k < e.1))

/-- The pairs (k, v₀), (k + 1, v₁), … without those that hold the default. -/
def mcells {α : Type} [DecidableEq α] (d : α) : Nat → List α → SMap α
  | _, [] => []
  | k, v :: vs => if v = d then mcells d (k + 1) vs else (k, v) :: mcells d (k + 1) vs

/-- The map with keys k, k + 1, … set to the values of a list. -/
def msetRange {α : Type} [DecidableEq α] (d : α) (m : SMap α) (k : Nat) (vs : List α) : SMap α :=
  m.filter (fun e => e.1 < k) ++ (mcells d k vs ++ m.filter (fun e => k + vs.length ≤ e.1))

/-- The map without the keys from k to k + n − 1. -/
def mclear {α : Type} (m : SMap α) (k n : Nat) : SMap α :=
  m.filter (fun e => e.1 < k || k + n ≤ e.1)

/-- The values of n keys from k on, walking a map whose keys below k are gone. -/
def mspread {α : Type} (d : α) : Nat → Nat → SMap α → List α
  | _, 0, _ => []
  | k, n + 1, [] => d :: mspread d (k + 1) n []
  | k, n + 1, (j, v) :: m => if j = k then v :: mspread d (k + 1) n m else d :: mspread d (k + 1) n ((j, v) :: m)

/-- The values of keys k to k + n − 1. -/
def mgetRange {α : Type} (d : α) (m : SMap α) (k n : Nat) : List α :=
  mspread d k n (m.filter (fun e => k ≤ e.1 && e.1 < k + n))

/-- The canonical form of a sparse map: keys strictly rising, no default listed. -/
def mwf {α : Type} [DecidableEq α] (d : α) (m : SMap α) : Bool :=
  decide (m.Pairwise (fun a b => a.1 < b.1)) && m.all (fun e => decide (e.2 ≠ d))

/-! ### Memory: bytes by physical address, unlisted bytes read 0 (R221, R222) -/

/-- What an unlisted byte of memory reads as: the zeros of the start-up fill (R221, R222). -/
def memDefault : Byte := 0

/-- One byte of memory. -/
def memByte (m : List Host.Cell) (a : Nat) : Byte := mget memDefault m a

/-- n bytes from address a on. -/
def memRead (m : List Host.Cell) (a n : Nat) : List Byte := mgetRange memDefault m a n

/-- Bytes stored from address a on. -/
def memWrite (m : List Host.Cell) (a : Nat) (bs : List Byte) : List Host.Cell := msetRange memDefault m a bs

/-- n zero bytes stored from address a on. -/
def memZero (m : List Host.Cell) (a n : Nat) : List Host.Cell := mclear m a n

/-- The canonical form of memory: addresses strictly rising, no zero byte listed. -/
def Memory.wf (m : List Host.Cell) : Bool := mwf memDefault m

/-- The number that little-endian bytes spell. -/
def leNat : List Byte → Nat
  | [] => 0
  | b :: bs => b.toNat + 256 * leNat bs

/-- The n little-endian bytes of a number. -/
def leBytes : Nat → Nat → List Byte
  | 0, _ => []
  | n + 1, v => BitVec.ofNat 8 v :: leBytes n (v / 256)

/-- Bits lo to lo + w − 1 of a number. -/
def bits (v lo w : Nat) : Nat := v / 2 ^ lo % 2 ^ w

/-- A w-bit field read as a two's-complement number. -/
def signed (v w : Nat) : Int := if v < 2 ^ (w - 1) then (v : Int) else (v : Int) - (2 ^ w : Nat)

/-! ### Register fields -/

/-- The word a field holds. -/
def State.word (s : State) (f : Field) (i : Nat := 0) : Word := mget f.resetWord s.regs (f.key i)

/-- The number a field holds. -/
def State.get (s : State) (f : Field) (i : Nat := 0) : Nat := (s.word f i).toNat

/-- True when a field is not zero. -/
def State.on (s : State) (f : Field) (i : Nat := 0) : Bool := s.get f i != 0

/-- Sets a field to a word, cut to the field's width. -/
def State.putWord (s : State) (f : Field) (v : Word) (i : Nat := 0) : State :=
  { s with regs := mset f.resetWord s.regs (f.key i) (v &&& f.mask) }

/-- Returns every instance of a field to its Reset entry. -/
def State.clearField (s : State) (f : Field) : State := { s with regs := s.regs.filter (fun e => e.1 % 512 != f.num) }

/-- Sets a field to a number, cut to the field's width. -/
def State.put (s : State) (f : Field) (v : Nat) (i : Nat := 0) : State := s.putWord f (BitVec.ofNat 32 v) i

/-- Sets a field to a number that saturates at the field's largest value. -/
def State.putSat (s : State) (f : Field) (v : Nat) (i : Nat := 0) : State := s.put f (min v f.mask.toNat) i

/-- Adds to a saturating counter. -/
def State.bump (s : State) (f : Field) (n : Nat := 1) (i : Nat := 0) : State := s.putSat f (s.get f i + n) i

/-- Adds to a wrapping counter. -/
def State.count (s : State) (f : Field) (n : Nat := 1) (i : Nat := 0) : State := s.put f (s.get f i + n) i

/-- Sets a one-bit field from a truth value. -/
def State.flag (s : State) (f : Field) (b : Bool) (i : Nat := 0) : State := s.put f (if b then 1 else 0) i

/-- Sets several fields of instance i at once. -/
def State.puts (s : State) (i : Nat) (fs : List (Field × Nat)) : State :=
  fs.foldl (fun s fv => s.put fv.1 fv.2 i) s

/-- Returns fields to their Reset entries, in instance i. -/
def State.clears (s : State) (i : Nat) (fs : List Field) : State :=
  fs.foldl (fun s f => s.putWord f f.resetWord i) s

/-- Applies an operation for every element of a list. -/
def State.each {α : Type} (s : State) (xs : List α) (f : State → α → State) : State := xs.foldl f s

/-! ### Parts of the state by number -/

def State.core (s : State) (p : Nat) : CoreState := mget {} s.cores p
def State.setCore (s : State) (p : Nat) (c : CoreState) : State := { s with cores := mset {} s.cores p c }
def State.router (s : State) (r : Nat) : Router := mget {} s.routers r
def State.setRouter (s : State) (r : Nat) (x : Router) : State := { s with routers := mset {} s.routers r x }
def State.barrier (s : State) (k : Nat) : BarrierState := mget {} s.barriers k
def State.setBarrier (s : State) (k : Nat) (b : BarrierState) : State := { s with barriers := mset {} s.barriers k b }
def State.unit (s : State) (u : Nat) : UnitErr := mget {} s.units u
def State.setUnit (s : State) (u : Nat) (e : UnitErr) : State := { s with units := mset {} s.units u e }
def State.stack (s : State) (c : Nat) : Stacked := mget {} s.stacked c
def State.setStack (s : State) (c : Nat) (x : Stacked) : State := { s with stacked := mset {} s.stacked c x }
def State.port (s : State) (n : Nat) : Port := mget {} s.ports n
def State.setPort (s : State) (n : Nat) (p : Port) : State := { s with ports := mset {} s.ports n p }
def State.region (s : State) (r : Nat) : Region := mget {} s.regions r
def State.setRegion (s : State) (r : Nat) (x : Region) : State := { s with regions := mset {} s.regions r x }

/-! ### Barrier traffic (R257) -/

/-- A barrier's arrival or release. -/
def Flit.ofBarrier (f : Flit) : Bool :=
  match f.load with
  | .arrival _ _ => true
  | .release _ _ _ => true
  | _ => false

/-- Queues without barrier traffic. -/
def dropBarrier (m : SMap (List Flit)) : SMap (List Flit) :=
  (m.map (fun e => (e.1, e.2.filter (fun f => !f.ofBarrier)))).filter (fun e => !e.2.isEmpty)

/-- A router without barrier traffic. -/
def Router.dropBarrier (x : Router) : Router :=
  { x with
    inbuf := Machine.dropBarrier x.inbuf
    source := Machine.dropBarrier x.source
    hold := Machine.dropBarrier x.hold }

/-- Every open generation is abandoned with the job: its arrivals and what travels of it (R257). -/
def State.abandonBarriers (s : State) : State :=
  { s with
    arrivals := []
    routers := (s.routers.map (fun e => (e.1, e.2.dropBarrier))).filter (fun e => e.2 != {})
    ports := (s.ports.map (fun e => (e.1, { e.2 with tx := dropBarrier e.2.tx }))).filter (fun e => e.2 != {})
    barriers := (s.barriers.map (fun e => (e.1, { e.2 with complete := e.2.released }))).filter (fun e => e.2 != {}) }

/-! ### Free values (log entry 1) -/

/-- The next free value of a family, and the state with the counter advanced. -/
def State.fresh {w : Nat} (s : State) (f : Nat → BitVec w) : BitVec w × State := (f s.free, { s with free := s.free + 1 })

/-- The state with n free values used. -/
def State.useFree (s : State) (n : Nat) : State := { s with free := s.free + n }

/-- The state with another memory. -/
def State.setMem (s : State) (m : List Host.Cell) : State := { s with mem := m }

/-! ### Time, steps -/

/-- The always-on counter (R8, R439). -/
def State.ac (s : State) : Nat := s.fc / fcPerAc

/-- The step count (R298). -/
def State.stepCount (s : State) : Nat := s.get .RES_STEP_LO_COUNT + 2 ^ 32 * s.get .RES_STEP_HI_COUNT

def State.setStep (s : State) (n : Nat) : State :=
  (s.put .RES_STEP_LO_COUNT n).put .RES_STEP_HI_COUNT (n / 2 ^ 32)

/-! ### Interrupts (R412) -/

/-- Sends the MSI-X message of a vector, or leaves its pending bit when the vector is masked in the table. -/
def State.msixSend (s : State) (v : Nat) : State :=
  if s.msixMask.getLsbD v then { s with msixPending := s.msixPending ||| BitVec.ofNat 64 (2 ^ v) }
  else { s with msix := mset 0 s.msix v (mget 0 s.msix v + 1) }

/-- A source of Table 7 sets its status bit; a bit that changes to 1 sends the message when the source is unmasked. -/
def State.raise (s : State) (src : Nat) : State :=
  let st := s.word .HOST_IRQ_STATUS_SRC
  if st.getLsbD src then s
  else
    let s' := s.putWord .HOST_IRQ_STATUS_SRC (st ||| BitVec.ofNat 32 (2 ^ src))
    if (s.word .HOST_IRQ_MASK_SRC).getLsbD src then s' else s'.msixSend src

/-! ### The event log (R511) -/

/-- Writes an event-log entry; the log keeps the newest 4,096, counts those overwritten unread and raises source 17 at
3,072 entries since the last LOG_READ. -/
def State.event (s : State) (code cls loc detail value : Nat) : State :=
  let e : LogEntry := ⟨s.nextSeq, BitVec.ofNat 64 s.ac,
    BitVec.ofNat 64 (if s.on .RES_STEP_STATE_PHASE then s.stepCount else 0),
    BitVec.ofNat 16 code, BitVec.ofNat 8 cls, BitVec.ofNat 16 loc, BitVec.ofNat 16 detail, BitVec.ofNat 32 value, false⟩
  let unread : Bool := (s.log.drop 4095).any (fun old => !old.covered)
  let s : State := bif unread then s.bump .LOG_LOST_COUNT else s
  let s : State := { s with
    log := e :: s.log.take 4095
    nextSeq := if s.nextSeq = 0xFFFFFFFF then 1 else s.nextSeq + 1
    sinceRead := s.sinceRead + 1 }
  if s.sinceRead = 3072 then s.raise 17 else s

/-- Event class numbers (Table 8 of "Faults, Partners and Securing State"). -/
def clsNone : Nat := 0
def clsC : Nat := 1
def clsS : Nat := 2
def clsJ : Nat := 3
def clsM : Nat := 4

/-- A single-bit event of a region crosses to the always-on domain (R441). The sender holds up to 255; the one that fills
the count writes the saturation entry, and those that find it full are lost. DESIGN CHOICE (log entry 139): an event that
is not lost is seen at once, and LOCATION of the entry is the region. -/
def State.crossEvent (s : State) (reg : Nat) (go : State → State) : State :=
  let g := s.region reg
  if 255 ≤ g.crossing then s
  else
    let s := s.setRegion reg { g with
      crossing := g.crossing + 1
      crossFc := if g.crossing = 0 then s.fc else g.crossFc }
    go (if g.crossing = 254 then s.event 0x0109 clsNone reg 0 255 else s)

/-- A write that is ignored or refused (R9, R512). -/
def State.ignoredWrite (s : State) (offset : Nat) : State := s.event 0x0B01 clsNone 0 0 offset

/-! ### ALERT# (R524) -/

/-- The module asserts ALERT#, until it answers the tray's Alert Response read (R524). -/
def State.alert (s : State) : State :=
  if 4 ≤ s.get .RES_START_STATE_STEP || s.on .RES_START_STATE_READY then s.put .RES_MGMT_ALERT 1 else s

end Sys2Proof.Machine
end

