-- ==== Sys2Proof/Machine/Operands.lean ====
section
/-!
DEFINITION. Where things are: the geometry of the field (R14 to R17, R36 to R39), the numbers by which the state keeps
cores, clusters, routers and memory, the module address map (R215, R216), the local view (R101), the ring mapping
(R208), and reads and writes that meet bad bits (R200, R202, R209, R227 to R230).
-/
namespace Sys2Proof.Machine

/-! ### Geometry -/

/-- First tile, number of tiles and start column of each tile row (Table 6 of "Scope", Table 2 of "Six Levels"). -/
def tileRows : List (Nat × Nat × Nat) :=
  [(0, 5, 60), (5, 7, 20), (12, 8, 0), (20, 8, 0), (28, 7, 20), (35, 5, 60)]

/-- The tile row of a tile. -/
def tileRow (t : Nat) : Nat := if t < 5 then 0 else if t < 12 then 1 else if t < 20 then 2 else if t < 28 then 3 else if t < 35 then 4 else 5

/-- The start column of a tile (R17). -/
def tileStart (t : Nat) : Nat :=
  let r := tileRows.getD (tileRow t) (0, 0, 0)
  r.2.2 + 40 * (t - r.1)

/-- The home position of logical core (tile, cluster, core) (R17). -/
def homeXY (t cl c : Nat) : Nat × Nat :=
  (tileStart t + cl % 10 * 4 + c % 4, tileRow t * 16 + cl / 10 * 4 + c / 4)

/-- Whether a grid position exists (R36). -/
def posExists (x y : Nat) : Bool :=
  match tileRows[y / 16]? with
  | some (_, n, x0) => x0 ≤ x && x < x0 + 40 * n
  | none => false

/-- The tile of an existing position (R36). -/
def posTile (x y : Nat) : Nat :=
  let r := tileRows.getD (y / 16) (0, 0, 0)
  r.1 + (x - r.2.2) / 40

/-- The cluster and core of an existing position within its tile (R37). -/
def posCluster (x y : Nat) : Nat := y % 16 / 4 * 10 + (x - tileStart (posTile x y)) / 4
def posCore (x y : Nat) : Nat := y % 4 * 4 + x % 4

/-- The region of a cluster (R16). -/
def regionOf (t cl : Nat) : Nat := t * 10 + cl / 10 / 2 * 5 + cl % 10 / 2

/-- The number of a cluster, tile × 40 + cluster (R234). -/
def clusterNo (t cl : Nat) : Nat := t * 40 + cl

end Sys2Proof.Machine
namespace Sys2Proof
/-- The number under which the state keeps it. -/
def ClusterRef.no (c : ClusterRef) : Nat := Machine.clusterNo c.tile c.cluster

end Sys2Proof
namespace Sys2Proof.Machine

/-- The region of a cluster number. -/
def clusterRegion (n : Nat) : Nat := regionOf (n / 40) (n % 40)

/-- The clusters of a region. -/
def regionClusters (r : Nat) : List Nat :=
  let b := r / 10 * 40 + r % 10 / 5 * 20 + r % 5 * 2
  [b, b + 1, b + 10, b + 11]

/-- The number of a physical core: cluster number × 17 + core, core 16 the spare. -/
def coreNo (t cl c : Nat) : Nat := clusterNo t cl * 17 + c

end Sys2Proof.Machine
namespace Sys2Proof
/-- The number under which the state keeps it. -/
def PCore.no (p : PCore) : Nat := Machine.coreNo p.tile p.cluster p.core

end Sys2Proof
namespace Sys2Proof.Machine
def coreCluster (p : Nat) : Nat := p / 17
def coreRegion (p : Nat) : Nat := clusterRegion (p / 17)

/-- The physical cores of a region, in debug-page order (R116): the sixty-four home positions, then the four spares. -/
def regionCores (r : Nat) : List Nat :=
  (regionClusters r).flatMap (fun c => (List.range 16).map (fun k => c * 17 + k)) ++ (regionClusters r).map (fun c => c * 17 + 16)

/-- The physical core of a debug-page slot of a region (R116). -/
def slotCore (r slot : Nat) : Nat := (regionCores r).getD slot 0

/-- The debug-page slot of a physical core (R116). -/
def coreSlot (p : Nat) : Nat :=
  let q := p / 17 % 40 / 10 % 2 * 2 + p / 17 % 40 % 10 % 2
  if p % 17 = 16 then 64 + q else q * 16 + p % 17

/-- The number of a router: y × 320 + x on the grid; 40,000 + cluster number for the spare's on the spine (R39). -/
def gridRouter (x y : Nat) : Nat := y * 320 + x
def spineRouter (c : Nat) : Nat := 40000 + c

end Sys2Proof.Machine
namespace Sys2Proof
/-- The number under which the state keeps it. -/
def RouterRef.no : RouterRef → Nat
  | .grid x y => Machine.gridRouter x y
  | .spare c => Machine.spineRouter c.no

end Sys2Proof
namespace Sys2Proof.Machine

/-- The router of a physical core (R39). -/
def coreRouter (p : Nat) : Nat :=
  if p % 17 = 16 then spineRouter (p / 17)
  else
    let xy := homeXY (p / 17 / 40) (p / 17 % 40) (p % 17)
    gridRouter xy.1 xy.2

/-- The physical core at a router. -/
def routerCore (n : Nat) : Nat :=
  if 40000 ≤ n then (n - 40000) * 17 + 16
  else
    let x := n % 320
    let y := n / 320
    coreNo (posTile x y) (posCluster x y) (posCore x y)

/-- The region of a router. -/
def routerRegion (n : Nat) : Nat := coreRegion (routerCore n)

/-- The attach router of a port (R271). -/
def portRouter (n : Nat) : Nat :=
  let t := n / 4
  let x := tileStart t + (if n % 2 = 0 then 12 else 28)
  gridRouter x (16 * tileRow t + (if n % 4 < 2 then 4 else 11))

/-- The port whose attach router this is. -/
def routerPort (r : Nat) : Option Nat := (List.range 160).find? (fun n => portRouter n = r)


end Sys2Proof.Machine
namespace Sys2Proof
/-- The number of a direction: N, E, S, W, local, spine, port link (R369). -/
def Dir.no : Dir → Nat
  | .n => 0 | .e => 1 | .s => 2 | .w => 3 | .loc => 4 | .spine => 5 | .port => 6

/-- The channel codes of R369, which are also the codes of R104 for PLAN, GRAD and MAINT less one: SYNC is lowest. -/
def Vc.no : Vc → Nat
  | .sync => 0 | .plan => 1 | .grad => 2 | .maint => 3

end Sys2Proof
namespace Sys2Proof.Machine

/-- The edge bridge of a tile (Table 3 of "Six Levels"). -/
def edgeTiles : List Nat := [0, 1, 2, 3, 4, 11, 19, 27, 34, 39, 38, 37, 36, 35, 28, 20, 12, 5]

/-- The edge bridge that serves a stack (R56). -/
def stackBridge (st : Nat) : Nat := st / 2

/-! ### Logical and physical cores (R43) -/

/-- The physical core that carries a logical core. -/
def State.physCore (s : State) (t cl c : Nat) : Nat :=
  if mget 0 s.carried (clusterNo t cl) = c + 1 then coreNo t cl 16 else coreNo t cl c

/-- The core index a physical core carries under the remap in force. -/
def State.logicalCore (s : State) (p : Nat) : Option Nat :=
  let m := mget 0 s.carried (p / 17)
  if p % 17 = 16 then (if m = 0 then none else some (m - 1))
  else if m = p % 17 + 1 then none else some (p % 17)

/-- A core reference as a physical core. -/
def State.crefCore (s : State) (c : Cref) : Nat := s.physCore c.tile c.cluster c.core

/-! ### The memory map -/

/-- Physical addresses of the model: the ring at its ring addresses; near SRAM of physical core p at 2^46 + p × 1 MiB;
stacked SRAM of cluster c at 2^47 + c × 48 MiB. -/
def nearBase : Nat := 2 ^ 46
def stackedBase : Nat := 2 ^ 47
def nearSize : Nat := 0x100000
def stackedSize : Nat := 0x3000000
def nearAddr (p off : Nat) : Nat := nearBase + p * nearSize + off
def stackedAddr (c off : Nat) : Nat := stackedBase + c * stackedSize + off

/-- What a module address names (R215, R216). -/
inductive Place where
  | ring (a : Nat)
  | near (p off : Nat)
  | stacked (c off : Nat)
  | control (off : Nat)
  | hole
deriving DecidableEq, Repr

/-- Bytes of the ring, S × C (R214). -/
def State.ringTop (s : State) : Nat := 2 ^ 30 * s.get .MEM_RING_CFG_SIZE_GIB

/-- The place of a module address (R215, R216); the window of R216 names logical cores. -/
def State.place (s : State) (a : Nat) : Place :=
  if a < s.ringTop then .ring a
  else if 0x400000000000 ≤ a && a < 0x401900000000 then
    let o := a - 0x400000000000
    let t := o / 0xA0000000
    let cl := o % 0xA0000000 / 0x4000000
    let w := o % 0x4000000
    if w < stackedSize then .stacked (clusterNo t cl) w
    else .near (s.physCore t cl ((w - stackedSize) / nearSize)) (w % nearSize)
  else if 0x7F0000000000 ≤ a && a < 0x7F0004000000 then .control (a - 0x7F0000000000)
  else .hole

/-- The place of a window offset in the local view of a physical core (R101). -/
def localPlace (p off : Nat) : Place :=
  if off < stackedSize then .stacked (p / 17) off
  else if off < stackedSize + nearSize then .near p (off - stackedSize)
  else .hole

/-- The physical address of a place. -/
def Place.phys : Place → Option Nat
  | .ring a => some a
  | .near p o => some (nearAddr p o)
  | .stacked c o => some (stackedAddr c o)
  | .control _ => none
  | .hole => none

/-! ### The ring mapping (R208) -/

/-- The stacks in use, in ascending order (R234). -/
def State.stacksInUse (s : State) : List Nat :=
  (List.range 36).filter (fun n =>
    if n < 32 then (s.word .MEM_RING_MAP_LO_IN_USE).getLsbD n else (s.word .MEM_RING_MAP_HI_IN_USE).getLsbD (n - 32))

/-- The stack and stack-local byte address of a ring address (R208). -/
def State.ringLoc (s : State) (a : Nat) : Nat × Nat :=
  let g := a / 4096
  let ss := s.stacksInUse
  let n := max ss.length 1
  (ss.getD (g % n) 0, g / n * 4096 + a % 4096)

/-- The ring channel of a ring address (R208). -/
def State.ringChan (s : State) (a : Nat) : Nat := (s.ringLoc a).1 * 16 + a / 256 % 16

/-- The ring address of a stack-local address of a stack (the inverse of R208). -/
def State.ringOf (s : State) (st loc : Nat) : Nat :=
  let ss := s.stacksInUse
  (loc / 4096 * max ss.length 1 + ss.idxOf st) * 4096 + loc % 4096

/-! ### Words and lines in error (R200, R209, R228) -/

/-- The number under which the state keeps a word or line in error: near words, stacked words, ring lines by stack. -/
def nearKey (p w : Nat) : Nat := 2 ^ 41 + p * 131072 + w
def stackedKey (c w : Nat) : Nat := 2 ^ 40 + c * 6291456 + w
def ringKey (st line : Nat) : Nat := 2 ^ 42 + st * 2 ^ 30 + line


end Sys2Proof.Machine
namespace Sys2Proof
/-- The number under which the state keeps it. -/
def MemLoc.key : MemLoc → Nat
  | .near p w => Machine.nearKey p.no w
  | .stacked c w => Machine.stackedKey c.no w
  | .ring st l => Machine.ringKey st l

end Sys2Proof
namespace Sys2Proof.Machine

/-- The word or line that holds a physical address. -/
def State.errKey (s : State) (a : Nat) : Nat :=
  if stackedBase ≤ a then 2 ^ 40 + (a - stackedBase) / 8
  else if nearBase ≤ a then 2 ^ 41 + (a - nearBase) / 8
  else ringKey (s.ringLoc a).1 ((s.ringLoc a).2 / 64)

/-- What a word or line in error is, for its unit: the unit (cluster, or 1,600 + ring channel), the TIER, SLOT and LOC
of R234. -/
def errUnit (k : Nat) : Nat × Nat × Nat × Nat :=
  if 2 ^ 42 ≤ k then
    let l := (k - 2 ^ 42) % 2 ^ 30
    let st := (k - 2 ^ 42) / 2 ^ 30
    (1600 + st * 16 + l / 4 % 16, 2, 0, l)
  else if 2 ^ 41 ≤ k then
    let o := k - 2 ^ 41
    (o / 131072 / 17, 0, o / 131072 % 17, o % 131072)
  else
    let o := k - 2 ^ 40
    (o / 6291456, 1, 0, o % 6291456)

/-- The first physical address and size of a word or line in error. -/
def State.errSpan (s : State) (k : Nat) : Nat × Nat :=
  if 2 ^ 42 ≤ k then (s.ringOf ((k - 2 ^ 42) / 2 ^ 30) ((k - 2 ^ 42) % 2 ^ 30 * 64), 64)
  else if 2 ^ 41 ≤ k then (nearBase + (k - 2 ^ 41) * 8, 8)
  else (stackedBase + (k - 2 ^ 40) * 8, 8)

/-- The LOCATION of an event of the memory family: the region of a cluster, or the ring channel (log entry 12). -/
def unitLocation (u : Nat) : Nat := if u < 1600 then clusterRegion u else u - 1600

/-- Entries a unit's table holds (R228). -/
def unitEntries (u : Nat) : Nat := if u < 1600 then 8 else 16

/-- A correction in a unit: counts, table, overflow and log (R227 to R229). -/
def State.correct (s : State) (k pos : Nat) : State :=
  let (u, tier, slot, loc) := errUnit k
  let e := s.unit u
  let first := e.table.isEmpty && e.ovf = 0
  let held := e.table.any (fun t => t.tier = tier && t.slot = slot && t.loc = loc)
  let ovf := !held && unitEntries u ≤ e.table.length
  let e' : UnitErr := { e with
    ce := min (e.ce + 1) 0xFFFFFFFF
    ovf := if ovf then min (e.ovf + 1) 0xFFFF else e.ovf
    table :=
      if held then e.table.map (fun t =>
        if t.tier = tier && t.slot = slot && t.loc = loc then { t with rep := min (t.rep + 1) 255 } else t)
      else if ovf then e.table
      else e.table ++ [⟨tier, slot, pos, 0, loc⟩] }
  let s := (s.setUnit u e').bump .MEM_TOTAL_CE_COUNT
  let s := if first then s.event 0x0301 clsC (unitLocation u) tier loc else s
  if ovf && e.ovf = 0 then s.event 0x0302 clsC (unitLocation u) tier loc else s

/-- Whether a word or line lies in a UNIQUE range of the loaded step table (R484, R486). -/
def State.inUnique (s : State) (k : Nat) : Bool :=
  2 ^ 42 ≤ k && (let a := (s.errSpan k).1
    s.tables.any (fun e => e.kind = 3 && e.base * 4096 ≤ a && a < (e.base + e.length) * 4096))

/-- An uncorrectable error in a unit: counts, log, source 13 and ALERT# (R229, R230, R412, R524); one in a UNIQUE range
is remembered for LOCAL_VALID (R484). -/
def State.uncorrectable (s : State) (k : Nat) : State :=
  let (u, tier, _, loc) := errUnit k
  let e := s.unit u
  let s := (s.setUnit u { e with ue := min (e.ue + 1) 0xFFFF }).bump .MEM_TOTAL_UE_COUNT
  let s := { s with uniqueBad := s.uniqueBad || s.inUnique k }
  ((s.event 0x0303 clsNone (unitLocation u) tier loc).raise 13).alert

/-- A stack that took a STACK entry since the last module reset (R213). -/
def State.stackLost (s : State) (st : Nat) : Bool :=
  s.lostStacks.getLsbD st

/-- What a read finds in one word or line. -/
inductive Found where
  | good | bad
  /-- delivered with wrong data, without an indication; whether it was miscorrected -/
  | wrong (data : List Byte) (miscorrected : Bool)
deriving DecidableEq, Repr

/-- The bad bits among the eight data bits that start at position lo, as a mask. -/
def badMask (bad : List Nat) (lo : Nat) : Byte :=
  BitVec.ofNat 8 ((List.range 8).foldr (fun j n => 2 * n + if bad.contains (lo + j) then 1 else 0) 0)

/-- A word or line delivered as read: a bad data bit of a word is the complement of the good one; a bad data symbol of a
line holds some other pattern, a free value; everything else is as it was stored (R200, R209). -/
def asRead (k : Nat) (good : List Byte) (bad : List Nat) (free : List Byte) : List Byte :=
  if 2 ^ 42 ≤ k then good.mapIdx (fun i b => if bad.contains (i / 2) then free.getD i 0 else b)
  else good.mapIdx (fun i b => b ^^^ badMask bad (8 * i))

/-- Bits of a word with its check bits, or symbols of a line with its check symbols (R200, R209). -/
def codePositions (k : Nat) : Nat := if 2 ^ 42 ≤ k then 35 else 72

/-- Reads one word or line in error: any of a lost stack is uncorrectable (R213); else by its bad positions: one is
corrected; two are uncorrectable; three or more leave the outcome open, a free value (R200, R209). A miscorrection is
counted at a position that is free too, since the spec names none, and brings free data. -/
def State.meet (s : State) (k : Nat) : State × Found :=
  if 2 ^ 42 ≤ k && s.stackLost ((k - 2 ^ 42) / 2 ^ 30) then (s.uncorrectable k, .bad)
  else match mget [] s.bad k with
  | [] => (s, .good)
  | [pos] => (s.correct k pos, .good)
  | [_, _] => (s.uncorrectable k, .bad)
  | bad =>
    let (what, s) := s.fresh Config.manyBad
    let (data, s) := s.fresh Config.wrongData
    let (pos, s) := s.fresh Config.wrongData
    let span := s.errSpan k
    let free := leBytes span.2 data.toNat
    if what = 0 then (s.uncorrectable k, .bad)
    else if what = 1 then (s.correct k (pos.toNat % codePositions k), .wrong free true)
    else (s, .wrong (asRead k (memRead s.mem span.1 span.2) bad free) false)

/-- The words or lines in error that a range of physical addresses touches: those listed, and every line of a lost
stack. -/
def State.errKeys (s : State) (a n : Nat) : List Nat :=
  if n = 0 || (s.bad.isEmpty && s.lostStacks = 0) then []
  else
    let g := if nearBase ≤ a then 8 else 64
    ((List.range ((a + n - 1) / g - a / g + 1)).map (fun i => s.errKey ((a / g + i) * g))).filter
      (fun k => !(mget [] s.bad k).isEmpty || (2 ^ 42 ≤ k && s.stackLost ((k - 2 ^ 42) / 2 ^ 30)))

/-- Replaces what a read delivers by the wrong data of a word or line. -/
def State.overlay (s : State) (a : Nat) (bs : List Byte) (k : Nat) (data : List Byte) : List Byte :=
  let (b, n) := s.errSpan k
  bs.mapIdx (fun i v => if b ≤ a + i && a + i < b + n then data.getD (a + i - b) v else v)

/-- What a reader of the module sees of a range: writes that wait for a snoop, all of them to the ring, come before its
read (R210, R398). -/
def State.waited (s : State) (a : Nat) (bs : List Byte) : List Byte :=
  if s.snoopWait.isEmpty || nearBase ≤ a then bs
  else s.snoopWait.foldl (fun bs w =>
    bs.mapIdx (fun i v => if w.2.1 ≤ a + i && a + i < w.2.1 + w.2.2.length then w.2.2.getD (a + i - w.2.1) v else v)) bs

/-- Reads n bytes at a physical address: the bytes, or none where a word or line is uncorrectable (R230). -/
def State.readPhys (s : State) (a n : Nat) : State × Option (List Byte) :=
  (s.errKeys a n).foldl (fun acc k =>
    let (s', f) := acc.1.meet k
    match f, acc.2 with
    | .good, r => (s', r)
    | .bad, _ => (s', none)
    | .wrong d _, some bs => (s', some (s'.overlay a bs k d))
    | .wrong _ _, none => (s', none)) (s, some (s.waited a (memRead s.mem a n)))

/-- A granted write closes the open merge windows of the stacked-SRAM lines it touches (R205). -/
def State.closeWindows (s : State) (a n : Nat) : State :=
  let c := (a - stackedBase) / stackedSize
  let x := s.stack c
  if a < stackedBase || x.windows.isEmpty then s
  else
    let lo := (a - stackedBase) % stackedSize / 128
    let hi := ((a - stackedBase) % stackedSize + n - 1) / 128
    let shut := x.windows.map (fun w => if lo ≤ w.line && w.line ≤ hi then { w with isOpen := false } else w)
    s.setStack c { x with windows := shut.filter (fun w => w.isOpen || !w.granted) }

/-- The bytes of a store that fall in each aligned piece of g bytes: the piece's number, where they start, the bytes. -/
def piecesOf (g a : Nat) (bs : List Byte) : List (Nat × Nat × List Byte) :=
  if bs.isEmpty then []
  else (List.range ((a + bs.length - 1) / g - a / g + 1)).map (fun i =>
    let b := max a ((a / g + i) * g)
    (a / g + i, b, (bs.drop (b - a)).take ((a / g + i + 1) * g - b)))

/-- Stores bytes where no stack is lost: the words and lines they touch hold good data and check bits afterwards. -/
def State.storeGood (s : State) (a : Nat) (bs : List Byte) : State :=
  { s with
    mem := memWrite s.mem a bs
    bad := (s.errKeys a bs.length).foldl (fun m k => mset [] m k []) s.bad }.closeWindows a bs.length

/-- Stores bytes at a physical address: whole words or lines, or parts whose check has been made. A write to a line of a
lost stack is discarded and reported as uncorrectable (R213). -/
def State.storeNow (s : State) (a : Nat) (bs : List Byte) : State :=
  if s.lostStacks = 0 || nearBase ≤ a then s.storeGood a bs
  else (piecesOf 64 a bs).foldl (fun s x =>
    if s.stackLost (s.ringLoc x.2.1).1 then s.uncorrectable (s.errKey x.2.1) else s.storeGood x.2.1 x.2.2) s

/-- The ring lines of a range that the host caches (R398). -/
def State.cachedLines (s : State) (a n : Nat) : List Nat :=
  if nearBase ≤ a || s.snoop.isEmpty || n = 0 then []
  else ((List.range ((a + n - 1) / 64 - a / 64 + 1)).map (a / 64 + ·)).filter (s.snoop.contains ·)

/-- Stores bytes; the part in a line the host caches waits for its back-invalidation (R398). -/
def State.store (s : State) (a : Nat) (bs : List Byte) : State :=
  let held := s.cachedLines a bs.length
  if held.isEmpty then s.storeNow a bs
  else (piecesOf 64 a bs).foldl (fun s x =>
    if held.contains x.1 then { s with snoopWait := s.snoopWait ++ [x] } else s.storeNow x.2.1 x.2.2) s

/-- The words or lines in error that a write meets: those it covers in part, and every line of a lost stack. -/
def State.metByWrite (s : State) (a n : Nat) : List Nat :=
  (s.errKeys a n).filter (fun k =>
    let (b, m) := s.errSpan k
    !(a ≤ b && b + m ≤ a + n) || (2 ^ 42 ≤ k && s.stackLost ((k - 2 ^ 42) / 2 ^ 30)))

/-- The reads of a write's merges: the state after them, and the words or lines that refuse. Wrong data that a read
delivers without an indication is what the write merges with. -/
def State.mergeReads (s : State) (ks : List Nat) : State × List Nat :=
  ks.foldl (fun acc k =>
    let (s', f) := acc.1.meet k
    match f with
    | .bad => (s', acc.2 ++ [k])
    | .good => (s', acc.2)
    | .wrong d _ => ({ s' with mem := memWrite s'.mem (s'.errSpan k).1 d, bad := mset [] s'.bad k [] }, acc.2)) (s, [])

/-- Writes bytes at a physical address: a word or line written in part is read and merged, and where it is
uncorrectable it alone stays as it was (R202, R207, R210). The truth value is false where a word or line refused. -/
def State.writePhys (s : State) (a : Nat) (bs : List Byte) : State × Bool :=
  let r := s.mergeReads (s.metByWrite a bs.length)
  if r.2.isEmpty then (r.1.store a bs, true)
  else ((piecesOf (if nearBase ≤ a then 8 else 64) a bs).foldl (fun s x =>
    if r.2.contains (s.errKey x.2.1) then s else s.store x.2.1 x.2.2) r.1, false)

/-- Fills n bytes with zeros and valid check bits (R221, R222). -/
def State.fillZero (s : State) (a n : Nat) : State :=
  { s with
    mem := memZero s.mem a n
    bad := s.bad.filter (fun e =>
      let (b, m) := s.errSpan e.1
      !(a ≤ b && b + m ≤ a + n)) }

end Sys2Proof.Machine
end

