-- ==== Sys2Proof/Machine/Bundle.lean ====
section
/-!
DEFINITION. Bundles (R71, R72): the operations of the four slots with their operands, and their decoding from the 128
bits of an instruction-store entry (Tables 2 to 6 of "The Core").
-/
namespace Sys2Proof.Machine

/-- Scalar operations with two register sources. -/
inductive AluOp where
  | add | sub | and | or | xor | shl | shr | mul
deriving DecidableEq, Repr

/-- The control slot (Table 3). -/
inductive CtlOp where
  | nop
  | alu (op : AluOp) (d a b : SReg)
  | addi (d a : SReg) (imm : BitVec 12)
  | li (d : SReg) (imm : BitVec 16)
  | lui (d : SReg) (imm : BitVec 16)
  | setp (cond : BitVec 2) (pd : PReg) (a b : SReg)
  | plog (op : BitVec 2) (pd pa pb : PReg)
  | br (target : BitVec 12)
  | loop (ln : BitVec 2) (src : Bool) (count : BitVec 7) (last : BitVec 12)
  | ldw (d a : SReg) (imm : BitVec 12)
  | stw (src a : SReg) (imm : BitVec 12)
  | dwr (table : Bool) (index : BitVec 8) (word : BitVec 3) (src : SReg)
  | movvs (d : SReg) (va : VReg) (lane : BitVec 7)
  | movls (d : SReg) (ln : BitVec 2)
  | bpost (sys : Bool) (id : BitVec 8)
  | bwait (sys : Bool) (id : BitVec 8)
  | bsync (sys : Bool) (id : BitVec 8)
  | waits (mask : BitVec 4)
  | waita
  | halt
  /-- an opcode Table 3 does not list, or a reserved field that is not zero (R76) -/
  | bad (opcode : BitVec 6)
deriving DecidableEq, Repr

/-- The move slot (Table 4). -/
inductive MoveOp where
  | nop
  | strm (d : BitVec 8) (ch : BitVec 2) (sa sb : SReg)
  | vld (vd : VReg) (sa : SReg) (imm : BitVec 11)
  | vst (vs : VReg) (sa : SReg) (imm : BitVec 11)
  | bad (opcode : BitVec 6)
deriving DecidableEq, Repr

/-- Vector operations on two vectors. -/
inductive VBin where
  | add | sub | mul | max | min
deriving DecidableEq, Repr

/-- Vector operations on one vector that need no scalar. -/
inductive VUn where
  | abs | neg | exp | log | rsqrt | tanh | rsum | rmax
deriving DecidableEq, Repr

/-- The vector slot (Table 5); t is the lane type. -/
inductive VecOp where
  | nop
  | bin (op : VBin) (vd va vb : VReg) (t : BitVec 2)
  | fma (vd va vb vc : VReg) (t : BitVec 2)
  | un (op : VUn) (vd va : VReg) (t : BitVec 2)
  | bcast (vd : VReg) (a : SReg) (t : BitVec 2)
  | cvt (vd va : VReg) (dst : BitVec 4) (t : BitVec 2)
  | cmp (vd va vb : VReg) (cond : BitVec 5) (t : BitVec 2)
  | sel (vd va vb vc : VReg)
  | any (pd : PReg) (va : VReg)
  | bad (opcode : BitVec 6)
deriving DecidableEq, Repr

/-- The array slot (R98). -/
inductive ArrOp where
  | nop
  | arun (d : BitVec 6) (sa sb sc : SReg)
  | bad (opcode : BitVec 6)
deriving DecidableEq, Repr

/-- A bundle: each slot's guard and operation (R71, R72). -/
structure Bundle where
  cg : Guard := 0
  c : CtlOp := .nop
  mg : Guard := 0
  m : MoveOp := .nop
  vg : Guard := 0
  v : VecOp := .nop
  ag : Guard := 0
  a : ArrOp := .nop
deriving DecidableEq, Repr

/-- Bits lo to lo + w − 1 of a slot. -/
def field (x : Word) (lo w : Nat) : BitVec w := x.extractLsb' lo w

/-- A field that must be zero. -/
def isZero (x : Word) (lo w : Nat) : Bool := x.extractLsb' lo w == 0#w

/-- The opcode of a slot (R71). -/
def opcodeOf (x : Word) : BitVec 6 := field x 22 6

/-- The guard of a slot (R72). -/
def guardOf (x : Word) : Guard := field x 28 4

/-- An operation when the bits Table 3 or 4 leaves unlisted are zero, else the reserved-field error (R76). -/
def ctlIf (ok : Bool) (x : Word) (op : CtlOp) : CtlOp := if ok then op else .bad (opcodeOf x)

def decodeAlu (x : Word) (op : AluOp) : CtlOp := ctlIf (isZero x 0 7) x (.alu op (field x 17 5) (field x 12 5) (field x 7 5))

/-- The control slot's operation (Table 3). Bits [18:17] of LOOP with SRC = 1 belong to no operand and are reserved
(log entry 23). -/
def decodeCtl (x : Word) : CtlOp :=
  match (opcodeOf x).toNat with
  | 0x00 => ctlIf (isZero x 0 22) x .nop
  | 0x01 => decodeAlu x .add
  | 0x02 => decodeAlu x .sub
  | 0x03 => decodeAlu x .and
  | 0x04 => decodeAlu x .or
  | 0x05 => decodeAlu x .xor
  | 0x06 => decodeAlu x .shl
  | 0x07 => decodeAlu x .shr
  | 0x08 => .addi (field x 17 5) (field x 12 5) (field x 0 12)
  | 0x09 => ctlIf (isZero x 16 1) x (.li (field x 17 5) (field x 0 16))
  | 0x0A => ctlIf (isZero x 16 1) x (.lui (field x 17 5) (field x 0 16))
  | 0x0B => decodeAlu x .mul
  | 0x10 => ctlIf (isZero x 0 7) x (.setp (field x 20 2) (field x 17 3) (field x 12 5) (field x 7 5))
  | 0x11 => ctlIf (isZero x 15 2 && isZero x 10 2 && isZero x 0 7) x (.plog (field x 20 2) (field x 17 3) (field x 12 3) (field x 7 3))
  | 0x18 => ctlIf (isZero x 12 10) x (.br (field x 0 12))
  | 0x19 => ctlIf (isZero x 19 1 || isZero x 17 2) x (.loop (field x 20 2) (x.getLsbD 19) (field x 12 7) (field x 0 12))
  | 0x1A => .ldw (field x 17 5) (field x 12 5) (field x 0 12)
  | 0x1B => .stw (field x 17 5) (field x 12 5) (field x 0 12)
  | 0x1C => ctlIf (isZero x 0 5) x (.dwr (x.getLsbD 21) (field x 13 8) (field x 10 3) (field x 5 5))
  | 0x1D => ctlIf (isZero x 7 5) x (.movvs (field x 17 5) (field x 12 5) (field x 0 7))
  | 0x1E => ctlIf (isZero x 14 3 && isZero x 0 12) x (.movls (field x 17 5) (field x 12 2))
  | 0x20 => ctlIf (isZero x 9 13) x (.bpost (x.getLsbD 8) (field x 0 8))
  | 0x21 => ctlIf (isZero x 9 13) x (.bwait (x.getLsbD 8) (field x 0 8))
  | 0x22 => ctlIf (isZero x 9 13) x (.bsync (x.getLsbD 8) (field x 0 8))
  | 0x24 => ctlIf (isZero x 4 18) x (.waits (field x 0 4))
  | 0x25 => ctlIf (isZero x 0 22) x .waita
  | 0x3F => ctlIf (isZero x 0 22) x .halt
  | _ => .bad (opcodeOf x)

def moveIf (ok : Bool) (x : Word) (op : MoveOp) : MoveOp := if ok then op else .bad (opcodeOf x)

/-- The move slot's operation (Table 4). DESIGN CHOICE (log entry 128): bits that a row of Table 4 does not list are
reserved, as Table 3 has them. -/
def decodeMove (x : Word) : MoveOp :=
  match (opcodeOf x).toNat with
  | 0x00 => moveIf (isZero x 0 22) x .nop
  | 0x01 => moveIf (isZero x 0 2) x (.strm (field x 14 8) (field x 12 2) (field x 7 5) (field x 2 5))
  | 0x02 => moveIf (isZero x 11 1) x (.vld (field x 17 5) (field x 12 5) (field x 0 11))
  | 0x03 => moveIf (isZero x 11 1) x (.vst (field x 17 5) (field x 12 5) (field x 0 11))
  | _ => .bad (opcodeOf x)

/-- The vector slot's operation (Table 5); operand bits a row does not name are ignored (R94). -/
def decodeVec (x : Word) : VecOp :=
  let d := field x 17 5
  let a := field x 12 5
  let b := field x 7 5
  let c := field x 2 5
  let t := field x 0 2
  match (opcodeOf x).toNat with
  | 0x00 => .nop
  | 0x01 => .bin .add d a b t
  | 0x02 => .bin .sub d a b t
  | 0x03 => .bin .mul d a b t
  | 0x04 => .fma d a b c t
  | 0x05 => .bin .max d a b t
  | 0x06 => .bin .min d a b t
  | 0x07 => .un .abs d a t
  | 0x08 => .un .neg d a t
  | 0x09 => .bcast d a t
  | 0x0A => .cvt d a (field x 2 4) t
  | 0x10 => .un .exp d a t
  | 0x11 => .un .log d a t
  | 0x12 => .un .rsqrt d a t
  | 0x13 => .un .tanh d a t
  | 0x18 => .un .rsum d a t
  | 0x19 => .un .rmax d a t
  | 0x1C => .cmp d a b c t
  | 0x1D => .sel d a b c
  | 0x1E => .any (field x 17 3) a
  | _ => .bad (opcodeOf x)

/-- The array slot's operation (R98). DESIGN CHOICE (log entry 128): bits that belong to no operand are reserved. -/
def decodeArr (x : Word) : ArrOp :=
  match (opcodeOf x).toNat with
  | 0x00 => if isZero x 0 22 then .nop else .bad 0
  | 0x01 => if isZero x 0 1 then .arun (field x 16 6) (field x 11 5) (field x 6 5) (field x 1 5) else .bad 1
  | _ => .bad (opcodeOf x)

/-- The bundle of 128 bits (Table 2). -/
def decodeBundle (x : BitVec 128) : Bundle :=
  let c := x.extractLsb' 0 32
  let m := x.extractLsb' 32 32
  let v := x.extractLsb' 64 32
  let a := x.extractLsb' 96 32
  { cg := guardOf c, c := decodeCtl c, mg := guardOf m, m := decodeMove m, vg := guardOf v, v := decodeVec v,
    ag := guardOf a, a := decodeArr a }

end Sys2Proof.Machine
end

