-- ==== Sys2Proof/Machine/Formats.lean ====
section
/-!
DEFINITION. The format codes (R159), conversion between them with its limits and counts (R164 to R171), and the glaze:
how a glazed element is read (R162, R173, R174, R179) and how a block is written (R175 to R180).
-/
namespace Sys2Proof.Machine

/-- Bytes per element of a format code (R159, Table 1). -/
def fmtBytes (code : Nat) : Nat :=
  if code = 0 ∨ code = 7 then 4 else if code = 1 ∨ code = 2 then 2 else 1

/-- Codes 0xB to 0xF are reserved (R159). -/
def fmtReserved (code : Nat) : Bool := decide (0xA < code)

/-- Codes 0x8 to 0xA are glazed. -/
def fmtGlazed (code : Nat) : Bool := decide (8 ≤ code ∧ code ≤ 0xA)

/-- Floating-point codes, plain and glazed (R113, first row of Table 13). -/
def fmtFloat (code : Nat) : Bool := decide (code ≤ 4 ∨ code = 8 ∨ code = 9)

/-- The floating-point format of a code, its element format where it is glazed. -/
def fmtOf (code : Nat) : FFormat :=
  if code = 0 then fp32Fmt else if code = 1 then bf16Fmt else if code = 2 then fp16Fmt
  else if code = 3 ∨ code = 8 then e4m3Fmt else e5m2Fmt

/-- The block size of a GLAZE_BLK code (R102). -/
def glazeBlock (code : Nat) : Nat := 16 * 2 ^ code

/-- The allowed conversions of the stream engine (R113, Table 13). -/
def convAllowed (src dst : Nat) : Bool :=
  if fmtFloat src then decide (dst ≤ 4 ∨ (8 ≤ dst ∧ dst ≤ 0xA))
  else if src = 0xA then decide (dst ≤ 4 ∨ dst = 0xA)
  else src == dst

/-- What a conversion counts or raises (R169, Table 3). -/
inductive ConvEvent where
  | none | nan | sats | ovf16 | ovfOther
deriving DecidableEq, Repr

/-- The largest finite FP32 value: mantissa and exponent. -/
def fp32MaxM : Nat := 2 ^ 24 - 1
def fp32MaxE : Int := 104

/-- Does a finite value lie beyond the FP32 maximum? -/
def beyondFp32 : FVal → Bool
  | .fin _ m e => (FVal.fin false fp32MaxM fp32MaxE).lt (.fin false m e)
  | _ => false

/-- Conversion of an integer result to a byte or word with saturation (R170). -/
def satInt (lo hi : Int) (w : Nat) (v : Int) : Nat × Bool :=
  let c := if v < lo then lo else if hi < v then hi else v
  ((BitVec.ofInt w c).toNat, decide (v < lo ∨ hi < v))

/-- Convert a value to a plain integer format of w bits: NaN gives 0, infinities saturate (R167, R170). -/
def convInt (lo hi : Int) (w : Nat) : FVal → Nat × ConvEvent
  | .nan => (0, .nan)
  | .inf s => ((BitVec.ofInt w (if s then lo else hi)).toNat, .sats)
  | .fin s m e =>
    let (x, sat) := satInt lo hi w (roundInt s m e)
    (x, if sat then .sats else .none)

/-- Convert a value to a plain format code (R164 to R171, Table 3); `e5Inf` is E5M2_INF. Code 7 is VCVT's INT32, which
counts nothing. -/
def convert (code : Nat) (e5Inf : Bool) (v : FVal) : Nat × ConvEvent :=
  if code = 5 then convInt (-128) 127 8 v
  else if code = 6 then convInt 0 255 8 v
  else if code = 7 then
    match convInt (-2147483648) 2147483647 32 v with
    | (x, .nan) => (x, .nan)
    | (x, _) => (x, .none)
  else
    let F := fmtOf code
    let carriesInf : Bool := decide (code ≤ 2) || (code == 4 && e5Inf)
    match v with
    | .nan => (F.nanBits, .nan)
    | .inf s => if carriesInf then (F.infBits s, .none) else (F.maxBits s, .sats)
    | .fin s m e =>
      match F.encodeFin s m e with
      | some x => (x, .none)
      | none =>
        if carriesInf then (F.infBits s, if code = 2 then .ovf16 else .ovfOther) else (F.maxBits s, .sats)

/-- Add an event of Table 3 to the counters of a tag. -/
def Counts.event (c : Counts) : ConvEvent → Counts
  | .none => c
  | .nan => c
  | .sats => { c with sats := c.sats + 1 }
  | .ovf16 => { c with ovf16 := c.ovf16 + 1 }
  | .ovfOther => { c with ovfOther := c.ovfOther + 1 }

/-- Saturating sum of two sets of counts at the widths of Table 6 (R188). -/
def Counts.merge (a b : Counts) : Counts where
  crumbs := min (a.crumbs + b.crumbs) (2 ^ 32 - 1)
  satBlocks := min (a.satBlocks + b.satBlocks) (2 ^ 32 - 1)
  sats := min (a.sats + b.sats) (2 ^ 32 - 1)
  ovf16 := min (a.ovf16 + b.ovf16) 0xFFFF
  ovfOther := min (a.ovfOther + b.ovfOther) 0xFFFF
  range := min (a.range + b.range) 0xFFFF
  under := min (a.under + b.under) 0xFFFF

/-! ### Reading elements -/

/-- The value of an element byte pattern of a plain code; integer codes give their integer. -/
def plainValue (code : Nat) (x : Nat) : FVal :=
  if code = 5 then .ofInt (BitVec.ofNat 8 x).toInt
  else if code = 6 then .ofInt (x % 256)
  else if code = 7 then .ofInt (BitVec.ofNat 32 x).toInt
  else (fmtOf code).decode x

/-- The element value inside a glazed block, before the glaze: E4M3, E5M2 or INT8 (R162). -/
def elementValue (code : Nat) (x : Nat) : FVal :=
  if code = 0xA then .ofInt (BitVec.ofNat 8 x).toInt else (fmtOf code).decode x

/-- A block is bare: glaze 0x00 outside MX-compatible mode (R173, R179). -/
def bareBlock (mx : Bool) (g : Nat) : Bool := !mx && g == 0

/-- The value of a glazed element (R162, R173, R174, R179). -/
def glazedValue (code : Nat) (mx : Bool) (g x : Nat) : FVal :=
  if g = 0xFF then .nan
  else if bareBlock mx g then .fin false 0 0
  else (elementValue code x).scale ((g : Int) - 127)

/-- A glazed source element taken into FP32 (R168): rounded into FP32; a finite value beyond the FP32 range stays a
finite value, which the destination counts once. -/
def glazedSource (code : Nat) (mx : Bool) (g x : Nat) : FVal :=
  match glazedValue code mx g x with
  | .fin s m e =>
    match fp32Fmt.encodeFin s m e with
    | some w => fp32Fmt.decode w
    | none => .fin s m e
  | v => v

/-! ### Writing a block -/

/-- emax and elmax of R175. -/
def elemMaxExp (code : Nat) : Int := if code = 8 then 8 else if code = 9 then 15 else 6
def elemMax (code : Nat) : Nat := if code = 8 then 448 else if code = 9 then 57344 else 127

/-- "round" of R175: to the element format with an unbounded exponent: mantissa and exponent. -/
def roundElem (code : Nat) (m : Nat) (e : Int) : Nat × Int :=
  if code = 0xA then ((roundInt false m e).natAbs, 0) else roundTo ((fmtOf code).manBits + 1) (fmtOf code).minExp m e

/-- The element byte of a magnitude already rounded and within elmax. -/
def elemBits (code : Nat) (neg : Bool) (m : Nat) (e : Int) : Nat :=
  if m = 0 then 0
  else if code = 0xA then (BitVec.ofInt 8 (if neg then -((m * 2 ^ e.toNat : Nat) : Int) else (m * 2 ^ e.toNat : Nat))).toNat
  else ((fmtOf code).encodeFin neg m e).getD 0

/-- The largest element magnitude, as a byte without sign at or below x, whose scaled value is within FP32 (R175). -/
def capElem (code : Nat) (g : Int) : Nat → Nat
  | 0 => 0
  | x + 1 => if beyondFp32 ((elementValue code (x + 1)).scale (g - 127)) then capElem code g x else x + 1

/-- What a block write gives: glaze, element bytes, counts, and whether it met a NaN. -/
structure BlockOut where
  glaze : Nat
  elems : List Nat
  counts : Counts
  nan : Bool
deriving DecidableEq, Repr

/-- A source value of a block with infinities (and glazed values beyond FP32, R168) taken as ±FP32 maximum. -/
def blockSource : FVal → Bool × Bool × Nat × Int
  | .nan => (false, false, 0, 0)
  | .inf s => (true, s, fp32MaxM, fp32MaxE)
  | .fin s m e => if beyondFp32 (.fin s m e) then (true, s, fp32MaxM, fp32MaxE) else (false, s, m, e)

/-- One element of a block at glaze g (R175, R176, R180): byte, event, and whether its source was non-zero. -/
def blockElem (code : Nat) (mx e5Inf : Bool) (g : Int) (x : FVal) : Nat × ConvEvent × Bool :=
  let (wasInf, s, m, e) := blockSource x
  let (qm, qe) := roundElem code m (e - (g - 127))
  let big := (FVal.fin false (elemMax code) 0).lt (.fin false qm qe)
  if big && mx && code == 9 && e5Inf then ((fmtOf 9).infBits s, .ovfOther, true)
  else
    let mag := if big then elemBits code false (elemMax code) 0 else elemBits code false qm qe
    let capped := capElem code g mag
    let byte := if capped = 0 then 0
      else if s then (if code = 0xA then (256 - capped) % 256 else 128 + capped) else capped
    let sat := wasInf || (big && mx) || capped != mag
    (byte, if sat then .sats else .none, m != 0)

/-- Write one block of values in a glazed format (R175 to R177; MX-compatible mode R180). -/
def writeBlock (code : Nat) (mx e5Inf : Bool) (xs : List FVal) : BlockOut :=
  if xs.any FVal.isNan then ⟨0xFF, xs.map fun _ => 0x7F, {}, true⟩
  else
    let src := xs.map blockSource
    let a := src.foldl (fun (acc : Nat × Int) t =>
      if (FVal.fin false acc.1 acc.2).lt (.fin false t.2.2.1 t.2.2.2) then (t.2.2.1, t.2.2.2) else acc) (0, 0)
    if a.1 = 0 then ⟨0, xs.map fun _ => 0, {}, false⟩
    else
      let e := (bitLen a.1 : Int) - 1 + a.2
      let g0 := e - elemMaxExp code + 127
      let g :=
        if mx then max g0 0
        else
          let (rm, re) := roundElem code a.1 (a.2 - (g0 - 127))
          max (if (FVal.fin false (elemMax code) 0).lt (.fin false rm re) then g0 + 1 else g0) 1
      let els := xs.map (blockElem code mx e5Inf g)
      let bytes := els.map Prod.fst
      let crumbs := min 15 (els.countP fun t => t.1 == 0 && t.2.2)
      let base : Counts := { crumbs := crumbs, satBlocks := if crumbs = 15 then 1 else 0 }
      let counts := els.foldl (fun c t => c.event t.2.1) base
      if !mx && bytes.all (· == 0) then ⟨0, bytes, counts, false⟩ else ⟨g.toNat, bytes, counts, false⟩

end Sys2Proof.Machine
end

