-- ==== Sys2Proof/Machine/Defects.lean ====
section
/-!
DEFINITION. The defect map (R40, R42 to R46, R59, Table 7 of "Faults, Partners and Securing State"): entries as words,
lost clusters, failed routers, and the remap of a core to its spare.
-/
namespace Sys2Proof.Machine

/-- KIND, CAUSE and LOCATION of an entry. -/
def defKind (d : Word) : Nat := bits d.toNat 29 3
def defCause (d : Word) : Nat := bits d.toNat 24 5
def defLoc (d : Word) : Nat := bits d.toNat 0 17

/-- An entry from its parts. -/
def defEntry (kind cause loc : Nat) : Word := BitVec.ofNat 32 (kind * 2 ^ 29 + cause * 2 ^ 24 + loc)

/-- The cluster number of a CORE, ROUTER or CLUSTER entry. -/
def defCluster (d : Word) : Nat := bits d.toNat 0 6 * 40 + bits d.toNat 6 6

/-- The physical core of a CORE or ROUTER entry. -/
def defCore (d : Word) : Nat := defCluster d * 17 + bits d.toNat 12 5

/-- The LOCATION of a physical core. -/
def coreLoc (p : Nat) : Nat := p / 17 / 40 + p / 17 % 40 * 64 + p % 17 * 4096

/-- A CORE or ROUTER entry. -/
def defIsCore (d : Word) : Bool := defKind d = 1 || defKind d = 2

/-- The defect map: factory and soft entries (R42). -/
def State.defectMap (s : State) : List Word := s.fuses.read.defects ++ s.flash.softDefects

/-- The defective physical cores a map names in a cluster. -/
def badCores (m : List Word) (c : Nat) : List Nat :=
  ((m.filter (fun d => defIsCore d && defCluster d = c)).map defCore).eraseDups

/-- A lost cluster (R46). -/
def clusterLost (m : List Word) (c : Nat) : Bool :=
  2 ≤ (badCores m c).length || m.any (fun d => defKind d = 3 && defCluster d = c)

/-- A region with a REGION entry. -/
def regionBarred (m : List Word) (r : Nat) : Bool := m.any (fun d => defKind d = 4 && defLoc d % 512 = r)

/-- The index a cluster's spare carries, plus 1; 0 where nothing is remapped (R43). -/
def carriedIn (m : List Word) (c : Nat) : Nat :=
  match badCores m c with
  | [p] => if p % 17 = 16 || clusterLost m c then 0 else p % 17 + 1
  | _ => 0

/-- A router that must carry nothing: of kind ROUTER, or in a cluster whose routers are marked failed (R40, R59). -/
def routerBad (m : List Word) (p : Nat) : Bool :=
  m.any (fun d => (defKind d = 2 && defCore d = p) || (defKind d = 3 && d.getLsbD 12 && defCluster d = p / 17))

/-! ### Adding a soft entry (R59) -/

/-- The region that holds what a CORE, ROUTER or CLUSTER entry names. -/
def defRegion (d : Word) : Nat := clusterRegion (defCluster d)

/-- LOCATION of the events of family 0x0A: the region, PREF or stack that an entry names (R511). -/
def defEventLoc (d : Word) : Nat := if defKind d ≤ 3 then defRegion d else bits d.toNat 0 9

/-- Adds an entry to the soft list, in place of those that `gone` names, and logs it. -/
def State.softAdd (s : State) (d : Word) (gone : Word → Bool) : State :=
  let s := { s with flash := { s.flash with softDefects := s.flash.softDefects.filter (fun e => !gone e) ++ [d] } }
  s.event 0x0A01 clsNone (defEventLoc d) (defCause d) d.toNat

/-- A CLUSTER entry, with its ROUTERS_FAILED mark. -/
def clusterEntry (cause c : Nat) (mark : Bool) : Word :=
  defEntry 3 cause (c / 40 + c % 40 * 64 + if mark then 4096 else 0)

/-- Adds a soft defect entry under the rules of R59; none where there is nothing to do. -/
def State.addDefect (s : State) (d : Word) : Option State :=
  let m := s.defectMap
  let soft := s.flash.softDefects
  let c := defCluster d
  let inCluster (e : Word) : Bool := defKind e ≤ 3 && defCluster e = c
  let marked := m.any (fun e => defKind e = 3 && defCluster e = c && e.getLsbD 12)
  let anyRouter := m.any (fun e => defKind e = 2 && defCluster e = c)
  if defKind d ≤ 3 && regionBarred m (defRegion d) then none
  else
    match defKind d with
    | 3 =>
      let mark := d.getLsbD 12 || anyRouter
      if m.any (fun e => defKind e = 3 && defCluster e = c) && (!mark || marked) then none
      else some (s.softAdd (clusterEntry (defCause d) c (mark || marked)) inCluster)
    | 4 => if regionBarred m (defLoc d % 512) then none
      else some (s.softAdd d (fun e => defKind e ≤ 3 && defRegion e = defLoc d % 512))
    | 5 => if m.any (fun e => defKind e = 5 && defLoc e = defLoc d) then none else some (s.softAdd d (fun _ => false))
    | 6 => if m.any (fun e => defKind e = 6 && defLoc e = defLoc d) then none else some (s.softAdd d (fun _ => false))
    | k =>
      let router := k = 2
      if clusterLost m c then
        if !router || marked then none
        else
          let cause := match soft.find? (fun e => defKind e = 3 && defCluster e = c) with
            | some e => defCause e
            | none => 13
          some (s.softAdd (clusterEntry cause c true) inCluster)
      else
        match badCores m c with
        | [] => some (s.softAdd d (fun _ => false))
        | [p] =>
          if p != defCore d then some (s.softAdd (clusterEntry 13 c (anyRouter || router)) inCluster)
          else if !router || anyRouter then none
          else some (s.softAdd d inCluster)
        | _ => none

/-- The controller firmware adds an entry, if there is anything to do. -/
def State.firmwareDefect (s : State) (kind cause loc : Nat) : State := (s.addDefect (defEntry kind cause loc)).getD s

end Sys2Proof.Machine
end

