-- ==== Sys2Proof/Machine/FuseOps.lean ====
section
/-!
DEFINITION. What a fuse request's operations do to the bank (R456, R458): every operation raises values only; a record
that is interrupted or fails its read-back has blown some of its bits.
-/
namespace Sys2Proof.Machine

/-- The key hash of a slot. -/
def FuseBank.slot (b : FuseBank) (i : Nat) : Option (BitVec 512) :=
  if i = 0 then b.slot0 else if i = 1 then b.slot1 else if i = 2 then b.slot2 else if i = 3 then b.slot3 else none

def FuseBank.setSlot (b : FuseBank) (i : Nat) (v : Option (BitVec 512)) : FuseBank :=
  if i = 1 then { b with slot1 := v } else if i = 2 then { b with slot2 := v }
  else if i = 3 then { b with slot3 := v } else b

/-- The data of a SLOT record, as the bank holds a hash. -/
def FuseOp.hash (o : FuseOp) : BitVec 512 := BitVec.ofNat 512 (leNat o.data)

/-- A thermometer count raised to a new value, of which the bits of a mask were blown. -/
def raiseCount (old : BitVec 7) (new : Nat) (mask : BitVec 512) : BitVec 7 :=
  if new ≤ old.toNat then old
  else BitVec.ofNat 7 (min 127 (old.toNat + (List.range (new - old.toNat)).countP (fun i => mask.getLsbD i)))

/-- One operation on the bank, of whose new bits those of a mask are blown (Table 2). -/
def FuseOp.blow (o : FuseOp) (mask : BitVec 512) (b : FuseBank) : FuseBank :=
  let bits3 := BitVec.ofNat 3 o.arg &&& BitVec.ofNat 3 mask.toNat
  if o.op = 1 then
    let v := (b.slot o.arg).getD 0 ||| (o.hash &&& mask)
    let done : BitVec 4 := if mask = BitVec.allOnes 512 then BitVec.ofNat 4 (2 ^ o.arg) else 0
    if (b.slot o.arg).isNone && v = 0 then b else { b.setSlot o.arg (some v) with whole := b.whole ||| done }
  else if o.op = 2 then
    if b.lifecycle.toNat < o.arg && mask.getLsbD 0 then { b with lifecycle := BitVec.ofNat 2 (min 3 o.arg) } else b
  else if o.op = 3 then { b with fwCount := raiseCount b.fwCount o.arg mask }
  else if o.op = 4 then { b with imageCount := raiseCount b.imageCount o.arg mask }
  else if o.op = 5 then { b with disables := b.disables ||| bits3 }
  else if o.op = 6 then { b with pairShared := b.pairShared || mask.getLsbD 0 }
  else if o.op = 7 then
    let value := BitVec.ofNat 2 (o.data.headD 0).toNat &&& BitVec.ofNat 2 (mask.toNat / 4)
    { b with
      policy := if o.arg % 2 = 1 then b.policy ||| value else b.policy
      lockPolicy := b.lockPolicy || bits3.getLsbD 0
      lockFreeze := b.lockFreeze || bits3.getLsbD 1 }
  else b

/-- Operations on the two fuses of every bit: both are blown (R452). -/
def FusePair.blow (p : FusePair) (f g : FuseBank → FuseBank) : FusePair := ⟨f p.one, g p.two⟩

/-- Whole operations, in record order. -/
def blowAll (ops : List FuseOp) (b : FuseBank) : FuseBank := ops.foldl (fun b o => o.blow (BitVec.allOnes 512) b) b

/-- The first k operations whole, and of the next one the bits of a mask. -/
def blowSome (ops : List FuseOp) (k : Nat) (mask : BitVec 512) (b : FuseBank) : FuseBank :=
  match ops[k]? with
  | none => blowAll ops b
  | some o => o.blow mask (blowAll (ops.take k) b)

/-- The first k records of the request whole, and of the next one the bits that two free masks name, one for each fuse of
a pair (R452, R458). -/
def State.blowPart (s : State) (k : Nat) : State :=
  let (one, s) := s.fresh Config.fuseMask
  let (two, s) := s.fresh Config.fuseMask
  { s with fuses := s.fuses.blow (blowSome s.fuseOps k one) (blowSome s.fuseOps k two) }

/-- A module reset in the middle of a request: some records are applied, the next in part (R458). -/
def State.stopFuses (s : State) : State :=
  if s.fuseOps.isEmpty then s
  else
    let (k, s) := s.fresh Config.fuseStop
    s.blowPart (k.toNat % s.fuseOps.length)

end Sys2Proof.Machine
end

