-- ==== Sys2Proof/Machine/Job.lean ====
section
/-!
DEFINITION. What every way of stopping a job shares: the loaded image's cores and ranges, the apply of transactions
(R382 to R385), class J and class M faults (R483 to R485) and the trap of a core (R115).
-/
namespace Sys2Proof.Machine

/-! ### The loaded image -/

/-- The physical cores the loaded image uses: those with a core block in PROGRAMS (R371). -/
def State.usedCores (s : State) : List Nat :=
  match s.image with
  | some im => im.programs.map (fun p => s.crefCore p.core)
  | none => []

/-- Ring bytes of a step-table range: base and length (R309). -/
def StepEntry.unique (e : StepEntry) : Bool := e.kind = 3

/-- The UNIQUE ranges of the loaded step table as (base, length) in bytes, in table order (R486). -/
def State.uniqueRanges (s : State) : List (Nat × Nat) :=
  (s.tables.filter (fun e => e.kind = 3)).map (fun e => (e.base * 4096, e.length * 4096))

/-- Whether the loaded image runs in steps (R299). -/
def State.hasPlan (s : State) : Bool := (s.image.bind (·.stepPlan)).isSome

/-- "No job" of the ladder: no core runs and PHASE is 0 (R431). -/
def State.noJob (s : State) : Bool :=
  !s.on .RES_STEP_STATE_PHASE && s.usedCores.all (fun p => s.get .CORE_STATUS_STATE p != 1)

/-- The base of the numerics area (R326). -/
def State.areaBase (s : State) : Nat := s.get .NUM_AREA_LO_ADDR + 2 ^ 32 * s.get .NUM_AREA_HI_ADDR

/-! ### Partner ports (R489) -/

/-- Whether a port's link stands between two identified modules: TRAINED, ACTIVE_WAIT or ACTIVE (R489). -/
def State.portUp (s : State) (n : Nat) : Bool :=
  let st := s.get .OPT_PORT_STATE_STATE n
  st = 4 || st = 6 || st = 7

/-- The ports whose peer is a given module (R489). -/
def State.portsTo (s : State) (m : Nat) : List Nat :=
  (List.range 160).filter (fun n => s.portUp n && s.on .OPT_PORT_PEER_VALID n && s.get .OPT_PORT_PEER_MODULE_ID n = m)

def State.partnerPorts (s : State) : List Nat := s.portsTo (s.get .RES_PAIR_PARTNER_ID)

/-- Bytes of the UNIQUE ranges. -/
def State.uniqueBytes (s : State) : Nat := (s.uniqueRanges.map (·.2)).sum

/-- This module's own tags as the exchange sends them (R490). -/
def State.ownTags (s : State) : PairTags where
  moduleId := BitVec.ofNat 14 (s.get .RES_MODULE_ID_MODULE_ID)
  serial := s.shadowBank.serial
  feedA := BitVec.ofNat 4 (s.get .RES_FEED_TAGS_FEED_A_TAG)
  feedB := BitVec.ofNat 4 (s.get .RES_FEED_TAGS_FEED_B_TAG)
  site := BitVec.ofNat 16 (s.get .RES_SITE_TAG_SITE_TAG)
  uniqueUnits := s.uniqueBytes / 4096

/-- A message goes to a module, on every port that leads to it; none where no port does. -/
def State.tell (s : State) (m : Nat) (msg : PartnerMsg) : State :=
  let ns := s.portsTo m
  if ns.isEmpty then s else { s with partnerOut := s.partnerOut ++ [(ns, msg)] }

/-- As a partner, this module reports a change of its own tags to the source that it hosts (R493). -/
def State.reportTags (s : State) : State :=
  if s.on .MNT_HOST_SRC_VALID then s.tell (s.get .MNT_HOST_SRC_MODULE_ID) (.tags s.ownTags) else s

/-- The pairing exchange with a module begins (R490). -/
def State.beginPairing (s : State) (c : Option Ctx) (m : Nat) (commit : Bool) : State :=
  ({ s with pairing := some ⟨c, m, commit⟩ } : State).tell m (.exchange s.ownTags)

/-! ### Profiles and the cap (R22 to R24, R29, R436, R451) -/

/-- Power cap of a profile in W (Table 4 of "The PW40 Module"). -/
def profileCap (p : Nat) : Nat := if p = 0 then 25000 else if p = 2 then 17000 else 21000

/-- Puts a cap in force; a falling cap sets the cap level to 15 at once (R436). -/
def State.setCap (s : State) (w : Nat) : State :=
  let s' := s.put .PWR_CAP_CAP_W w
  if w < s.get .PWR_CAP_CAP_W then s'.put .PWR_CAP_LEVEL 15 else s'

/-- Scrub and patrol passes in force (R22, R223, R224). -/
def State.setScrub (s : State) : State :=
  let guard := s.get .PWR_CAP_PROFILE = 2
  let p := s.get .MEM_SCRUB_CFG_PERIOD_S
  let h := s.get .MEM_SCRUB_CFG_PATROL_H
  (s.put .MEM_SCRUB_EFF_PERIOD_S (if guard then max (p / 4) 1 else p)).put .MEM_SCRUB_EFF_PATROL_MIN
    (if guard then h * 60 / 4 else h * 60)

/-- Makes a profile active (R22, R451). -/
def State.setProfile (s : State) (p : Nat) : State :=
  let s := s.put .PWR_CAP_PROFILE p
  let s := if s.on .PWR_FEED_STAT_SAG then s else s.setCap (profileCap p)
  let g := p = 2
  ((((s.put .THERM_POINTS_THROTTLE_C (if g then 90 else 95)).put .THERM_POINTS_TRIP_C (if g then 105 else 110)).put
    .THERM_POINTS_OUTLET_C (if g then 55 else 60))).setScrub

/-- The skip level in force of a region (R434). -/
def State.skipLevel (s : State) (r : Nat) : Nat :=
  max (s.get .PWR_REGION_THERM_LEVEL r) (if s.get .PWR_REGION_STATE r = 0 && s.on .PWR_REGION_CLK r then s.get .PWR_CAP_LEVEL else 0)

/-! ### The numerics area (R326) -/

/-- 2^k as an FP32 word, for −126 ≤ k ≤ 127. -/
def pow2Word (k : Int) : Nat := ((k + 127).toNat % 256) * 2 ^ 23

/-- +∞ in FP32. -/
def fp32Inf : Word := 0x7F800000

/-- The update exponent s of a tag (R334). -/
def State.tagExp (s : State) (t : Nat) : Int := signed (s.get .NUM_EXP_S t) 8

def State.tag (s : State) (t : Nat) : TagState := mget {} s.tags t
def State.setTag (s : State) (t : Nat) (x : TagState) : State := { s with tags := mset {} s.tags t x }

/-- The 16 bytes of an exponent-table entry (Table 2 of "Training Numerics"). -/
def State.expEntry (s : State) (t : Nat) : List Byte :=
  let e := s.tagExp t
  leBytes 4 (BitVec.ofInt 32 e).toNat ++ (leBytes 4 (pow2Word e) ++ (leBytes 4 (pow2Word (-e)) ++ leBytes 4 0))

/-- The 16 bytes of a window-table entry. -/
def State.windowEntry (s : State) (t : Nat) : List Byte :=
  let x := s.tag t
  leBytes 4 x.lo.toNat ++ (leBytes 4 x.hi.toNat ++ (leBytes 4 x.ref.toNat ++ leBytes 4 x.n.toNat))

/-- The number of the exponent-table line and of the window-table line that hold a tag's entry (R340). -/
def expLine (t : Nat) : Nat := t / 4
def windowLine (t : Nat) : Nat := 1024 + t / 4

/-- Marks a table line as behind the values held. -/
def State.mark (s : State) (i : Nat) : State := { s with dirty := if s.dirty.contains i then s.dirty else i :: s.dirty }

/-- Writes a table line as a whole 64 B line from the values held (R340, R534). -/
def State.writeTagLine (s : State) (i : Nat) : State :=
  let ts := (List.range 4).map (fun k => i % 1024 * 4 + k)
  if i < 1024 then s.store (s.areaBase + 0x1000 + i * 64) (ts.flatMap s.expEntry)
  else s.store (s.areaBase + 0x11000 + (i - 1024) * 64) (ts.flatMap s.windowEntry)

/-- The header line (Table 2). -/
def State.headerLine (s : State) (step : Nat) : List Byte :=
  let l : Int := s.get .NUM_LS_EXP
  leBytes 4 l.toNat ++ (leBytes 4 (pow2Word l) ++ (leBytes 4 (pow2Word (-l)) ++ (leBytes 4 (s.get .NUM_LS_CLEAN) ++
    (leBytes 4 (s.get .NUM_LS_STAT_CONSEC) ++ (leBytes 4 (s.get .NUM_MON_SETTLE_LEFT) ++ (leBytes 8 step ++ leBytes 32 0))))))

def State.writeHeader (s : State) (step : Nat) : State := s.store s.areaBase (s.headerLine step)

/-- A tag's window from its settings and reference (R339, R342). -/
def windowOf (x : TagState) : Word × Word :=
  if !x.mode then (x.setLo, x.setHi)
  else if x.n = 0 then (0, fp32Inf)
  else (fmul32 x.ref (BitVec.ofNat 32 (pow2Word (-(x.f : Int)))), fmul32 x.ref (BitVec.ofNat 32 (pow2Word x.f)))

def TagState.rewindow (x : TagState) : TagState := { x with lo := (windowOf x).1, hi := (windowOf x).2 }

/-- A change of a tag's window goes to the numerics area: while no step runs, as the n bytes of its entry that the change
sets, since the rest of the area may be newer than the values held (R343); at a quiet point as a line of the values held;
and with the next apply otherwise (R314, R340; log entry 20). -/
def State.tagChanged (s : State) (t n : Nat) : State :=
  let ph := s.get .RES_STEP_STATE_PHASE
  if !s.hasPlan then s
  else if ph = 0 then (s.writePhys (s.areaBase + 0x11000 + 16 * t) ((s.windowEntry t).take n)).1
  else if ph = 7 then s.writeTagLine (windowLine t)
  else s.mark (windowLine t)

/-! ### Transactions: the apply (R382 to R385) -/

/-- SCOPE, INDEX and ITEM of a key (R380). -/
def keyScope (k : Word) : Nat := bits k.toNat 28 4
def keyIndex (k : Word) : Nat := bits k.toNat 16 12
def keyItem (k : Word) : Nat := bits k.toNat 0 16

def State.txn (s : State) (sc : Nat) : Txn := mget {} s.txns sc
def State.setTxn (s : State) (sc : Nat) (t : Txn) : State := { s with txns := mset {} s.txns sc t }

/-- Where an item of a kind is staged: its number and value. -/
def Txn.find (t : Txn) (item : Nat) : Option (Nat × Nat) :=
  ((t.items.mapIdx (fun i kv => (i, kv))).find? (fun x => keyItem x.2.1 = item)).map (fun x => (x.1, x.2.2.toNat))

/-- Ends a transaction with an outcome (R386, R391) and its event (0x0703). -/
def State.endTxn (s : State) (sc outcome code item : Nat) : State :=
  let s := { s with txns := mset {} s.txns sc {} }
  let s := s.puts sc [(.TXN_STATE_STATE, 0), (.TXN_STATE_ITEMS, 0), (.TXN_RESULT_OUTCOME, outcome),
    (.TXN_RESULT_CODE, code), (.TXN_RESULT_ITEM, item)]
  s.event 0x0703 clsNone sc code item

/-- The condition that bars a change to GUARD (R25): the first region at or above 105 °C, or the outlet at or above
55 °C (400 stands for the outlet). DESIGN CHOICE (log entry 157): a region whose sensor has no power (THERM_REGION.VALID
= 0) has no junction temperature here, whatever it last read. -/
def State.guardBar (s : State) : Option Nat :=
  match (List.range 400).find? (fun r => s.on .THERM_REGION_VALID r && decide (1680 ≤ signed (s.get .THERM_REGION_TJ r) 16)) with
  | some r => some r
  | none => if 880 ≤ signed (s.get .THERM_COOL_OUTLET) 16 then some 400 else none

/-- The conditions checked again at apply, for the scopes that have them: the failing item and, for GUARD, what barred it
(R25, R385, R424). -/
def State.applyBar (s : State) (sc : Nat) : Option (Nat × Option Nat) :=
  if sc != 1 then none
  else
    let t := s.txn 1
    let g := match t.find 1 with
      | some (i, 2) => if s.get .PWR_CAP_PROFILE = 2 then none else s.guardBar.map (fun r => (i, some r))
      | _ => none
    let h := match t.find 2 with
      | some (i, 0) => if s.on .PWR_HOLDUP_ACTIVE then some (i, none) else none
      | _ => none
    match g, h with
    | some a, some b => if a.1 ≤ b.1 then some a else some b
    | some a, none => some a
    | none, b => b

/-- Applies one numerics item (R324, R382). -/
def State.applyNumItem (s : State) (k : Word) (v : Nat) : State :=
  let t := keyIndex k
  let x := s.tag t
  let w := BitVec.ofNat 32 v
  match keyItem k with
  | 0x0001 => s.put .NUM_LS_CFG_INIT_EXP v
  | 0x0002 => s.put .NUM_LS_CFG_CLEAN_STEPS v
  | 0x0003 => s.put .NUM_LS_CFG_SKIP_LIMIT v
  | 0x0004 => s.put .NUM_MON_STOP_EN v
  | 0x0020 => s.put .NUM_EXP_EN v t
  | 0x0021 => s.put .NUM_EXP_LIM_S_MIN v t
  | 0x0022 => s.put .NUM_EXP_LIM_S_MAX v t
  | 0x0023 => s.put .NUM_EXP_THR_RAISE_THRESH v t
  | 0x0024 => s.setTag t { x with monEn := v != 0 }
  | 0x0025 => (s.setTag t ({ x with mode := v != 0, ref := 0, n := 0 } : TagState).rewindow).tagChanged t 16
  | 0x0026 => (s.setTag t (if x.mode then { x with setLo := w } else { x with setLo := w, lo := w })).tagChanged t 8
  | 0x0027 => (s.setTag t (if x.mode then { x with setHi := w } else { x with setHi := w, hi := w })).tagChanged t 8
  | 0x0028 => s.setTag t { x with f := v }
  | _ => s

/-- Tag exchanges a module refuses by itself: no partner port, no ID in effect, or its own ID (Table 3 of "Faults,
Partners and Securing State"). -/
def State.pairBar (s : State) (m : Nat) : Option Nat :=
  if !s.on .RES_MODULE_ID_ASSIGNED || s.get .RES_MODULE_ID_MODULE_ID = m then some 6
  else if (s.portsTo m).isEmpty then some 1
  else none

/-- The event of a pairing result (0x0903). -/
def State.pairEvent (s : State) (m detail : Nat) : State := s.event 0x0903 clsNone m detail 0

/-- Applies the transaction of a scope (R384, R385): power and numerics at once; a partner name begins its exchange and
leaves the scope applying until the exchange ends. -/
def State.applyTxn (s : State) (sc : Nat) : State :=
  match s.applyBar sc with
  | some (i, why) =>
    let s := match why with
      | some r => s.puts sc [(.TXN_COND_VALID, 1), (.TXN_COND_OUTLET, if r = 400 then 1 else 0), (.TXN_COND_REGION, if r = 400 then 0 else r)]
      | none => s
    s.endTxn sc 2 4 i
  | none =>
    let t := s.txn sc
    match sc with
    | 1 =>
      let s := match t.find 1 with
        | some (_, p) => if p = s.get .PWR_CAP_PROFILE then s else s.setProfile p
        | none => s
      let s := match t.find 2 with
        | some (_, a) => s.put .PWR_HOLDUP_ARMED a
        | none => s
      s.endTxn sc 1 0 0
    | 2 => (s.each t.items (fun s kv => s.applyNumItem kv.1 kv.2.toNat)).endTxn sc 1 0 0
    | 3 =>
      let s := match t.find 1 with
        | some _ => s
        | none => (match t.find 2 with
          | some (_, v) => s.put .MNT_SEC_SET v
          | none => s)
      match t.find 1 with
      | none => s.endTxn sc 1 0 0
      | some (i, m) =>
        match s.pairBar m with
        | some d => ((s.put .RES_PAIR_REFUSAL d).pairEvent m d).endTxn sc 2 0x0A i
        | none =>
          (s.put .TXN_STATE_STATE 3 sc).beginPairing none m true
    | _ => s

/-- Applies the pending commits of the scopes whose state `due` admits, in the order power, numerics, partner (R384); a
partner name waits while a pairing exchange runs; source 8 tells the host of each that completes outside a command. -/
def State.applyWhere (s : State) (due : Nat → Bool) : State :=
  s.each [1, 2, 3] (fun s sc =>
    if due (s.get .TXN_STATE_STATE sc) && !(sc = 3 && s.pairing.isSome) then
      let s' := s.applyTxn sc
      if s'.get .TXN_STATE_STATE sc = 0 then s'.raise 8 else s'
    else s)

/-- Applies every pending commit, as at a stop of the job (R384). -/
def State.applyPending (s : State) : State := s.applyWhere (fun st => 2 ≤ st)

/-! ### Stopping (R70, R117, R304, R484) -/

/-- Bank 0 or 1. -/
def ArrayState.bank (a : ArrayState) (i : Bool) : Bank := if i then a.bank1 else a.bank0
def ArrayState.setBank (a : ArrayState) (i : Bool) (b : Bank) : ArrayState :=
  if i then { a with bank1 := b } else { a with bank0 := b }

/-- A bank closes: it drains after those that closed before it (R133, R138). -/
def ArrayState.close (a : ArrayState) (i : Bool) : ArrayState :=
  { (a.setBank i { (a.bank i) with phase := .closed, seq := a.closes }) with closes := a.closes + 1 }

/-- A held bank drains (R140). -/
def ArrayState.release (a : ArrayState) : ArrayState :=
  let a := if a.bank0.phase = .held then a.close false else a
  if a.bank1.phase = .held then a.close true else a

/-- The core has ended or is stopped: a held bank drains, and none is held from now on (R140). -/
def ArrayState.finish (a : ArrayState) : ArrayState := { a.release with ended := true }

/-- Every running core stops issuing; ended and trapped cores keep their state (R117, R140). -/
def State.stopCores (s : State) : State :=
  s.each s.usedCores (fun s p =>
    let s := (s.setCore p { (s.core p) with arr := (s.core p).arr.finish }).puts p
      [(.CORE_STATUS_STALLED, 0), (.CORE_STATUS_IN_BWAIT, 0)]
    if s.get .CORE_STATUS_STATE p = 1 then s.put .CORE_STATUS_STATE 0 p else s)

/-- A bank once the descriptors from number n on are discarded: one that such a descriptor opened or added to is free;
one left open for it closes. -/
def ArrayState.settle (a : ArrayState) (n : Nat) (i : Bool) : ArrayState :=
  let b := a.bank i
  if b.owner.any (fun j => n ≤ j.no) then a.setBank i { b with phase := .free, opener := none, owner := none }
  else if b.phase = .open && !a.inFlight.any (fun ps => some ps.job = b.owner) then a.close i
  else a

/-- The array once its queued descriptors are discarded (R115, R484). Those already in flight complete (R103): their
passes stay, and their banks drain. The sums and counters stay. -/
def ArrayState.drop (a : ArrayState) : ArrayState :=
  match a.queue with
  | [] => a
  | h :: _ =>
    let a : ArrayState := { a with
      queue := []
      headOk := false
      nextPass := 0
      shadow := none
      inFlight := a.inFlight.filter (fun ps => ps.job.no < h.no)
      rampWanted := none
      tally := a.tally.filter (fun t => t.1 < h.no) }
    let a := (a.settle h.no false).settle h.no true
    if a.inFlight.isEmpty && !a.gated then { a with tail := true } else a

/-- Queued stream and array work of the image's cores is discarded (R484). -/
def State.discardWork (s : State) : State :=
  s.each s.usedCores (fun s p =>
    let c := s.core p
    s.setCore p { c with chans := [], arr := c.arr.drop })

/-- The step registers once no step runs: PHASE 0, no window, no quiet point (R321, R484). -/
def State.endSteps (s : State) : State :=
  { (s.put .RES_STEP_STATE_PHASE 0).put .RES_STEP_STATE_STABLE 0 with quiet := none }

/-- No job runs: its steps end, and open barriers are abandoned (R257). -/
def State.endJob (s : State) : State := { s.endSteps.abandonBarriers with job := false }

/-- The job stops: its cores, its steps, its pending commits (R384). -/
def State.stopJob (s : State) : State := s.stopCores.endJob.applyPending

/-- MNT_DRAIN.STATE: 0 idle, 1 running, 2 deferred, 3 running with one deferred; and whether the running one is unpaced. -/
def State.showDrain (s : State) : State :=
  let run := s.drain.isSome || !s.replies.isEmpty
  let v := (if run then 1 else 0) + (if s.deferred || s.due then 2 else 0)
  (s.put .MNT_DRAIN_STATE v).flag .MNT_DRAIN_UNPACED (s.drain.any (·.unpaced))

/-- The deferred secure request is discarded with an event (R502). -/
def State.dropDeferred (s : State) : State :=
  if s.deferred || s.due then (({ s with deferred := false, due := false } : State).showDrain).event 0x0907 clsNone 0 0 0 else s

/-- Adds one fault to the history H, in units of 2^−32 (R499). -/
def State.addFault (s : State) : State := { s with history := s.history + 2 ^ 32 }

/-- Every pair of the step table has its half for BUF_SEL b written, last in a step below n (R506). -/
def State.pairsIntact (s : State) (n : Nat) (b : Bool) : Bool :=
  (s.tables.mapIdx (fun i e => (i, e))).all (fun x => x.2.kind != 1 ||
    (let h := mget {} s.pairs (2 * x.1 + if b then 1 else 0)
     !h.overwritten && h.lastStep.any (fun m => m < n)))

/-- A class J fault with its cause code of RES_FAULT and its region (R484): the first of a job stops it and is recorded;
those that follow are counted; with no job it has none of these effects. -/
def State.classJ (s : State) (cause region : Nat) : State :=
  if s.job then
    let stable := s.on .RES_STEP_STATE_STABLE
    let s := { s.addFault.bump .RES_FAULT_COUNT_JOB with faulted := true }
    let s := s.puts 0 [(.RES_FAULT_CAUSE, cause), (.RES_FAULT_PHASE, s.get .RES_STEP_STATE_PHASE),
      (.RES_FAULT_LOCAL_VALID, if stable && !s.uniqueBad then 1 else 0),
      (.RES_FAULT_BUF_SEL, s.get .RES_STEP_STATE_BUF_SEL), (.RES_FAULT_REGION, region),
      (.RES_FAULT_STEP_STEP, s.get .RES_STEP_LO_COUNT)]
    let s := if stable && !s.uniqueBad then
        s.flag .RES_RESTORE_PAIRS_INTACT (s.pairsIntact s.stepCount (s.on .RES_STEP_STATE_BUF_SEL)) else s
    let s := s.event 0x0801 clsJ region cause 0
    (((s.discardWork.stopJob).dropDeferred).raise 6).alert
  else if s.faulted then s.addFault.bump .RES_FAULT_COUNT_JOB
  else s

/-- A core traps: the trap fields, STATE 3, and the class J fault (R115). -/
def State.trap (s : State) (p cause slot info pc : Nat) : State :=
  let s := s.puts p [(.CORE_TRAP_CAUSE, cause), (.CORE_TRAP_SLOT, slot), (.CORE_TRAP_INFO, info),
    (.CORE_TRAP_PC_PC, pc), (.CORE_STATUS_STATE, 3), (.CORE_STATUS_STALLED, 0), (.CORE_STATUS_IN_BWAIT, 0)]
  s.classJ 1 (coreRegion p)

/-- The job is complete when every used core has ended and its queued work has completed (R82); the module then reports
it, and the steps of a step plan have ended (log entry 21). -/
def State.checkComplete (s : State) : State :=
  if s.job && s.usedCores.all (fun p => s.get .CORE_STATUS_STATE p = 2 &&
      (let c := s.core p
       c.chans.isEmpty && c.arr.queue.isEmpty && c.arr.bank0.phase = .free && c.arr.bank1.phase = .free))
  then s.endJob.applyPending.dropDeferred.raise 5
  else s

/-! ### Class M faults (R60, R425, R447, R485) -/

/-- The module reset: everything below the always-on domain, the fuse bank and flash returns to its reset value; the
log, the always-on counter, pins, sensors' latches and the environment's view stay (R60, R425, R485). A fuse request under
way is interrupted (R458). Entry to RETIRED blows the device secret (R459). DESIGN CHOICE (log entry 126): the fuse
shadow, which the FUSE_* registers show, holds the bank from the reset on, before fuse sense has run. -/
def State.moduleReset (s : State) (cause : Nat) : State :=
  let s := s.stopFuses
  let gone (b : FuseBank) : FuseBank := { b with secret := BitVec.allOnes 256 }
  let pair := if s.fuses.read.lifecycle = 3 then s.fuses.blow gone gone else s.fuses
  let r : State := { State.reset with
    pending := s.pending
    fc := s.fc
    free := s.free
    log := s.log
    nextSeq := s.nextSeq
    sinceRead := s.sinceRead
    fuses := pair
    shadowBank := pair.read
    flash := s.flash
    perst := s.perst
    sense := { s.sense with above := 0, episode := false, quiet := 0 }
    hostMem := s.hostMem
    msix := s.msix
    oobOut := s.oobOut
    scanDriven := s.scanDriven
    repairs := s.repairs
    history := s.flash.history
    power := { s.power with
      feedA := {}
      feedB := {}
      watts := []
      below := 0
      goodFeeds := false
      inReset := true } }
  (((r.put .RES_RESET_CAUSE cause).flag .RES_MGMT_PERST s.perst).flag .RES_MGMT_SECURE_NOW s.sense.pin).flag
    .RES_MGMT_SN_HELD (s.sense.pin && s.on .RES_MGMT_SN_HELD)

/-- H is saved to flash and the event log is flushed to it (R425, R499, R511); whether the flush completes in its 20 ms is
a free value, and flash keeps what it held where it does not (log entry 75). -/
def State.flushLog (s : State) : State :=
  let failed := Config.flushFails s.free
  ({ s with flash := { s.flash with
    log := if failed then s.flash.log else s.log
    logSeq := if failed then s.flash.logSeq else s.nextSeq
    history := s.history
    flushFailed := failed } } : State).useFree 1

/-- A class M fault: its events, one fault in H, the flush and the reset (R425, R485, R499). -/
def State.classM (s : State) (cause : Nat) : State :=
  ((((s.event 0x0802 clsM 0 cause 0).addFault).flushLog).moduleReset cause)

end Sys2Proof.Machine
end

