-- ==== Sys2Proof/Machine/Flags.lean ====
section
/-!
DEFINITION. Every flag computation: the conditions of SETP, PLOG and VCMP (R77, R94), the sticky FP16 overflow flag
(R172), the NaN trap with its record and report (R191 to R194), and the counts by layer tag (R188, R189).
-/
namespace Sys2Proof.Machine

/-- COND of SETP: 0 EQ, 1 NE, 2 LT signed, 3 LT unsigned (Table 3 of "The Core"). -/
def setpCond (c : BitVec 2) (a b : Word) : Bool :=
  if c = 0 then a == b
  else if c = 1 then a != b
  else if c = 2 then a.slt b
  else a.ult b

/-- OP of PLOG: 0 AND, 1 OR, 2 XOR, 3 AND-NOT. -/
def plogOp (c : BitVec 2) (a b : Bool) : Bool :=
  if c = 0 then a && b
  else if c = 1 then a || b
  else if c = 2 then a != b
  else a && !b

/-- COND of VCMP on floating-point values: 0 EQ, 1 LT, 2 LE, 3 NE; with a NaN only NE holds (log entry 22). -/
def vcmpFloat (c : Nat) (a b : FVal) : Bool :=
  if c = 0 then a.eqv b
  else if c = 1 then a.lt b
  else if c = 2 then a.lt b || a.eqv b
  else !a.eqv b

/-- COND of VCMP on INT32 lanes. -/
def vcmpInt (c : Nat) (a b : Word) : Bool :=
  if c = 0 then a == b
  else if c = 1 then a.slt b
  else if c = 2 then a.sle b
  else a != b

/-- A NaN of a unit of a core: the first is recorded and reported (R192, R193). -/
def State.nanRecord (s : State) (p unit slot pc desc tag : Nat) : State :=
  let tagged := 3 ≤ unit
  let step := (s.core p).step.toNat
  if s.on .CORE_NAN_VALID p then s
  else
    let s := s.puts p [(.CORE_NAN_VALID, 1), (.CORE_NAN_UNIT, unit), (.CORE_NAN_DESC, desc),
      (.CORE_NAN_LAYER_TAG, if tagged then tag else 0), (.CORE_NAN_TAG_VALID, if tagged then 1 else 0),
      (.CORE_NAN_PC_PC, pc), (.CORE_NAN_PC_SLOT, slot), (.CORE_NAN_STEP_STEP, step)]
    let c := (s.logicalCore p).getD 0
    { s with nans := s.nans ++ [⟨p / 17 / 40, p / 17 % 40, c, slot, pc, unit, desc, if tagged then tag else 0, tagged, step⟩] }

/-- The NaN trap of a unit of a core (R192): the NaN is recorded and reported; with NAN_MODE = 0 the core traps. -/
def State.nan (s : State) (p unit slot pc desc tag : Nat) : State :=
  let s := s.nanRecord p unit slot pc desc tag
  if s.on .NUM_CFG_NAN_MODE then s else s.trap p 0x09 slot (unit + desc * 256) pc

/-- The sticky FP16 overflow flag (R172). -/
def State.ovf16 (s : State) (p : Nat) (c : Counts) : State := if c.ovf16 = 0 then s else s.put .CORE_FLAGS_OVF16 1 p

/-- A completed descriptor's counts set out as a report (R189); a quiet point that begins while it is on its way waits for
it (R190). -/
def State.report (s : State) (tag : Nat) (c : Counts) : State :=
  { s with counts := s.counts ++ [⟨tag, c, false⟩] }

end Sys2Proof.Machine
end

