-- ==== Sys2Proof/Machine/VectorOps.lean ====
section
/-!
DEFINITION. The vector engine's arithmetic (R94 to R97): one lane, one half of a BF16 pair, and whole registers of 128
lanes. Every result comes with the truth value "a NaN was generated or consumed" (R191).
-/
namespace Sys2Proof.Machine

/-- The two halves of a lane that holds a BF16 pair. -/
def loHalf (x : Word) : BitVec 16 := x.extractLsb' 0 16
def hiHalf (x : Word) : BitVec 16 := x.extractLsb' 16 16
def pairOf (hi lo : BitVec 16) : Word := hi ++ lo

/-- A BF16 half taken into FP32. -/
def widen (h : BitVec 16) : Word := h ++ (0 : BitVec 16)

/-- An FP32 operation on values, with FTZ on inputs and result (R95). -/
def fp1 (ftz : Bool) (f : FVal → FVal) (a : Word) : Word × Bool :=
  let v := ofFp32 (flush32 ftz a)
  let r := flush32 ftz (toFp32 (f v))
  (r, v.isNan || (ofFp32 r).isNan)

def fp2 (ftz : Bool) (f : FVal → FVal → FVal) (a b : Word) : Word × Bool :=
  let x := ofFp32 (flush32 ftz a)
  let y := ofFp32 (flush32 ftz b)
  let r := flush32 ftz (toFp32 (f x y))
  (r, x.isNan || y.isNan || (ofFp32 r).isNan)

def fp3 (ftz : Bool) (f : FVal → FVal → FVal → FVal) (a b c : Word) : Word × Bool :=
  let x := ofFp32 (flush32 ftz a)
  let y := ofFp32 (flush32 ftz b)
  let z := ofFp32 (flush32 ftz c)
  let r := flush32 ftz (toFp32 (f x y z))
  (r, x.isNan || y.isNan || z.isNan || (ofFp32 r).isNan)

/-- An FP32 result rounded to BF16. -/
def narrow (x : Word × Bool) : BitVec 16 × Bool := (toBf16 (ofFp32 x.1), x.2 || (ofFp32 x.1).isNan)

/-- Both halves of a pair, each computed in FP32 and rounded to BF16 (R95). -/
def pair1 (f : Word → Word × Bool) (a : Word) : Word × Bool :=
  let l := narrow (f (widen (loHalf a)))
  let h := narrow (f (widen (hiHalf a)))
  (pairOf h.1 l.1, l.2 || h.2)

def pair2 (f : Word → Word → Word × Bool) (a b : Word) : Word × Bool :=
  let l := narrow (f (widen (loHalf a)) (widen (loHalf b)))
  let h := narrow (f (widen (hiHalf a)) (widen (hiHalf b)))
  (pairOf h.1 l.1, l.2 || h.2)

def pair3 (f : Word → Word → Word → Word × Bool) (a b c : Word) : Word × Bool :=
  let l := narrow (f (widen (loHalf a)) (widen (loHalf b)) (widen (loHalf c)))
  let h := narrow (f (widen (hiHalf a)) (widen (hiHalf b)) (widen (hiHalf c)))
  (pairOf h.1 l.1, l.2 || h.2)

/-- Maximum and minimum of values, −0 below +0 (R95). -/
def FVal.max (a b : FVal) : FVal := if a.isNan || b.isNan then .nan else if a.ltz b then b else a
def FVal.min (a b : FVal) : FVal := if a.isNan || b.isNan then .nan else if b.ltz a then b else a

/-- The value a two-source operation computes. -/
def VBin.value : VBin → FVal → FVal → FVal
  | .add, a, b => a.add b
  | .sub, a, b => a.add b.neg
  | .mul, a, b => a.mul b
  | .max, a, b => a.max b
  | .min, a, b => a.min b

/-- The same on INT32 lanes, wrapping. -/
def VBin.int : VBin → Word → Word → Word
  | .add, a, b => a + b
  | .sub, a, b => a - b
  | .mul, a, b => a * b
  | .max, a, b => if a.slt b then b else a
  | .min, a, b => if b.slt a then b else a

/-- One lane of a two-source operation by lane type (0 FP32, 1 BF16 pairs, 2 INT32). -/
def VBin.lane (op : VBin) (t : BitVec 2) (ftz : Bool) (a b : Word) : Word × Bool :=
  if t = 0 then fp2 ftz op.value a b
  else if t = 1 then pair2 (fp2 ftz op.value) a b
  else (op.int a b, false)

/-- One lane of VFMA: a × b + c rounded once (R95). -/
def fmaLane (t : BitVec 2) (ftz : Bool) (a b c : Word) : Word × Bool :=
  let f (x y z : FVal) : FVal := (x.mul y).add z
  if t = 0 then fp3 ftz f a b c
  else if t = 1 then pair3 (fp3 ftz f) a b c
  else (a * b + c, false)

/-- One lane of VABS and VNEG. -/
def absLane (t : BitVec 2) (ftz : Bool) (a : Word) : Word × Bool :=
  if t = 0 then fp1 ftz FVal.abs a
  else if t = 1 then pair1 (fp1 ftz FVal.abs) a
  else (if a.slt 0 then 0 - a else a, false)

def negLane (t : BitVec 2) (ftz : Bool) (a : Word) : Word × Bool :=
  if t = 0 then fp1 ftz FVal.neg a
  else if t = 1 then pair1 (fp1 ftz FVal.neg) a
  else (0 - a, false)

/-- One lane of a special function; n numbers the free offsets of its results (R97). -/
def sfuLane (op : SfuOp) (t : BitVec 2) (ftz : Bool) (n : Nat) (a : Word) : Word × Bool :=
  if t = 0 then
    let x := flush32 ftz a
    let r := flush32 ftz (sfu32 op n (ofFp32 x))
    (r, (ofFp32 x).isNan || (ofFp32 r).isNan)
  else
    let half (h : BitVec 16) (n : Nat) : BitVec 16 × Bool :=
      let x := flush32 ftz (widen h)
      let r := sfu16 op n (ofFp32 x)
      (toBf16 (ofFp32 (flush32 ftz (widen r))), (ofFp32 x).isNan || (ofBf16 r).isNan)
    let l := half (loHalf a) n
    let h := half (hiHalf a) (n + 1)
    (pairOf h.1 l.1, l.2 || h.2)

/-- One lane of VCVT (Table 5, R169, R170). -/
def cvtLane (t : BitVec 2) (dst : BitVec 4) (ftz : Bool) (a : Word) : Word × Bool :=
  if t.toNat = dst.toNat then
    (a, if t = 0 then (ofFp32 a).isNan else if t = 1 then (ofBf16 (loHalf a)).isNan || (ofBf16 (hiHalf a)).isNan else false)
  else
    let v := if t = 0 then ofFp32 (flush32 ftz a) else if t = 1 then ofFp32 (flush32 ftz (widen (loHalf a))) else .ofInt a.toInt
    if dst = 0 then (flush32 ftz (toFp32 v), v.isNan)
    else if dst = 1 then
      let w := flush32 ftz (toFp32 v)
      let h := if ftz && isSubnormal32 (toFp32 v) then toBf16 (ofFp32 w) else toBf16 v
      (pairOf h h, v.isNan)
    else (BitVec.ofNat 32 (convert 7 false v).1, v.isNan)

/-- One lane of VCMP. -/
def cmpLane (cond : Nat) (t : BitVec 2) (ftz : Bool) (a b : Word) : Word × Bool :=
  let fv (x : Word) : FVal := ofFp32 (flush32 ftz x)
  if t = 0 then
    (if vcmpFloat cond (fv a) (fv b) then 0xFFFFFFFF else 0, (fv a).isNan || (fv b).isNan)
  else if t = 1 then
    let half (x y : BitVec 16) : BitVec 16 × Bool :=
      (if vcmpFloat cond (fv (widen x)) (fv (widen y)) then 0xFFFF else 0, (fv (widen x)).isNan || (fv (widen y)).isNan)
    let l := half (loHalf a) (loHalf b)
    let h := half (hiHalf a) (hiHalf b)
    (pairOf h.1 l.1, l.2 || h.2)
  else (if vcmpInt cond a b then 0xFFFFFFFF else 0, false)

/-- Neighbouring pairs combined, one level of R96. -/
def pairUp (f : Word → Word → Word) : List Word → List Word
  | a :: b :: r => f a b :: pairUp f r
  | r => r

/-- k levels of pairwise combination. -/
def pairLevels (f : Word → Word → Word) : Nat → List Word → List Word
  | 0, xs => xs
  | k + 1, xs => pairLevels f k (pairUp f xs)

/-- The halves of all lanes in order, lower half first, taken into FP32. -/
def halves (xs : List Word) : List Word := xs.flatMap (fun x => [widen (loHalf x), widen (hiHalf x)])

/-- VRSUM and VRMAX (R96): the value written into every lane. -/
def reduceLanes (isMax : Bool) (t : BitVec 2) (ftz : Bool) (xs : List Word) : Word × Bool :=
  if t = 2 then
    let f (a b : Word) : Word := if isMax then (if a.slt b then b else a) else a + b
    ((pairLevels f 7 xs).getD 0 0, false)
  else
    let ys := (if t = 0 then xs else halves xs).map (flush32 ftz)
    let f (a b : Word) : Word := (fp2 ftz (if isMax then FVal.max else FVal.add) a b).1
    let r := (pairLevels f 8 ys).getD 0 0
    let nan := ys.any (fun y => (ofFp32 y).isNan) || (ofFp32 r).isNan
    if t = 0 then (r, nan)
    else
      let h := toBf16 (ofFp32 r)
      (pairOf h h, nan)

/-- Lane by lane over one, two, three registers. -/
def lanes1 (f : Word → Word × Bool) (xs : List Word) : List Word × Bool :=
  let r := xs.map f
  (r.map (·.1), r.any (·.2))
def lanes2 (f : Word → Word → Word × Bool) (xs ys : List Word) : List Word × Bool :=
  let r := List.zipWith f xs ys
  (r.map (·.1), r.any (·.2))
def lanes3 (f : Word → Word → Word → Word × Bool) (xs ys zs : List Word) : List Word × Bool :=
  let r := List.zipWith (fun (p : Word × Word) z => f p.1 p.2 z) (xs.zip ys) zs
  (r.map (·.1), r.any (·.2))

/-- The special function of an operation, if it is one. -/
def VUn.sfu : VUn → Option SfuOp
  | .exp => some .exp
  | .log => some .log
  | .rsqrt => some .rsqrt
  | .tanh => some .tanh
  | .abs => none
  | .neg => none
  | .rsum => none
  | .rmax => none

/-- The result register of a vector operation and the NaN flag, from register and scalar values; n numbers free values. -/
def VecOp.result (op : VecOp) (rd : VReg → List Word) (sc : SReg → Word) (ftz : Bool) (n : Nat) : List Word × Bool :=
  match op with
  | .nop => ([], false)
  | .bin o _ va vb t => lanes2 (o.lane t ftz) (rd va) (rd vb)
  | .fma _ va vb vc t => lanes3 (fmaLane t ftz) (rd va) (rd vb) (rd vc)
  | .un .abs _ va t => lanes1 (absLane t ftz) (rd va)
  | .un .neg _ va t => lanes1 (negLane t ftz) (rd va)
  | .un .rsum _ va t => let r := reduceLanes false t ftz (rd va); (List.replicate 128 r.1, r.2)
  | .un .rmax _ va t => let r := reduceLanes true t ftz (rd va); (List.replicate 128 r.1, r.2)
  | .un .exp _ va t => let r := (rd va).mapIdx (fun i x => sfuLane .exp t ftz (n + 2 * i) x); (r.map (·.1), r.any (·.2))
  | .un .log _ va t => let r := (rd va).mapIdx (fun i x => sfuLane .log t ftz (n + 2 * i) x); (r.map (·.1), r.any (·.2))
  | .un .rsqrt _ va t => let r := (rd va).mapIdx (fun i x => sfuLane .rsqrt t ftz (n + 2 * i) x); (r.map (·.1), r.any (·.2))
  | .un .tanh _ va t => let r := (rd va).mapIdx (fun i x => sfuLane .tanh t ftz (n + 2 * i) x); (r.map (·.1), r.any (·.2))
  | .bcast _ a _ => (List.replicate 128 (sc a), false)
  | .cvt _ va dst t => lanes1 (cvtLane t dst ftz) (rd va)
  | .cmp _ va vb cond t => lanes2 (cmpLane cond.toNat t ftz) (rd va) (rd vb)
  | .sel _ va vb vc => lanes3 (fun a b c => (if c != 0 then a else b, false)) (rd va) (rd vb) (rd vc)
  | .any _ _ => ([], false)
  | .bad _ => ([], false)

/-- Free values a vector operation takes. -/
def VecOp.frees : VecOp → Nat
  | .un op _ _ _ => if op.sfu.isSome then 256 else 0
  | _ => 0

/-- The opcode of a vector operation, the subcode of cause 0x02 (Table 5). -/
def VecOp.opcode : VecOp → Nat
  | .nop => 0
  | .bin .add .. => 1
  | .bin .sub .. => 2
  | .bin .mul .. => 3
  | .fma .. => 4
  | .bin .max .. => 5
  | .bin .min .. => 6
  | .un .abs .. => 7
  | .un .neg .. => 8
  | .bcast .. => 9
  | .cvt .. => 0x0A
  | .un .exp .. => 0x10
  | .un .log .. => 0x11
  | .un .rsqrt .. => 0x12
  | .un .tanh .. => 0x13
  | .un .rsum .. => 0x18
  | .un .rmax .. => 0x19
  | .cmp .. => 0x1C
  | .sel .. => 0x1D
  | .any .. => 0x1E
  | .bad o => o.toNat

/-- A lane type the operation does not allow, or a reserved field value (R94). -/
def VecOp.reserved : VecOp → Bool
  | .nop => false
  | .bin _ _ _ _ t => t == 3
  | .fma _ _ _ _ t => t == 3
  | .un op _ _ t => if op.sfu.isSome then 2 ≤ t.toNat else t == 3
  | .bcast _ _ t => t == 3
  | .cvt _ _ dst t => t == 3 || 2 < dst.toNat
  | .cmp _ _ _ cond t => t == 3 || 3 < cond.toNat
  | .sel .. => false
  | .any .. => false
  | .bad _ => true

/-- Latency of a vector result in fc (Table 7). -/
def VecOp.latency : VecOp → Nat
  | .un .rsum .. => 8
  | .un .rmax .. => 8
  | .un .exp _ _ t => if t = 0 then 12 else 16
  | .un .log _ _ t => if t = 0 then 12 else 16
  | .un .rsqrt _ _ t => if t = 0 then 12 else 16
  | .un .tanh _ _ t => if t = 0 then 12 else 16
  | _ => 4

/-- Fc for which an operation occupies the special-function unit (R97). -/
def VecOp.sfuBusy : VecOp → Nat
  | .un op _ _ t => if op.sfu.isSome then (if t = 0 then 4 else 8) else 0
  | _ => 0

/-- The unit code of a NaN in the operation (Table 7 of "Number Formats and the Glaze"). -/
def VecOp.nanUnit : VecOp → Nat
  | .un op _ _ _ => if op.sfu.isSome then 2 else 1
  | _ => 1

end Sys2Proof.Machine
end

