-- ==== Sys2Proof/Machine/Issue.lean ====
section
/-!
DEFINITION. The issue of one bundle by a core (R70 to R93, R98 to R100, R115): the checks that rest on its encoding, the
interlock, the checks that rest on values, the stalls, the effects of the four slots, counted loops and the next pc.
Every core-slot row of the table calls `State.issue` with the bundle at the core's pc and its own slot in place.
-/
namespace Sys2Proof.Machine

/-! ### Registers of a core (Table 1 of "The Core") -/

/-- A scalar register; s0 reads as zero. -/
def CoreState.sreg (c : CoreState) (r : SReg) : Word := if r = 0 then 0 else mget 0 c.sregs r.toNat

/-- Writes a scalar register; a write of s0 is discarded. -/
def CoreState.setSreg (c : CoreState) (r : SReg) (v : Word) : CoreState :=
  if r = 0 then c else { c with sregs := mset 0 c.sregs r.toNat v }

/-- A predicate register; p0 reads as 1. -/
def CoreState.preg (c : CoreState) (r : PReg) : Bool := r = 0 || c.preds.getLsbD r.toNat

/-- Writes a predicate register; a write of p0 is discarded. -/
def CoreState.setPreg (c : CoreState) (r : PReg) (b : Bool) : CoreState :=
  if r = 0 then c
  else
    let m := BitVec.ofNat 8 (2 ^ r.toNat)
    { c with preds := if b then c.preds ||| m else c.preds &&& ~~~m }

/-- The 128 lanes of a vector register. -/
def CoreState.vreg (c : CoreState) (v : VReg) : List Word := mgetRange 0 c.vregs (v.toNat * 128) 128

/-- Writes a vector register. -/
def CoreState.setVreg (c : CoreState) (v : VReg) (xs : List Word) : CoreState :=
  { c with vregs := msetRange 0 c.vregs (v.toNat * 128) (xs.take 128) }

/-- A loop counter. -/
def CoreState.loopCtr (c : CoreState) (l : Nat) : LoopCtr := mget {} c.loops l
def CoreState.setLoop (c : CoreState) (l : Nat) (x : LoopCtr) : CoreState := { c with loops := mset {} c.loops l x }

/-- Whether a guard lets its slot act (R72). -/
def CoreState.guard (c : CoreState) (g : Guard) : Bool := c.preg (g.extractLsb' 0 3) != g.getLsbD 3

/-- The queue of a stream channel. -/
def CoreState.chan (c : CoreState) (ch : Nat) : List StreamJob := mget [] c.chans ch
def CoreState.setChan (c : CoreState) (ch : Nat) (q : List StreamJob) : CoreState := { c with chans := mset [] c.chans ch q }

/-- The pc. -/
def State.pc (s : State) (p : Nat) : BitVec 12 := BitVec.ofNat 12 (s.get .CORE_PC_PC p)

/-- The bundle at a core's pc. -/
def State.bundleAt (s : State) (p : Nat) : Bundle := decodeBundle (mget 0 (s.core p).istore (s.pc p).toNat)

/-! ### Barriers as a core sees them (R88, R252, R253) -/

/-- The number of a barrier: its id, system barriers from 256 on. -/
def barNo (sys : Bool) (id : BitVec 8) : Nat := id.toNat + if sys then 256 else 0

/-- Whether the image gives a barrier to a core, and whether as a wait-only member (R370). -/
def State.member (s : State) (p bar : Nat) : Option Bool :=
  match s.image with
  | some im => (im.members.find? (fun m => s.crefCore m.core = p && m.id + (if m.sys then 256 else 0) = bar)).map (·.waitOnly)
  | none => none

/-- The encoding check of a barrier instruction: the id is not given to the core, or a posting one is used by a
wait-only member (R88, R253). -/
def State.barBad (s : State) (p : Nat) (sys : Bool) (id : BitVec 8) (posts : Bool) : Bool :=
  (sys && 64 ≤ id.toNat) ||
    (match s.member p (barNo sys id) with
     | none => true
     | some w => w && posts)

/-! ### Flits into a router (R237, R238, R250) -/

/-- The key of an input buffer, of a credit count, of a hold buffer. -/
def slotKey (port vc : Nat) : Nat := port * 4 + vc

def Router.input (x : Router) (port vc : Nat) : List Flit := mget [] x.inbuf (slotKey port vc)
def Router.setInput (x : Router) (port vc : Nat) (q : List Flit) : Router :=
  { x with inbuf := mset [] x.inbuf (slotKey port vc) q }
def Router.behind (x : Router) (port vc : Nat) : List Flit := mget [] x.source (slotKey port vc)
def Router.setBehind (x : Router) (port vc : Nat) (q : List Flit) : Router :=
  { x with source := mset [] x.source (slotKey port vc) q }

/-- Flits that an input buffer holds (R238). -/
def bufferDepth : Nat := 8

/-- The input that serves a unit: the spine shares the local port (R236). -/
def unitInput (i : Nat) : Nat := if i = 5 then 4 else i

/-- The unit whose flit the local input takes next on a channel: the core and the spine in turn where both wait (R250);
elsewhere the one behind the input. -/
def Router.nextUnit (x : Router) (i vc : Nat) : Nat :=
  if i != 4 then i
  else if (x.behind 5 vc).isEmpty then 4
  else if (x.behind 4 vc).isEmpty then 5
  else mget 5 x.turn (slotKey 7 vc)

/-- Flits that wait behind an input enter its buffer while that has room, in order (R238). -/
def Router.refill (x : Router) (i vc : Nat) : Router :=
  let rec go : Nat → Router → Router
    | 0, x => x
    | n + 1, x =>
      let u := x.nextUnit i vc
      match x.behind u vc with
      | [] => x
      | f :: rest =>
        let x := (x.setBehind u vc rest).setInput i vc (x.input i vc ++ [f])
        go n (if i = 4 then { x with turn := mset 5 x.turn (slotKey 7 vc) (9 - u) } else x)
  go (bufferDepth - (x.input i vc).length) x

/-- Flits handed to a router by the units behind an input. -/
def State.injectAt (s : State) (r i : Nat) (fs : List Flit) : State :=
  s.each fs (fun s f =>
    let x := s.router r
    s.setRouter r ((x.setBehind i f.vc.no (x.behind i f.vc.no ++ [f])).refill (unitInput i) f.vc.no))

/-! ### Barrier posts (R252, R254) -/

/-- The key of the arrivals that a barrier entry has taken in by an input (R254). -/
def arrivalKey (r bar input : Nat) : Nat := (r * 512 + bar) * 8 + input

/-- A router the defect map in force marks failed: of kind ROUTER, or in a cluster whose routers are marked failed (R40,
R59). -/
def State.routerFailed (s : State) (r : Nat) : Bool := routerBad s.loadedDefects (routerCore r)

/-- Where a core's own arrivals and traffic meet the grid: its router and the local input; for a core carried by the
spare, its home router, or the entry router the image names for it, and the spine (R44, R369). -/
def State.attach (s : State) (p : Nat) : Nat × Nat :=
  if p % 17 != 16 then (coreRouter p, 4)
  else
    match s.logicalCore p with
    | none => (coreRouter p, 4)
    | some c =>
      let home := coreRouter (p / 17 * 17 + c)
      if s.routerFailed home then
        match s.image.bind (fun im => im.entries.find? (fun e => s.crefCore e.core = p)) with
        | some e => (gridRouter e.at'.x e.at'.y, 5)
        | none => (home, 5)
      else (home, 4)

/-- The REDUCE-end barrier of the loaded plan (R300). -/
def State.reduceEnd (s : State) : Option Nat := (s.image.bind (·.stepPlan)).map (·.reduceEnd)

/-- A post: the core counts it and sends one arrival, which at REDUCE-end carries and clears its FP16 overflow flag
(R252, R329). -/
def State.post (s : State) (p bar : Nat) : State :=
  let c := s.core p
  let s := s.setCore p { c with posts := mset 0 c.posts bar (mget 0 c.posts bar + 1) }
  let atRed := s.reduceEnd = some bar
  let v := atRed && s.on .CORE_FLAGS_OVF16 p
  let s := if atRed then s.put .CORE_FLAGS_OVF16 0 p else s
  let a := s.attach p
  s.injectAt a.1 a.2 [⟨.sync, .unit a.2, .arrival bar v, true, 0, 0⟩]

/-- A core's posts above its releases on a barrier. -/
def CoreState.open (c : CoreState) (bar : Nat) : Bool := mget 0 c.releases bar < mget 0 c.posts bar

/-! ### What a bundle checks on its encoding (R72) -/

/-- A trap to take: cause, slot, TRAP_INFO. -/
abbrev TrapInfo := Nat × Nat × Nat

/-- The checks of a LOOP (R86). -/
def loopBad (c : CoreState) (pc : BitVec 12) (ln : BitVec 2) (last : BitVec 12) : Option Nat :=
  if c.active.contains ln.toNat then some 1
  else if last.toNat ≤ pc.toNat then some 2
  else if c.active.any (fun l => (c.loopCtr l).last.toNat < last.toNat) then some 3
  else none

def State.ctlEncoding (s : State) (p : Nat) (op : CtlOp) : Option TrapInfo :=
  match op with
  | .bad o => some (2, 0, o.toNat)
  | .dwr table index _ _ => if !table && 64 ≤ index.toNat then some (2, 0, 0x1C) else none
  | .loop ln _ _ last => (loopBad (s.core p) (s.pc p) ln last).map (fun k => (3, 0, k))
  | .bpost sys id => if s.barBad p sys id true then some (5, 0, id.toNat) else none
  | .bwait sys id => if s.barBad p sys id false then some (5, 0, id.toNat) else none
  | .bsync sys id => if s.barBad p sys id true then some (5, 0, id.toNat) else none
  | _ => none

def MoveOp.encoding : MoveOp → Option TrapInfo
  | .bad o => some (2, 1, o.toNat)
  | _ => none

def VecOp.encoding (op : VecOp) : Option TrapInfo := if op.reserved then some (2, 2, op.opcode) else none

def ArrOp.encoding : ArrOp → Option TrapInfo
  | .bad o => some (2, 3, o.toNat)
  | _ => none

/-- The first encoding check that fails, in slot order (log entry 24). -/
def State.encodingTrap (s : State) (p : Nat) (b : Bundle) : Option TrapInfo :=
  ((s.ctlEncoding p b.c).or (b.m.encoding)).or ((b.v.encoding).or b.a.encoding)

/-! ### Registers a bundle reads and writes -/

/-- Numbers of registers in the scoreboard: scalars 0 to 31, predicates from 32, vectors from 40. -/
def sNo (r : SReg) : Nat := r.toNat
def pNo (r : PReg) : Nat := 32 + r.toNat
def vNo (r : VReg) : Nat := 40 + r.toNat

def CtlOp.reads : CtlOp → List Nat
  | .alu _ _ a b => [sNo a, sNo b]
  | .addi _ a _ => [sNo a]
  | .lui d _ => [sNo d]
  | .setp _ _ a b => [sNo a, sNo b]
  | .plog _ _ pa pb => [pNo pa, pNo pb]
  | .loop _ src count _ => if src then [count.toNat % 32] else []
  | .ldw _ a _ => [sNo a]
  | .stw src a _ => [sNo src, sNo a]
  | .dwr _ _ _ src => [sNo src]
  | .movvs _ va _ => [vNo va]
  | _ => []

/-- Destination register and latency (Table 7). -/
def CtlOp.writes : CtlOp → List (Nat × Nat)
  | .alu _ d _ _ => [(sNo d, 1)]
  | .addi d _ _ => [(sNo d, 1)]
  | .li d _ => [(sNo d, 1)]
  | .lui d _ => [(sNo d, 1)]
  | .setp _ pd _ _ => [(pNo pd, 1)]
  | .plog _ pd _ _ => [(pNo pd, 1)]
  | .ldw d _ _ => [(sNo d, 3)]
  | .movvs d _ _ => [(sNo d, 3)]
  | .movls d _ => [(sNo d, 3)]
  | _ => []

def MoveOp.reads : MoveOp → List Nat
  | .strm _ _ sa sb => [sNo sa, sNo sb]
  | .vld _ sa _ => [sNo sa]
  | .vst vs sa _ => [vNo vs, sNo sa]
  | _ => []

def MoveOp.writes : MoveOp → List (Nat × Nat)
  | .vld vd _ _ => [(vNo vd, 4)]
  | _ => []

def VecOp.reads : VecOp → List Nat
  | .bin _ _ va vb _ => [vNo va, vNo vb]
  | .fma _ va vb vc _ => [vNo va, vNo vb, vNo vc]
  | .un _ _ va _ => [vNo va]
  | .bcast _ a _ => [sNo a]
  | .cvt _ va _ _ => [vNo va]
  | .cmp _ va vb _ _ => [vNo va, vNo vb]
  | .sel _ va vb vc => [vNo va, vNo vb, vNo vc]
  | .any _ va => [vNo va]
  | _ => []

/-- The vector register a vector operation writes. -/
def VecOp.dest : VecOp → Option VReg
  | .bin _ vd _ _ _ => some vd
  | .fma vd _ _ _ _ => some vd
  | .un _ vd _ _ => some vd
  | .bcast vd _ _ => some vd
  | .cvt vd _ _ _ => some vd
  | .cmp vd _ _ _ _ => some vd
  | .sel vd _ _ _ => some vd
  | _ => none

def VecOp.writes (op : VecOp) : List (Nat × Nat) :=
  match op with
  | .any pd _ => [(pNo pd, 4)]
  | _ => match op.dest with
    | some vd => [(vNo vd, op.latency)]
    | none => []

def ArrOp.reads : ArrOp → List Nat
  | .arun _ sa sb sc => [sNo sa, sNo sb, sNo sc]
  | _ => []

/-- The bundle with the operations of slots whose guards are false taken out (R72); a LOOP stays, as one of count zero
(R84). -/
def Bundle.acting (b : Bundle) (c : CoreState) : Bundle :=
  { b with
    c := if c.guard b.cg then b.c else (match b.c with
      | .loop ln _ _ last => .loop ln false 0 last
      | _ => .nop)
    m := if c.guard b.mg then b.m else .nop
    v := if c.guard b.vg then b.v else .nop
    a := if c.guard b.ag then b.a else .nop }

def Bundle.reads (b : Bundle) : List Nat := b.c.reads ++ (b.m.reads ++ (b.v.reads ++ b.a.reads))
def Bundle.writes (b : Bundle) : List (Nat × Nat) := b.c.writes ++ (b.m.writes ++ b.v.writes)

/-- The predicates the four guards name. -/
def Bundle.guards (b : Bundle) : List Nat :=
  [b.cg, b.mg, b.vg, b.ag].map (fun g => 32 + (g.extractLsb' 0 3).toNat)

/-- The first fc in which the interlock lets a bundle issue (R75): sources and earlier writes of its destinations are
final, and the special-function unit is free (R97). -/
def CoreState.issueFc (c : CoreState) (whole acting : Bundle) : Nat :=
  let regs := whole.guards ++ (acting.reads ++ acting.writes.map (·.1))
  let t := regs.foldl (fun t r => max t (mget 0 c.ready r)) c.fc
  if acting.v.sfuBusy = 0 then t else max t c.sfuUntil

/-- Two executing slots write one register (R74): the register as TRAP_INFO shows it, bit 7 set for a vector. -/
def Bundle.doubleWrite (b : Bundle) : Option TrapInfo :=
  let cw := b.c.writes.map (·.1)
  let mw := b.m.writes.map (·.1)
  let vw := b.v.writes.map (·.1)
  match vw with
  | [w] => if cw.contains w || mw.contains w then some (1, 2, if 40 ≤ w then w - 40 + 128 else w - 32) else none
  | _ => none

/-! ### Checks on values -/

/-- The near-SRAM address of a scalar or vector access, formed in 32 bits (R78, R92). -/
def ctlAddr (c : CoreState) (a : SReg) (imm : BitVec 12) : Nat := (c.sreg a + imm.signExtend 32 * 4).toNat
def moveAddr (c : CoreState) (a : SReg) (imm : BitVec 11) : Nat := (c.sreg a + imm.signExtend 32 * 512).toNat

/-- Whether a range of near SRAM touches the numerics page (R327). -/
def State.pageHit (s : State) (off n : Nat) : Bool :=
  let a := s.get .NUM_PAGE_ADDR
  s.hasPlan && off < a + 64 && a < off + n

def State.ctlValue (s : State) (c : CoreState) (pc : BitVec 12) (op : CtlOp) : Option TrapInfo :=
  match op with
  | .br _ => if c.active.any (fun l => (c.loopCtr l).last = pc) then some (3, 0, 4) else none
  | .ldw _ a imm =>
    let x := ctlAddr c a imm
    if x % 4 = 0 && x < nearSize then none else some (8, 0, 0)
  | .stw _ a imm =>
    let x := ctlAddr c a imm
    if x % 4 = 0 && x < nearSize && !s.pageHit x 4 then none else some (8, 0, 0)
  | _ => none

def State.moveValue (s : State) (c : CoreState) (op : MoveOp) : Option TrapInfo :=
  match op with
  | .vld _ a imm =>
    let x := moveAddr c a imm
    if x % 512 = 0 && x < nearSize then none else some (8, 1, 0)
  | .vst _ a imm =>
    let x := moveAddr c a imm
    if x % 512 = 0 && x < nearSize && !s.pageHit x 512 then none else some (8, 1, 0)
  | _ => none

def arrValue (c : CoreState) (op : ArrOp) : Option TrapInfo :=
  match op with
  | .arun d sa sb sc =>
    if (c.sreg sa).toNat % 64 = 0 && (c.sreg sb).toNat % 64 = 0 && (c.sreg sc).toNat % 64 = 0 then none
    else some (7, 3, 5 + 256 * d.toNat)
  | _ => none

/-- The first check on values that fails (R74, R78, R87, R92, R98). -/
def State.valueTrap (s : State) (c : CoreState) (pc : BitVec 12) (b : Bundle) : Option TrapInfo :=
  (b.doubleWrite.or (s.ctlValue c pc b.c)).or ((s.moveValue c b.m).or (arrValue c b.a))

/-! ### Stalls (R75, R89, R93, R98, R111, R253) -/

/-- Whether every output of the array has been written and its queue is empty (WAITA). -/
def ArrayState.empty (a : ArrayState) : Bool :=
  a.queue.isEmpty && a.inFlight.isEmpty && a.bank0.phase = .free && a.bank1.phase = .free

/-- A reason to stall that no slot of the bundle can remove: full queues, waits on engines, a post one generation
ahead. -/
def CoreState.stalls (c : CoreState) (b : Bundle) : Bool :=
  (match b.c with
   | .bpost sys id => c.open (barNo sys id)
   | .bsync sys id => !c.posted && c.open (barNo sys id)
   | .waits mask => (List.range 4).any (fun ch => mask.getLsbD ch && !(c.chan ch).isEmpty)
   | .waita => !c.arr.empty
   | _ => false) ||
  (match b.m with
   | .strm _ ch _ _ => 8 ≤ (c.chan ch.toNat).length
   | _ => false) ||
  (match b.a with
   | .arun .. => 4 ≤ c.arr.queue.length
   | _ => false)

/-- A reason to stall on a barrier's release. -/
def CoreState.waits (c : CoreState) (b : Bundle) : Bool :=
  match b.c with
  | .bwait sys id => c.open (barNo sys id)
  | .bsync sys id => c.open (barNo sys id)
  | _ => false

/-- The core at another fc of its own. -/
def CoreState.atFc (c : CoreState) (t : Nat) : CoreState := { c with fc := t }

/-- A stalled fc: the pc stays, STALLED reads 1 and the stall counter runs (R116). -/
def State.stall (s : State) (p : Nat) (bwait : Bool) : State :=
  let c := s.core p
  ((s.setCore p (c.atFc (c.fc + 1))).puts p [(.CORE_STATUS_STALLED, 1), (.CORE_STATUS_IN_BWAIT, if bwait then 1 else 0)]).count
    .CORE_STALLS_COUNT 1 p

/-! ### Effects -/

def AluOp.eval : AluOp → Word → Word → Word
  | .add, a, b => a + b
  | .sub, a, b => a - b
  | .and, a, b => a &&& b
  | .or, a, b => a ||| b
  | .xor, a, b => a ^^^ b
  | .shl, a, b => a <<< (b.toNat % 32)
  | .shr, a, b => a >>> (b.toNat % 32)
  | .mul, a, b => a * b

/-- A 32-bit word of a descriptor replaced (R81). -/
def setDescWord (d : BitVec 256) (w : Nat) (v : Word) : BitVec 256 :=
  (d &&& ~~~(BitVec.ofNat 256 (0xFFFFFFFF * 2 ^ (32 * w)))) ||| BitVec.ofNat 256 (v.toNat * 2 ^ (32 * w))

/-- The control slot's effect on the core's registers and tables, its sources read from `r` (R73); `ld` is the word LDW
read. -/
def CtlOp.effect (op : CtlOp) (r c : CoreState) (ld : Word) : CoreState :=
  match op with
  | .alu o d a b => c.setSreg d (o.eval (r.sreg a) (r.sreg b))
  | .addi d a imm => c.setSreg d (r.sreg a + imm.signExtend 32)
  | .li d imm => c.setSreg d (imm.signExtend 32)
  | .lui d imm => c.setSreg d (imm ++ (r.sreg d).extractLsb' 0 16)
  | .setp cond pd a b => c.setPreg pd (setpCond cond (r.sreg a) (r.sreg b))
  | .plog o pd pa pb => c.setPreg pd (plogOp o (r.preg pa) (r.preg pb))
  | .ldw d _ _ => c.setSreg d ld
  | .dwr table index w src =>
    let v := r.sreg src
    if table then { c with sdesc := mset 0 c.sdesc index.toNat (setDescWord (mget 0 c.sdesc index.toNat) w.toNat v) }
    else { c with adesc := mset 0 c.adesc index.toNat (setDescWord (mget 0 c.adesc index.toNat) w.toNat v) }
  | .movvs d va lane => c.setSreg d ((r.vreg va).getD lane.toNat 0)
  | .movls d ln => c.setSreg d (r.loopCtr ln.toNat).count
  | _ => c

/-- The move slot's effect on registers and queues; `line` holds the lanes VLD read. -/
def MoveOp.effect (op : MoveOp) (r c : CoreState) (pc : BitVec 12) (line : List Word) : CoreState :=
  match op with
  | .strm d ch sa sb =>
    let prim := mget 0 r.sdesc d.toNat
    let ext := if prim.getLsbD 243 && d != 255 then mget 0 r.sdesc (d.toNat + 1) else 0
    c.setChan ch.toNat (c.chan ch.toNat ++
      [{ index := d, prim, ext, srcAdd := r.sreg sa, dstAdd := r.sreg sb, pc, step := r.step, bufSel := r.bufSel,
         started := false, acksLeft := 0, tag := (prim.extractLsb' 244 12).toNat, counts := {} }])
  | .vld vd _ _ => c.setVreg vd line
  | _ => c

/-- The array slot's effect: the descriptor is copied with its three bases moved (R98). -/
def ArrOp.effect (op : ArrOp) (r c : CoreState) (pc : BitVec 12) : CoreState :=
  match op with
  | .arun d sa sb sc =>
    let x := mget 0 r.adesc d.toNat
    let base (lo : Nat) (g : SReg) : Nat := bits x.toNat lo 20 * 64 + (r.sreg g).toNat
    { c with arr := { c.arr with
        queue := c.arr.queue ++ [⟨c.arr.issued, d, x, base 0 sa, base 20 sb, base 40 sc, pc, false⟩]
        issued := c.arr.issued + 1 } }
  | _ => c

/-- The vector slot's effect; with a NaN under NAN_MODE = 0 nothing is written (R167). -/
def VecOp.effect (op : VecOp) (r c : CoreState) (res : List Word × Bool) (keep : Bool) : CoreState :=
  match op with
  | .any pd va => c.setPreg pd ((r.vreg va).any (· != 0))
  | _ => match op.dest with
    | some vd => if res.2 && !keep then c else c.setVreg vd res.1
    | none => c

/-! ### Loops and the next pc (R79, R83 to R87) -/

/-- Whether an address lies in the body of an active loop. -/
def CoreState.inBody (c : CoreState) (l : Nat) (a : Nat) : Bool :=
  (c.loopCtr l).start.toNat < a && a ≤ (c.loopCtr l).last.toNat

/-- A taken branch ends every active loop whose body its target lies outside of, and every loop inside that one (R87). -/
def CoreState.leave (c : CoreState) (target : Nat) : CoreState :=
  { c with active := (c.active.reverse.takeWhile (fun l => c.inBody l target)).reverse }

/-- After the bundle at an end address: the innermost active loop that ends there decrements, and where it finishes the
next outer one that shares the end (R85, R86). Answers the state and the next address. -/
def CoreState.loopEnd (c : CoreState) (pc : Nat) : Nat → CoreState × Nat
  | 0 => (c, pc + 1)
  | k + 1 =>
    match c.active.find? (fun l => (c.loopCtr l).last.toNat = pc) with
    | none => (c, pc + 1)
    | some l =>
      let x := c.loopCtr l
      let c' := c.setLoop l { x with count := x.count - 1 }
      if x.count = 1 then CoreState.loopEnd { c' with active := c.active.erase l } pc k
      else (c', x.start.toNat + 1)

/-- The count of a LOOP (R83). -/
def loopCount (r : CoreState) (src : Bool) (count : BitVec 7) : Word :=
  if src then r.sreg (count.extractLsb' 0 5) else count.setWidth 32

/-- The core after the control flow of its bundle, the next address, and the bubbles (R79, R84). -/
def CoreState.advance (c r : CoreState) (pc : BitVec 12) (op : CtlOp) : CoreState × Nat × Nat :=
  match op with
  | .br target => (c.leave target.toNat, target.toNat, 1)
  | .loop ln src count last =>
    let n := loopCount r src count
    if n = 0 then (c, last.toNat + 1, 1)
    else ({ (c.setLoop ln.toNat ⟨n, pc, last⟩) with active := ln.toNat :: c.active }, pc.toNat + 1, 0)
  | _ =>
    let x := c.loopEnd pc.toNat 5
    (x.1, x.2, 0)

/-! ### The issue -/

/-- The words of a line of bytes. -/
def wordsOf : List Byte → List Word
  | a :: b :: c :: d :: r => (d ++ c ++ b ++ a) :: wordsOf r
  | _ => []

/-- The bytes of words. -/
def bytesOf (ws : List Word) : List Byte := ws.flatMap (fun w => leBytes 4 w.toNat)

/-- What the control and move slots read from near SRAM: the word, the line, and a trap for an uncorrectable error
(R230, R231). -/
def State.slotReads (s : State) (p : Nat) (c : CoreState) (b : Bundle) : State × Word × List Word × Option TrapInfo :=
  let (s, ld, t) := match b.c with
    | .ldw _ a imm =>
      let (s, r) := s.readPhys (nearAddr p (ctlAddr c a imm)) 4
      (match r with
       | some bs => (s, BitVec.ofNat 32 (leNat bs), none)
       | none => (s, 0, some (0x0A, 0, 1)))
    | _ => (s, (0 : Word), (none : Option TrapInfo))
  match b.m with
  | .vld _ a imm =>
    let (s, r) := s.readPhys (nearAddr p (moveAddr c a imm)) 512
    (match r with
     | some bs => (s, ld, wordsOf bs, t)
     | none => (s, ld, [], t.or (some (0x0A, 1, 1))))
  | _ => (s, ld, [], t)

/-- What the move and control slots store to near SRAM; a refused partial write is a trap (R202, R231). -/
def State.slotStores (s : State) (p : Nat) (c : CoreState) (b : Bundle) : State × Option TrapInfo :=
  let (s, t) := match b.m with
    | .vst vs a imm =>
      let (s, ok) := s.writePhys (nearAddr p (moveAddr c a imm)) (bytesOf (c.vreg vs))
      (s, if ok then none else some (0x0A, 1, 4))
    | _ => (s, (none : Option TrapInfo))
  match b.c with
  | .stw src a imm =>
    let (s, ok) := s.writePhys (nearAddr p (ctlAddr c a imm)) (leBytes 4 (c.sreg src).toNat)
    (s, if ok then t else t.or (some (0x0A, 0, 4)))
  | _ => (s, t)

/-- The pc of the next bundle and the issue counter (R116). -/
def State.setPc (s : State) (p a : Nat) : State := s.put .CORE_PC_PC a p

/-- A bundle whose checks and stalls are behind it takes effect, at fc `t` of the core (R71 to R100). -/
def State.issueNow (s : State) (p : Nat) (b : Bundle) (t : Nat) : State :=
  let pc := s.pc p
  let r := s.core p
  let (s, ld, line, bad) := s.slotReads p r b
  match bad with
  | some (cause, slot, info) => s.trap p cause slot info pc.toNat
  | none =>
    let ftz := s.on .CORE_CFG_FTZ p
    let res := b.v.result r.vreg r.sreg ftz s.free
    let keep := s.on .NUM_CFG_NAN_MODE
    let c := b.a.effect r (b.v.effect r (b.m.effect r (b.c.effect r r ld) pc line) res keep) pc
    let (c, next, bubble) := c.advance r pc b.c
    let c := { c with
      fc := t + 1 + bubble
      sfuUntil := if b.v.sfuBusy = 0 then c.sfuUntil else t + b.v.sfuBusy
      posted := false
      ready := b.writes.foldl (fun m w => if w.1 = 0 || w.1 = 32 then m else mset 0 m w.1 (t + w.2)) c.ready }
    let (s, refused) := s.slotStores p r b
    let s := s.useFree b.v.frees
    let s := (s.setCore p c).puts p [(.CORE_STATUS_STALLED, 0), (.CORE_STATUS_IN_BWAIT, 0)]
    let s := (s.count .CORE_ISSUED_COUNT 1 p).setPc p (if 4095 < next then 4095 else next)
    let s := match b.c with
      | .bpost sys id => s.post p (barNo sys id)
      | _ => s
    match refused with
    | some (cause, slot, info) =>
      (if res.2 then s.nanRecord p b.v.nanUnit 2 pc.toNat 0 0 else s).trap p cause slot info pc.toNat
    | none =>
      let s := if res.2 then s.nan p b.v.nanUnit 2 pc.toNat 0 0 else s
      if s.get .CORE_STATUS_STATE p != 1 then s
      else if b.c = .halt then
        let c := s.core p
        ((s.setCore p { c with arr := c.arr.finish }).put .CORE_STATUS_STATE 2 p).checkComplete
      else if 4095 < next then s.trap p 4 0 0 4095
      else s

/-- The core as the checks of the stalls see it: a WAITA lets a held bank drain (R140). -/
def CoreState.beforeStall (c : CoreState) (b : Bundle) : CoreState :=
  if b.c = .waita then { c with arr := c.arr.release } else c

/-- A BSYNC posts in the first fc in which nothing else stalls it (R89, R252). -/
def State.syncPost (s : State) (p : Nat) (b : Bundle) : State :=
  match b.c with
  | .bsync sys id =>
    if (s.core p).posted then s
    else
      let s := s.post p (barNo sys id)
      s.setCore p { (s.core p) with posted := true }
  | _ => s

/-- Core p issues a bundle: nothing while it does not run; else the checks, the interlock and the stalls in the order
encoding, values, stalls, barrier waits (log entry 24). -/
def State.issue (s : State) (p : Nat) (b : Bundle) : State :=
  if s.get .CORE_STATUS_STATE p != 1 then s
  else
    let pc := s.pc p
    match s.encodingTrap p b with
    | some (cause, slot, info) => s.trap p cause slot info pc.toNat
    | none =>
      let c := s.core p
      let act := b.acting c
      let t := c.issueFc b act
      let s := s.count .CORE_STALLS_COUNT (t - c.fc) p
      let s := s.setCore p (c.atFc t)
      match s.valueTrap c pc act with
      | some (cause, slot, info) => s.trap p cause slot info pc.toNat
      | none =>
        let c := s.core p
        let c := c.beforeStall act
        let s := s.setCore p c
        if c.stalls act then s.stall p false
        else
          let s := s.syncPost p act
          if (s.core p).waits act then s.stall p true
          else s.issueNow p act t

/-! ### A core-slot row: its slot in the bundle at the core's pc -/

def State.issueCtl (s : State) (p : PCore) (g : Guard) (op : CtlOp) : State :=
  s.issue p.no { s.bundleAt p.no with cg := g, c := op }
def State.issueMove (s : State) (p : PCore) (g : Guard) (op : MoveOp) : State :=
  s.issue p.no { s.bundleAt p.no with mg := g, m := op }
def State.issueVec (s : State) (p : PCore) (g : Guard) (op : VecOp) : State :=
  s.issue p.no { s.bundleAt p.no with vg := g, v := op }
def State.issueArr (s : State) (p : PCore) (g : Guard) (op : ArrOp) : State :=
  s.issue p.no { s.bundleAt p.no with ag := g, a := op }

end Sys2Proof.Machine
end

