-- ==== Sys2Proof/Machine/MeshPath.lean ====
section
/-!
DEFINITION. What the units on the mesh share (R236 to R244, R261, R266, R267): how routers join, where a flit's path leads,
drops, acknowledgements, and what a write does where it arrives.
-/
namespace Sys2Proof.Machine

/-- Where a router output leads. -/
inductive Joint where
  | router (r input : Nat)
  /-- the local port or the spine: the destination is here -/
  | here
  | bridge (b : Nat)
  /-- the host bridge, which takes MAINT only -/
  | host
  | port (n : Nat)
  | nothing
deriving DecidableEq, Repr

/-- The edge bridge behind output `out` (0 N, 1 E, 2 S, 3 W) of the router at (x, y) (Table 2 of "Near SRAM, Stacked
SRAM and the Memory Ring"). -/
def bridgeAt (x y out : Nat) : Option Nat :=
  let t := posTile x y
  let mid := tileStart t + 12 ≤ x && x ≤ tileStart t + 27
  let hit := (out = 0 && y = 0 && mid) || (out = 2 && y = 95 && mid) ||
    (out = 3 && [5, 12, 20, 28].contains t && x = tileStart t) ||
    (out = 1 && [11, 19, 27, 34].contains t && x = tileStart t + 39)
  if hit then some (edgeTiles.idxOf t) else none

/-- The router a step away in a direction. -/
def stepTo (x y out : Nat) : Option (Nat × Nat) :=
  if out = 0 then (if 0 < y && posExists x (y - 1) then some (x, y - 1) else none)
  else if out = 1 then (if posExists (x + 1) y then some (x + 1, y) else none)
  else if out = 2 then (if posExists x (y + 1) then some (x, y + 1) else none)
  else if out = 3 then (if 0 < x && posExists (x - 1) y then some (x - 1, y) else none)
  else none

/-- The input of the neighbour that an output reaches: N reaches S, E reaches W. -/
def facing (out : Nat) : Nat := (out + 2) % 4

/-- What a grid router's output joins (R236). -/
def joint (r out : Nat) : Joint :=
  if 40000 ≤ r then .here
  else if out = 4 || out = 5 then .here
  else if out = 6 then (match routerPort r with
    | some n => .port n
    | none => .nothing)
  else
    match stepTo (r % 320) (r / 320) out with
    | some (x, y) => .router (gridRouter x y) (facing out)
    | none => (match bridgeAt (r % 320) (r / 320) out with
      | some b => .bridge b
      | none => if out = 0 && r / 320 = 0 && 144 ≤ r % 320 && r % 320 ≤ 147 then .host else .nothing)

/-- A region whose clock stands still (R266). -/
def State.stopped (s : State) (reg : Nat) : Bool := !s.on .PWR_REGION_CLK reg

/-- The image whose tables the routers hold: the loaded one, or one whose load ended after they were written (R375). -/
def State.routing (s : State) : Option Image := s.image.orElse (fun _ => s.left)

/-- The node that a router holds for a barrier. -/
def State.barNode (s : State) (bar r : Nat) : Option NodeRec :=
  s.routing.bind (fun im => im.nodes.find? (fun n => n.id + (if n.sys then 256 else 0) = bar && gridRouter n.at'.x n.at'.y = r))

/-- The outputs of a tree's fork entry at a router; none where it holds no entry. -/
def State.forkOuts (s : State) (t r : Nat) : Option (List Nat) :=
  (s.routing.bind (fun im => im.forks.find? (fun e => gridRouter e.at'.x e.at'.y = r && e.tree = t))).map
    (fun e => (List.range 6).filter (fun o => Nat.testBit e.out o))

/-- The outputs a flit wants at a router: its route's output, its tree's fork mask, the release outputs of its barrier's
node (R241, R258). DESIGN CHOICE (log entry 137): a tree needs a fork entry at every router it passes. -/
def State.wants (s : State) (r : Nat) (f : Flit) : List Nat :=
  match f.path with
  | .route id =>
    ((s.routing.bind (fun im => im.routes.find? (fun e => gridRouter e.at'.x e.at'.y = r && e.route = id && e.vc = f.vc.no))).map
      (fun e => [e.out])).getD []
  | .tree t => (s.forkOuts t r).getD []
  | .release bar => ((s.barNode bar r).map (fun n => (List.range 7).filter (fun o => n.release.testBit o))).getD []
  | .hop out => [out]
  | .unit _ => []

/-- A flit goes to every output it wants at once (R258, R259). -/
def Flit.forks (f : Flit) : Bool :=
  match f.path with
  | .tree _ => true
  | .release _ => true
  | _ => false

/-- The units of a router take in a flit that has reached it by an input: its barrier entry one of its gather inputs, its
fork entry an acknowledgement from one of its branches, a root the system's release. -/
def State.taken (s : State) (r : Nat) (f : Flit) : Bool :=
  match f.path, f.load with
  | .unit i, .arrival bar _ => (s.barNode bar r).any (fun n => n.inputs.testBit i)
  | .unit i, .leafAck t => (s.forkOuts t r).any (fun os => os.contains i)
  | .unit _, .release bar _ _ => (s.barNode bar r).isSome
  | _, _ => false

def Router.held (x : Router) (out vc : Nat) : List Flit := mget [] x.hold (slotKey out vc)
def Router.setHeld (x : Router) (out vc : Nat) (q : List Flit) : Router :=
  { x with hold := mset [] x.hold (slotKey out vc) q }
def Router.usedAt (x : Router) (out vc : Nat) : Nat := mget 0 x.used (slotKey out vc)
def Router.setUsed (x : Router) (out vc n : Nat) : Router := { x with used := mset 0 x.used (slotKey out vc) n }

/-- A flit that a link brings into an input buffer of a router: one for the units there keeps the input it came by. -/
def State.enter (s : State) (r input : Nat) (f : Flit) : State :=
  let f := match f.path with
    | .hop _ => { f with path := .unit input }
    | _ => f
  let x := s.router r
  s.setRouter r (x.setInput input f.vc.no (x.input input f.vc.no ++ [f]))

/-- A dropped flit (R267): counted; the first drop of a region records its slot and cause and is logged. A drop while a job
runs faults it (R241; 5, lost planned route); once it has faulted, as under R266, a drop raises no further fault (R484). Causes: 1 no route entry, 2 stopped
region, 3 unconnected port. -/
def State.drop (s : State) (r cause : Nat) : State :=
  let reg := routerRegion r
  let first := s.get .MESH_DROP_COUNT reg = 0
  let s := s.bump .MESH_DROP_COUNT 1 reg
  let s := if first then s.puts reg [(.MESH_DROP_SLOT, coreSlot (routerCore r)), (.MESH_DROP_CAUSE, cause)] else s
  let s := if first || s.job then s.crossEvent reg (·.event 0x0403 (if s.job then clsJ else clsNone) reg cause 0) else s
  if s.job then s.classJ 5 reg else s

/-! ### Acknowledgement and delivery (R111, R244, R261, R288) -/

/-- Writers behind a port have numbers from here on. -/
def fibreOwner : Nat := 2 ^ 20

/-- One acknowledgement reaches the stream channel that waits for it (R111). -/
def State.acked (s : State) (owner : Nat) : State :=
  let p := owner / 4
  let c := s.core p
  match c.chan (owner % 4) with
  | j :: rest => s.setCore p (c.setChan (owner % 4) ({ j with acksLeft := j.acksLeft - 1 } :: rest))
  | [] => s

/-- The writer that an owner number names. -/
def ownerCore (o : Nat) : PCore :=
  let p := o % fibreOwner / 4
  ⟨Fin.ofNat 40 (p / 17 / 40), Fin.ofNat 40 (p / 17 % 40), Fin.ofNat 17 (p % 17)⟩

/-- The flit on the fibre that acknowledges a writer behind a port. -/
def fibreAck (vc : Vc) (farRoute : BitVec 8) (writer : PCore) (chan : Fin 4) : FibrePacket :=
  { kind := .ack
    farRoute
    vc
    egress := 0
    offset := 0
    data := []
    glazes := []
    last := true
    writer
    chan
    seq := 0
    credits := []
    replay := none }

/-- The route to a port that the image plans at a router on a channel: that of a source entry whose core's router it is
(R288, R369). -/
def State.portRoute (s : State) (r n : Nat) (vc : Vc) : Option Nat :=
  (s.image.bind (fun im => im.sources.find? (fun e =>
    e.destKind = 2 && e.dest = n && e.vc = vc.no && (s.attach (s.crefCore e.core)).1 = r))).map (·.route)

/-- A flit joins a port's transmit side. -/
def State.toPort (s : State) (n : Nat) (f : Flit) : State :=
  let p := s.port n
  s.setPort n { p with tx := mset [] p.tx f.vc.no (mget [] p.tx f.vc.no ++ [f]) }

/-- An acknowledgement sets out from a router towards a port: over the mesh by the route planned there, or, where none is
planned, at once (log entry 31). -/
def State.ackPort (s : State) (r input n : Nat) (k : FibrePacket) : State :=
  match s.portRoute r n k.vc with
  | some id => s.injectAt r input [⟨k.vc, .route id, .onward k, true, 0, 0⟩]
  | none => s.toPort n ⟨k.vc, .route 0, .onward k, true, 0, 0⟩

/-- Where a tree comes from at a router: the direction of the router whose fork leads to it; none at the root. -/
def State.treeParent (s : State) (t r : Nat) : Option Nat :=
  (List.range 4).find? (fun o => match joint r o with
    | .router q input => (s.forkOuts t q).any (fun os => os.contains input)
    | _ => false)

/-- A branch of a tree acknowledges its oldest packet: once every branch of the router has, one acknowledgement goes
towards the root, and at the root the writer has it (R261). -/
def State.leafAcked (s : State) (t r branch owner : Nat) : State :=
  let key (b : Nat) : Nat := t * 8 + b
  let x := s.router r
  let acks := mset [] x.treeAcks (key branch) (mget [] x.treeAcks (key branch) ++ [owner])
  let bs := (s.forkOuts t r).getD []
  if bs.all (fun b => !(mget [] acks (key b)).isEmpty) then
    let s := s.setRouter r { x with treeAcks := bs.foldl (fun m b => mset [] m (key b) (mget [] m (key b)).tail) acks }
    match s.treeParent t r with
    | some out => s.injectAt r 4 [⟨.plan, .hop out, .leafAck t, true, owner, 0⟩]
    | none => s.acked owner
  else s.setRouter r { x with treeAcks := acks }

/-- Sends the acknowledgement of a packet whose last flit was accepted at router r; `input` is where its flit enters. -/
def State.acknowledge (s : State) (r input : Nat) (f : Flit) : State :=
  if !f.last then s
  else if fibreOwner ≤ f.owner then
    s.ackPort r input (f.owner / fibreOwner - 1) (fibreAck f.vc (BitVec.ofNat 8 f.ackRoute) (ownerCore f.owner) (Fin.ofNat 4 f.owner))
  else
    match f.path with
    | .tree t => s.leafAcked t r input f.owner
    | _ => s.injectAt r input [⟨f.vc, .route f.ackRoute, .ack, true, f.owner, 0⟩]

/-- A write that a destination refuses because of an uncorrectable error traps its writer (R202, R230); after the job's fault
no flit in flight raises another (R484). -/
def State.refusedWrite (s : State) (owner : Nat) : State :=
  if !s.job || fibreOwner ≤ owner then s
  else
    match (s.core (owner / 4)).chan (owner % 4) with
    | j :: _ => s.trap (owner / 4) 0x0A 1 (4 + 256 * j.index.toNat) j.pc.toNat
    | [] => s

/-- Notes a core's write into a pair half: the half was last written in the present step (R506). Halves are numbered
2 × table entry + half. -/
def State.notePair (s : State) (a : Nat) : State :=
  match (s.tables.mapIdx (fun i e => (i, e))).findSome? (fun x =>
      if x.2.kind != 1 then none
      else if x.2.base * 4096 ≤ a && a < (x.2.base + x.2.length) * 4096 then some (2 * x.1)
      else if x.2.base2 * 4096 ≤ a && a < (x.2.base2 + x.2.length) * 4096 then some (2 * x.1 + 1)
      else none) with
  | some h => { s with pairs := mset {} s.pairs h ⟨false, some s.stepCount⟩ }
  | none => s

/-- Stores bytes at a module address; false where an uncorrectable word refuses them. -/
def State.storeAt (s : State) (addr : Nat) (bs : List Byte) : State × Bool :=
  if bs.isEmpty then (s, true)
  else
    match (s.place addr).phys with
    | some a => if nearBase ≤ a then s.writePhys a bs else (s.notePair a).writePhys a bs
    | none => (s, true)

end Sys2Proof.Machine
end

