-- ==== Sys2Proof/Machine/StreamOps.lean ====
section
/-!
DEFINITION. What a stream descriptor does (R104 to R114, R285, R310, R313, R327): its fields, the ranges it touches,
step-table translation, the checks in order, conversion of its elements, and the writes to its destination.
-/
namespace Sys2Proof.Machine

/-- A stream descriptor (Tables 10 and 11 of "The Core"), its bases moved by the STRM scalars. -/
structure SDesc where
  src : Nat
  dst : Nat
  count0 : Nat
  count1 : Nat
  count2 : Nat
  count3 : Nat
  str1 : Int
  str2 : Int
  str3 : Int
  srcFmt : Nat
  dstFmt : Nat
  blkCode : Nat
  mx : Bool
  e5Inf : Bool
  vc : Nat
  mcast : Bool
  tree : Nat
  skew : Bool
  ext : Bool
  tag : Nat
  srcGlaze : Nat
  dstGlaze : Nat
  dstr1 : Int
  dstr2 : Int
  dstr3 : Int
  strided : Bool
deriving DecidableEq, Repr

/-- The fields of a queued descriptor (R93, R104). -/
def StreamJob.desc (j : StreamJob) : SDesc :=
  let a := j.prim.toNat
  let b := if j.prim.getLsbD 243 then j.ext.toNat else 0
  { src := bits a 0 48 + j.srcAdd.toNat
    dst := bits a 48 48 + j.dstAdd.toNat
    count0 := bits a 96 16
    count1 := bits a 112 12
    count2 := bits a 124 12
    count3 := bits a 136 12
    str1 := signed (bits a 148 23) 23
    str2 := signed (bits a 171 23) 23
    str3 := signed (bits a 194 23) 23
    srcFmt := bits a 219 4
    dstFmt := bits a 223 4
    blkCode := bits a 227 2
    mx := Nat.testBit a 229
    e5Inf := Nat.testBit a 230
    vc := bits a 231 2
    mcast := Nat.testBit a 233
    tree := bits a 234 8
    skew := Nat.testBit a 242
    ext := Nat.testBit a 243
    tag := bits a 244 12
    srcGlaze := bits b 0 48
    dstGlaze := bits b 48 48
    dstr1 := signed (bits b 96 23) 23
    dstr2 := signed (bits b 119 23) 23
    dstr3 := signed (bits b 142 23) 23
    strided := Nat.testBit b 165 }

def SDesc.empty (d : SDesc) : Bool := d.count0 = 0 || d.count1 = 0 || d.count2 = 0 || d.count3 = 0
def SDesc.blk (d : SDesc) : Nat := glazeBlock d.blkCode

/-- Number of rows of dimension 0, and of elements. -/
def SDesc.rows (d : SDesc) : Nat := d.count1 * d.count2 * d.count3

/-- The n-th row in traversal order as (i1, i2, i3) (R106). -/
def SDesc.index (d : SDesc) (n : Nat) : Nat × Nat × Nat := (n % d.count1, n / d.count1 % d.count2, n / d.count1 / d.count2)

/-- Byte offset of a row from its base, by strides. -/
def rowOffset (s1 s2 s3 : Int) (i : Nat × Nat × Nat) : Int := i.1 * s1 + i.2.1 * s2 + i.2.2 * s3

/-- Lowest offset and highest offset of the rows. -/
def SDesc.spread (d : SDesc) (s1 s2 s3 : Int) : Int × Int :=
  let t (s : Int) (c : Nat) : Int := s * ((c : Int) - 1)
  (min 0 (t s1 d.count1) + min 0 (t s2 d.count2) + min 0 (t s3 d.count3),
   max 0 (t s1 d.count1) + max 0 (t s2 d.count2) + max 0 (t s3 d.count3))

/-- Elements the destination holds: with SKEW the pre-skewed layout (R114). -/
def SDesc.dstCount (d : SDesc) : Nat := if d.skew then (d.rows + 31) * 32 else d.rows * d.count0

/-- Lowest and highest byte offset of the source and of the destination elements (R110). -/
def SDesc.srcSpan (d : SDesc) : Int × Int :=
  let (lo, hi) := d.spread d.str1 d.str2 d.str3
  (lo, hi + d.count0 * fmtBytes d.srcFmt - 1)
def SDesc.dstSpan (d : SDesc) : Int × Int :=
  if d.strided then
    let (lo, hi) := d.spread d.dstr1 d.dstr2 d.dstr3
    (lo, hi + d.count0 * fmtBytes d.dstFmt - 1)
  else (0, d.dstCount * fmtBytes d.dstFmt - 1)

/-- A range of module addresses, none where it leaves the 48 bits. -/
def range48 (base : Nat) (span : Int × Int) : Option (Nat × Nat) :=
  let lo := base + span.1
  let hi := base + span.2
  if lo < 0 || 2 ^ 48 ≤ hi then none else some (lo.toNat, hi.toNat)

/-- The glaze bytes of a span of elements (R107). -/
def glazeSpan (blk : Nat) (span : Int × Int) : Int × Int := (span.1.fdiv blk, span.2.fdiv blk)

/-- The step-table translation of a range (R310): what to add to its addresses, and whether it lies in a UNIQUE range;
none where it lies partly inside one half, step window or unique range. -/
def translate (tab : List StepEntry) (step : Nat) (buf : Bool) (lo hi : Nat) : Option (Int × Bool) :=
  match tab with
  | [] => some (0, false)
  | e :: rest =>
    let b := e.base * 4096
    let n := e.length * 4096
    let inside (a len : Nat) : Bool := a ≤ lo && hi < a + len
    let touches (a len : Nat) : Bool := lo < a + len && a ≤ hi
    match e.kind with
    | 1 =>
      let b2 := e.base2 * 4096
      let d : Int := (b2 : Int) - b
      if inside b n then some (if buf then d else 0, false)
      else if inside b2 n then some (if buf then -d else 0, false)
      else if touches b n || touches b2 n then none
      else translate rest step buf lo hi
    | 2 =>
      let w := e.slots * n
      if inside b w then some (((e.slots * step) % (e.slots * e.depth) * n : Nat), false)
      else if touches b w then none
      else translate rest step buf lo hi
    | 3 =>
      if inside b n then some (0, true)
      else if touches b n then none
      else translate rest step buf lo hi
    | _ => translate rest step buf lo hi

/-- A range after translation: its first and last address and the UNIQUE mark. Only ring addresses are translated. -/
def State.xlate (s : State) (j : StreamJob) (r : Nat × Nat) : Option (Nat × Nat × Bool) :=
  if s.ringTop ≤ r.1 then some (r.1, r.2, false)
  else (translate s.tables j.step.toNat j.bufSel r.1 r.2).map
    (fun t => (((r.1 : Int) + t.1).toNat, ((r.2 : Int) + t.1).toNat, t.2))

/-- The first address of every 1 MiB piece of a range. -/
def pieces (lo hi : Nat) : List Nat := (List.range (hi / nearSize - lo / nearSize + 1)).map (fun i => if i = 0 then lo else (lo / nearSize + i) * nearSize)

/-- The channel of a descriptor's VC code (R244, R369). -/
def SDesc.channel (d : SDesc) : Vc := if d.vc = 0 then .plan else if d.vc = 1 then .grad else .maint

/-- The source entry of a core for a destination (R241, R369). -/
def State.sourceEntry (s : State) (p kind dest vc : Nat) : Option SourceRec :=
  s.image.bind (fun im => im.sources.find? (fun e =>
    s.crefCore e.core = p && e.vc = vc && e.destKind = kind && e.dest = dest))

/-- Every granule of a ring range has a planned route to its bridge (R211). -/
def State.ringPlanned (s : State) (p : Nat) (d : SDesc) (lo hi : Nat) : Bool :=
  (List.range (min (hi / 4096 - lo / 4096 + 1) 36)).all (fun i =>
    (s.sourceEntry p 1 (stackBridge (s.ringLoc ((lo / 4096 + i) * 4096)).1) d.channel.no).isSome)

/-- Whether the core reaches a place without the mesh (R108). -/
def State.direct (s : State) (p a : Nat) : Bool :=
  match s.place a with
  | .near q _ => q = p
  | .stacked c _ => c = p / 17
  | _ => false

/-- A source or glaze range that the stream engine may read (R108, R217). -/
def State.readable (s : State) (p : Nat) (d : SDesc) (lo hi : Nat) : Bool :=
  if lo < s.ringTop then hi < s.ringTop && s.ringPlanned p d lo hi
  else (pieces lo hi).all (s.direct p)

/-- The remote-target entries of a core (R284). -/
def State.remoteFor (s : State) (p : Nat) (d : SDesc) (lo hi : Nat) : Option RemoteTarget :=
  ((s.core p).remotes.map (·.2)).find?
    (fun t => t.length != 0 && t.vc + 1 = d.channel.no && t.localBase ≤ lo && hi < t.localBase + t.length * 2048)

/-- A range that lies partly in a remote-target range (R285). -/
def State.remotePart (s : State) (p : Nat) (lo hi : Nat) : Bool :=
  (s.core p).remotes.any (fun e =>
    let t := e.2
    let top := t.localBase + t.length * 2048
    t.length != 0 && lo < top && t.localBase ≤ hi && !(t.localBase ≤ lo && hi < top))

/-- A module-address range that touches the numerics page of a used core (R327). -/
def State.hitsPage (s : State) (lo hi : Nat) : Bool :=
  s.hasPlan && (pieces lo hi).any (fun a => match s.place a with
    | .near q off => s.usedCores.contains q && s.pageHit off (min (hi - a + 1) (nearSize - off))
    | _ => false)

/-- The regions the loaded image sets to Run (R217, R367). -/
def State.regionRuns (s : State) (r : Nat) : Bool :=
  s.image.any (fun im => im.regions.any (fun e => e.region = r && e.state = 3))

/-- A destination or glaze range that the stream engine may write (R108, R211, R217, R241, R327). -/
def State.writable (s : State) (p : Nat) (d : SDesc) (lo hi : Nat) : Bool :=
  if lo < s.ringTop then hi < s.ringTop && s.ringPlanned p d lo hi
  else if (s.remoteFor p d lo hi).isSome && !(pieces lo hi).all (s.direct p) then true
  else !s.hitsPage lo hi && (pieces lo hi).all (fun a => match s.place a with
    | .near q _ => q = p || ((s.sourceEntry p 0 (q / 17) d.channel.no).isSome && !clusterLost s.loadedDefects (q / 17) && s.regionRuns (coreRegion q))
    | .stacked c _ => c = p / 17 || ((s.sourceEntry p 0 c d.channel.no).isSome && !clusterLost s.loadedDefects c && s.regionRuns (clusterRegion c))
    | _ => false)

/-- Which memory tier a module address is in: 0 near, 1 stacked, 2 ring, 3 none. -/
def State.tierOf (s : State) (a : Nat) : Nat :=
  match s.place a with
  | .near _ _ => 0
  | .stacked _ _ => 1
  | .ring _ => 2
  | _ => 3

/-- A core of a teacher region of a distillation image (R347, R351). -/
def State.teaches (s : State) (p : Nat) : Bool :=
  s.image.any (fun im => im.tender.isSome && im.regions.any (fun e => e.region = coreRegion p && e.role = 1))

/-- A range of ring addresses that touches a frozen range of the loaded image (R349, R350). -/
def State.hitsFrozen (s : State) (lo hi : Nat) : Bool :=
  lo < s.ringTop && (s.image.bind (·.tender)).any (fun t => t.frozen.any (fun f =>
    f.2 != 0 && decide (lo < (f.1 + f.2) * 4096) && decide (f.1 * 4096 ≤ hi)))

/-- A translated range is in order for reading: `none` stands for a range that left the address space or the table, and a
teacher's core keeps off the UNIQUE ranges (R110, R351). -/
def State.srcOk (s : State) (p : Nat) (j : StreamJob) (r : Option (Nat × Nat)) : Bool :=
  match r.bind (s.xlate j) with
  | some (lo, hi, unique) => s.readable p j.desc lo hi && !(unique && s.teaches p)
  | none => false

/-- A translated range is in order for writing (R110, R285, R310): never a frozen one (R350), and from a teacher's core no
ring address at all (R351). -/
def State.dstOk (s : State) (p : Nat) (j : StreamJob) (r : Option (Nat × Nat)) : Bool :=
  match r.bind (s.xlate j) with
  | some (lo, hi, unique) => s.writable p j.desc lo hi && !(s.remotePart p lo hi) && (!unique || (s.core p).mayWriteUnique) &&
      !(s.hitsFrozen lo hi) && !(s.teaches p && decide (lo < s.ringTop))
  | none => false

/-- A multicast range in the local view of the leaves (R109). DESIGN CHOICE (log entry 146): the glaze plane of a glazed
DST_FMT lies in that view too. -/
def State.leafOk (s : State) (r : Option (Nat × Nat)) : Bool :=
  match r with
  | some (lo, hi) => hi < stackedSize + nearSize &&
      !(stackedSize ≤ hi && s.pageHit (lo - stackedSize) (hi + 1 - max lo stackedSize))
  | none => false

/-- The address checks (subcode 0x04). -/
def State.streamPlaces (s : State) (p : Nat) (j : StreamJob) : Bool :=
  let d := j.desc
  let src := range48 d.src d.srcSpan
  let dst := range48 d.dst d.dstSpan
  let gs := range48 d.srcGlaze (glazeSpan d.blk d.srcSpan)
  let gd := range48 d.dstGlaze (glazeSpan d.blk d.dstSpan)
  d.empty ||
  (s.srcOk p j src && (!fmtGlazed d.srcFmt || (s.srcOk p j gs && s.tierOf d.src = s.tierOf d.srcGlaze)) &&
    (if d.mcast then s.leafOk dst && (!fmtGlazed d.dstFmt || (s.leafOk gd && (d.dst < stackedSize) = (d.dstGlaze < stackedSize)))
     else s.dstOk p j dst && (!fmtGlazed d.dstFmt || (s.dstOk p j gd && s.tierOf d.dst = s.tierOf d.dstGlaze))))

/-- The remote target that a written range of a descriptor goes to: none where the core reaches all of it by itself. -/
def State.streamRemote (s : State) (p : Nat) (d : SDesc) (r : Option (Nat × Nat)) : Option RemoteTarget :=
  if d.mcast then none
  else r.bind (fun r => if r.1 < s.ringTop || (pieces r.1 r.2).all (s.direct p) then none else s.remoteFor p d r.1 r.2)

/-- Alignment of a glazed side (R107). -/
def glazeAligned (blk base : Nat) (s1 s2 s3 : Int) : Bool :=
  base % blk = 0 && s1 % blk = 0 && s2 % blk = 0 && s3 % blk = 0

/-- The subcode of the first check that a descriptor fails (R105, R107 to R110, R113, R114, R178, R285; the order is the
model's, log entry 26). -/
def State.streamBad (s : State) (p : Nat) (j : StreamJob) : Option Nat :=
  let d := j.desc
  let glz := fmtGlazed d.srcFmt || fmtGlazed d.dstFmt
  let egress : Bool := (s.streamRemote p d (range48 d.dst d.dstSpan)).any (fun t => t.egress != 0 &&
      !(d.dstFmt = 0 && !d.strided && d.dst % 128 = 0 && (d.dstCount * 4) % 128 = 0)) ||
    (fmtGlazed d.dstFmt && (s.streamRemote p d (range48 d.dstGlaze (glazeSpan d.blk d.dstSpan))).any (fun t => t.egress != 0))
  let own : Bool := match (range48 d.dst d.dstSpan) with
    | some (lo, hi) => (pieces lo hi).all (fun a => match s.place a with
      | .near q _ => q = p
      | _ => false)
    | none => false
  if (glz && !d.ext) || (d.ext && j.index = 255) then some 6
  else if fmtReserved d.srcFmt || fmtReserved d.dstFmt || (d.mx && (d.srcFmt = 0xA || d.dstFmt = 0xA)) then some 1
  else if !convAllowed d.srcFmt d.dstFmt then some 2
  else if d.vc = 3 || (d.mcast && (d.vc != 0 || d.strided)) then some 7
  else if d.mcast && !(s.image.any (fun im => im.trees.any (fun t => t.tree = d.tree))) then some 8
  else if d.skew && !(d.count0 = 32 && !d.strided && !glz && !d.mcast && (d.empty || own)) then some 9
  else if d.mx && d.blkCode != 1 then some 0xB
  else if fmtGlazed d.srcFmt && !(glazeAligned d.blk d.src d.str1 d.str2 d.str3 && d.count0 % d.blk = 0) then some 5
  else if fmtGlazed d.dstFmt && !((if d.strided then glazeAligned d.blk d.dst d.dstr1 d.dstr2 d.dstr3 else d.dst % d.blk = 0) && d.count0 % d.blk = 0) then some 5
  else if egress then some 5
  else if !s.streamPlaces p j then some 4
  else none

/-! ### Reading the source -/

/-- The elements that bytes spell, n bytes each. -/
def chunkNat (n : Nat) (bs : List Byte) : List Nat :=
  (List.range (bs.length / n)).map (fun i => leNat ((bs.drop (i * n)).take n))

/-- A range of n bytes cut at multiples of g: addresses and lengths. -/
def cutRange (g a n : Nat) : List (Nat × Nat) :=
  if n = 0 then []
  else
    (List.range ((a + n - 1) / g - a / g + 1)).map (fun i =>
      let lo := if i = 0 then a else (a / g + i) * g
      (lo, min ((a / g + i + 1) * g) (a + n) - lo))

/-- The n bytes at an address from the pieces that came over the mesh; none where one of them is uncorrectable. -/
def gotBytes (got : List (Nat × Option (List Byte))) (a n : Nat) : Option (List Byte) :=
  (cutRange 128 a n).foldl (fun acc x => acc.bind (fun bs =>
    ((got.find? (fun g => g.1 = x.1 && g.2.all (fun l => l.length = x.2))).bind (·.2)).map (bs ++ ·))) (some [])

/-- Reads n bytes at a module address that the checks have passed, in pieces that each lie in one window (R101, R108); those
of the ring have come over the mesh. -/
def State.fetch (s : State) (got : List (Nat × Option (List Byte))) (a n : Nat) : State × Option (List Byte) :=
  if n = 0 then (s, some [])
  else if a < s.ringTop then (s, gotBytes got a n)
  else (pieces a (a + n - 1)).foldl (fun acc b =>
    let len := min (a + n) ((b / nearSize + 1) * nearSize) - b
    match acc.2, (s.place b).phys with
    | none, _ => acc
    | some bs, none => (acc.1, some (bs ++ List.replicate len 0))
    | some bs, some q =>
      let (s', r) := acc.1.readPhys q len
      (s', r.map (bs ++ ·))) (s, some [])

/-- Reads every row: bytes, in traversal order; none where a word or line is uncorrectable, with the address met. -/
def State.fetchRows (s : State) (got : List (Nat × Option (List Byte))) (addrs : List Nat) (n : Nat) :
    State × Option (List (List Byte)) × Nat :=
  addrs.foldl (fun acc a =>
    match acc.2.1 with
    | none => acc
    | some rs =>
      let (s', r) := acc.1.fetch got a n
      match r with
      | some bs => (s', some (rs ++ [bs]), 0)
      | none => (s', none, a)) (s, some [], 0)

/-- A source element as a value (R162, R165, R168). -/
def SDesc.value (d : SDesc) (ftz : Bool) (x g : Nat) : FVal :=
  if fmtGlazed d.srcFmt then glazedSource d.srcFmt d.mx g x
  else if d.srcFmt = 0 then ofFp32 (flush32 ftz (BitVec.ofNat 32 x))
  else plainValue d.srcFmt x

/-! ### Converting (R113, R164 to R180, R333) -/

/-- What a row becomes: element patterns, glaze bytes, counts, and the NaN flag. -/
structure RowOut where
  elems : List Nat
  glazes : List Nat
  counts : Counts
  nan : Bool
deriving DecidableEq, Repr

/-- Lists of n elements each. -/
def groupsOf {α : Type} (n : Nat) (xs : List α) : List (List α) :=
  (List.range ((xs.length + n - 1) / n)).map (fun i => (xs.drop (i * n)).take n)

/-- A zero pattern of a plain floating-point code, either sign. -/
def zeroPattern (code x : Nat) : Bool := x % 2 ^ (8 * fmtBytes code - 1) = 0

/-- The crumb of R333: a conversion to FP16, BF16, E4M3 or E5M2 that writes zero from a non-zero source, under an update
tag. -/
def updateCrumb (update : Bool) (code : Nat) (v : FVal) (x : Nat) : Nat :=
  if update && 1 ≤ code && code ≤ 4 && !v.isZero && zeroPattern code x then 1 else 0

/-- Values written in a plain format: patterns, counts, NaN. -/
def writePlain (code : Nat) (e5Inf ftz update : Bool) (vs : List FVal) : RowOut :=
  vs.foldr (fun v r =>
    let (x, ev) := convert code e5Inf v
    let x := if code = 0 then (flush32 ftz (BitVec.ofNat 32 x)).toNat else x
    let c := r.counts.event ev
    ⟨x :: r.elems, [], { c with crumbs := c.crumbs + updateCrumb update code v x }, r.nan || ev = .nan⟩) ⟨[], [], {}, false⟩

/-- Values written in a glazed format, block by block. -/
def writeGlazed (code blk : Nat) (mx e5Inf : Bool) (vs : List FVal) : RowOut :=
  (groupsOf blk vs).foldr (fun b r =>
    let o := writeBlock code mx e5Inf b
    ⟨o.elems ++ r.elems, o.glaze :: r.glazes, o.counts.merge r.counts, o.nan || r.nan⟩) ⟨[], [], {}, false⟩

/-- A row converted; one of equal formats is moved unchanged (R168). -/
def SDesc.convertRow (d : SDesc) (ftz update : Bool) (xs gs : List Nat) : RowOut :=
  if d.srcFmt = d.dstFmt then ⟨xs, gs, {}, false⟩
  else
    let vs := xs.mapIdx (fun i x => d.value ftz x (gs.getD (i / d.blk) 0))
    let src := vs.any FVal.isNan
    let o := if fmtGlazed d.dstFmt then writeGlazed d.dstFmt d.blk d.mx d.e5Inf vs else writePlain d.dstFmt d.e5Inf ftz update vs
    { o with nan := o.nan || src }

/-! ### Writing the destination -/

/-- Bytes cut at multiples of g: addresses and pieces. -/
def cutAt (g a : Nat) (bs : List Byte) : List (Nat × List Byte) :=
  if bs.isEmpty then []
  else
    (List.range ((a + bs.length - 1) / g - a / g + 1)).map (fun i =>
      let lo := if i = 0 then a else (a / g + i) * g
      let hi := min ((a / g + i + 1) * g) (a + bs.length)
      (lo, (bs.drop (lo - a)).take (hi - lo)))

/-- A write of the descriptor: address, bytes, glaze address and glaze bytes. -/
abbrev RowWrite := Nat × List Byte × Nat × List Byte

/-- The writes of a descriptor in order, in the address space of its destination (R106, R107, R114). -/
def SDesc.writes (d : SDesc) (rows : List RowOut) : List RowWrite :=
  let n := fmtBytes d.dstFmt
  let out (xs : List Nat) : List Byte := xs.flatMap (leBytes n)
  if d.skew then
    let V := d.rows
    let cell (i : Nat) : Nat :=
      let j := i % 32
      if j ≤ i / 32 && i / 32 - j < V then ((rows.getD (i / 32 - j) ⟨[], [], {}, false⟩).elems).getD j 0 else 0
    [(d.dst, out ((List.range ((V + 31) * 32)).map cell), 0, [])]
  else
    rows.mapIdx (fun i r =>
      let off : Int := if d.strided then rowOffset d.dstr1 d.dstr2 d.dstr3 (d.index i) else (i * d.count0 * n : Nat)
      ((d.dst + off).toNat, out r.elems, (d.dstGlaze + off.fdiv d.blk).toNat, out1 r.glazes))
where
  out1 (gs : List Nat) : List Byte := gs.map (BitVec.ofNat 8)

/-- The route and acknowledgement route for a mesh-carried write (R241, R284, R369). -/
def State.meshRoute (s : State) (p : Nat) (d : SDesc) (a : Nat) : Nat × Nat :=
  let e : Option SourceRec := match s.place a with
    | .ring r => s.sourceEntry p 1 (stackBridge (s.ringLoc r).1) d.channel.no
    | .near q _ => s.sourceEntry p 0 (q / 17) d.channel.no
    | .stacked c _ => s.sourceEntry p 0 c d.channel.no
    | _ => none
  match e with
  | some x => (x.route, x.ackRoute)
  | none => (0, 0)

/-- Where a flit's bytes begin, in the address space of its destination, and how many they are. -/
def FlitLoad.extent : FlitLoad → Nat × Nat
  | .write a d => (a, d.length)
  | .mcast o d => (o, d.length)
  | .remote _ _ o _ d => (o, d.length)
  | _ => (0, 0)

/-- Whether a flit goes on with the packet of the one before it: on the same path, to the bytes that follow (R237). -/
def Flit.continues (f g : Flit) : Bool :=
  f.path = g.path && f.vc = g.vc && f.load.extent.1 + f.load.extent.2 = g.load.extent.1

/-- Marks the last flit of each packet: every sixteenth, and wherever the next does not go on with it (R237; log entry
27). -/
def packets : Nat → List Flit → List Flit
  | _, [] => []
  | n, f :: rest =>
    let stop := n = 15 || !(rest.head?.any f.continues)
    { f with last := stop } :: packets (if stop then 0 else n + 1) rest

/-- The flit of at most 128 bytes that carries a piece of a write, elements or glaze bytes, by the route of its own
address: over a multicast tree, to the remote target whose range it lies in, or to its place on this module (R109, R237,
R284). -/
def State.flitOf (s : State) (p ch : Nat) (d : SDesc) (a : Nat) (bs : List Byte) : Flit :=
  let owner := p * 4 + ch
  if d.mcast then ⟨.plan, .tree d.tree, .mcast a bs, false, owner, 0⟩
  else
    match s.remoteFor p d a (a + bs.length - 1) with
    | some t => ⟨d.channel, .route t.route, .remote t.farRoute t.egress (a - t.localBase) t.tag bs, false, owner, 0⟩
    | none =>
      let r := s.meshRoute p d a
      ⟨d.channel, .route r.1, .write a bs, false, owner, r.2⟩

/-- Leaves of a tree: its deliveries to local ports and spines (R258). -/
def State.leaves (s : State) (t : Nat) : Nat :=
  match s.image with
  | some im => ((im.forks.filter (fun f => f.tree = t)).map (fun f => (if Nat.testBit f.out 4 then 1 else 0) + (if Nat.testBit f.out 5 then 1 else 0))).sum
  | none => 0

/-- One write of a descriptor, in pieces of at most a flit: those the core reaches by itself at once, the others through
the mesh. Answers the flits to send and false where an uncorrectable word refuses a partial write. -/
def State.writeRow (s : State) (p ch : Nat) (d : SDesc) (w : Nat × List Byte) : State × List Flit × Bool :=
  (cutAt 128 w.1 w.2).foldl (fun acc x =>
    if !d.mcast && acc.1.direct p x.1 then
      let y := acc.1.storeAt x.1 x.2
      (y.1, acc.2.1, acc.2.2 && y.2)
    else (acc.1, acc.2.1 ++ [acc.1.flitOf p ch d x.1 x.2], acc.2.2)) (s, [], true)

/-- Moves the writes of a range by its translation. -/
def State.shiftOf (s : State) (j : StreamJob) (r : Option (Nat × Nat)) : Int :=
  match r with
  | some (lo, hi) => (match s.xlate j (lo, hi) with
    | some (lo', _, _) => (lo' : Int) - lo
    | none => 0)
  | none => 0

/-- A descriptor error: cause 0x06 (R110). -/
def State.streamTrap (s : State) (p : Nat) (j : StreamJob) (cause sub : Nat) : State :=
  s.trap p cause 1 (sub + 256 * j.index.toNat) j.pc.toNat

/-- The subcode of an uncorrectable error by tier (R231). -/
def State.tierSub (s : State) (a : Nat) : Nat := s.tierOf a + 1

/-- The head descriptor of a channel has run: its writes are on their way. -/
def State.streamRun (s : State) (p ch : Nat) (j : StreamJob) (acks : Nat) (c : Counts) : State :=
  let k := s.core p
  match k.chan ch with
  | _ :: rest => s.setCore p (k.setChan ch ({ j with started := true, acksLeft := acks, counts := c, reads := 0, got := [] } :: rest))
  | [] => s

/-- The module addresses of a descriptor's rows of elements, and of their glaze bytes, after translation (R106, R107,
R310). -/
def State.rowPlaces (s : State) (j : StreamJob) : List Nat :=
  let d := j.desc
  let sh := s.shiftOf j (range48 d.src d.srcSpan)
  (List.range d.rows).map (fun i => (d.src + rowOffset d.str1 d.str2 d.str3 (d.index i) + sh).toNat)
def State.glazePlaces (s : State) (j : StreamJob) : List Nat :=
  let d := j.desc
  if fmtGlazed d.srcFmt then
    let sh := s.shiftOf j (range48 d.srcGlaze (glazeSpan d.blk d.srcSpan))
    (List.range d.rows).map (fun i => (d.srcGlaze + (rowOffset d.str1 d.str2 d.str3 (d.index i)).fdiv d.blk + sh).toNat)
  else []

/-- The head descriptor j of channel ch, its ring bytes having come: every read, conversion and write (R106 to R114). DESIGN
CHOICE (log entry 145): where a NaN faults the core, nothing of the descriptor is written or counted. -/
def State.streamMove (s : State) (p ch : Nat) (j : StreamJob) : State :=
  let d := j.desc
  let (s, rows, bad) := s.fetchRows j.got (s.rowPlaces j) (d.count0 * fmtBytes d.srcFmt)
  match rows with
  | none => s.streamTrap p j 0x0A (s.tierSub bad)
  | some rows =>
    let (s, grows, bad) := s.fetchRows j.got (s.glazePlaces j) (d.count0 / d.blk)
    match grows with
    | none => s.streamTrap p j 0x0A (s.tierSub bad)
    | some grows =>
      let ftz := s.on .CORE_CFG_FTZ p
      let update := s.on .NUM_EXP_UPDATE d.tag
      let outs := rows.mapIdx (fun i r =>
        d.convertRow ftz update (chunkNat (fmtBytes d.srcFmt) r) (chunkNat 1 (grows.getD i [])))
      let counts := outs.foldl (fun c o => c.merge o.counts) {}
      let s := if outs.any (·.nan) then s.nan p 6 1 j.pc.toNat j.index.toNat d.tag else s
      if outs.any (·.nan) && !s.on .NUM_CFG_NAN_MODE then s
      else
        let s := s.ovf16 p counts
        let dsh := if d.mcast then 0 else s.shiftOf j (range48 d.dst d.dstSpan)
        let gdsh := if d.mcast then 0 else s.shiftOf j (range48 d.dstGlaze (glazeSpan d.blk d.dstSpan))
        let rows := d.writes outs
        let ws := rows.map (fun w => ((w.1 + dsh).toNat, w.2.1)) ++
          rows.map (fun w => ((w.2.2.1 + gdsh).toNat, w.2.2.2))
        let (s, flits, ok) := ws.foldl (fun acc w =>
          let (s', fs, o) := acc.1.writeRow p ch d w
          (s', acc.2.1 ++ fs, acc.2.2 && o)) (s, ([] : List Flit), true)
        if !ok then s.streamTrap p j 0x0A 4
        else
          let flits := packets 0 flits
          let acks := if d.mcast && s.leaves d.tree = 0 then 0 else (flits.filter (·.last)).length
          (s.streamRun p ch j acks counts).injectAt (s.attach p).1 (s.attach p).2 flits

/-- The reads of the ring that a descriptor needs, as module addresses and lengths: each is answered by one packet (R211,
R237). -/
def State.ringReads (s : State) (j : StreamJob) : List (Nat × Nat) :=
  let d := j.desc
  let part (n : Nat) (as : List Nat) : List (Nat × Nat) := (as.filter (· < s.ringTop)).flatMap (fun a => cutRange 2048 a n)
  part (d.count0 * fmtBytes d.srcFmt) (s.rowPlaces j) ++ part (d.count0 / d.blk) (s.glazePlaces j)

/-- Starts the head descriptor j of channel ch: the checks; then what it reads of the ring is asked for over the mesh (R211,
R244), or, with nothing to ask for, it runs. -/
def State.streamStart (s : State) (p ch : Nat) (j : StreamJob) : State :=
  let d := j.desc
  match s.streamBad p j with
  | some sub => s.streamTrap p j 6 sub
  | none =>
    if d.empty then s.streamRun p ch j 0 {}
    else
      let rs := s.ringReads j
      if rs.isEmpty then s.streamMove p ch j
      else
        let k := s.core p
        let s := s.setCore p (k.setChan ch ({ j with
          started := true
          reads := (rs.map (·.2)).sum } :: (k.chan ch).tail))
        s.injectAt (s.attach p).1 (s.attach p).2 (rs.map (fun x =>
          let r := s.meshRoute p d x.1
          ⟨d.channel, .route r.1, .read x.1 x.2, true, p * 4 + ch, r.2⟩))

/-- A line of the ring that a stream engine asked for reaches it: with the last one the descriptor runs (R244). One for a
descriptor that is gone has no effect. -/
def State.answered (s : State) (owner addr n : Nat) (data : Option (List Byte)) : State :=
  let p := owner / 4
  let k := s.core p
  match k.chan (owner % 4) with
  | [] => s
  | j :: rest =>
    if j.reads = 0 then s
    else
      let j := { j with
        reads := j.reads - n
        got := j.got ++ [(addr, data)] }
      let s := s.setCore p (k.setChan (owner % 4) (j :: rest))
      if j.reads = 0 then s.streamMove p (owner % 4) j else s

/-- A request reaches the edge bridge at router r: its lines are read, and go back as one packet on its channel by the route
planned for it (R211, R244). -/
def State.ringAnswer (s : State) (r input : Nat) (f : Flit) (addr n : Nat) : State :=
  let (s, fs) := (cutRange 128 addr n).foldl (fun acc x =>
    match (acc.1.place x.1).phys with
    | some q =>
      let (s', bs) := acc.1.readPhys q x.2
      (s', acc.2 ++ [FlitLoad.answer x.1 x.2 bs])
    | none => (acc.1, acc.2 ++ [FlitLoad.answer x.1 x.2 (some (List.replicate x.2 0))])) (s, ([] : List FlitLoad))
  s.injectAt r input (fs.mapIdx (fun i l => ⟨f.vc, .route f.ackRoute, l, i + 1 = fs.length, f.owner, 0⟩))

end Sys2Proof.Machine
end

