-- ==== Sys2Proof/Machine/ArrayOps.lean ====
section
/-!
DEFINITION. What the matrix array shares (R118 to R158, R182 to R187): the descriptor's fields and chunks, the layouts,
the checks at the head, operand loads, the arithmetic of the trees, the accumulator banks and the output stage.
-/
namespace Sys2Proof.Machine

/-- An array descriptor (Table 9 of "The Core"), its first three bases moved by the ARUN scalars. -/
structure ADesc where
  stat : Nat
  mov : Nat
  out : Nat
  statGlaze : Nat
  movGlaze : Nat
  outGlaze : Nat
  scaleBase : Nat
  biasBase : Nat
  m : Nat
  n : Nat
  k : Nat
  statFmt : Nat
  movFmt : Nat
  outFmt : Nat
  dray : Bool
  blkCode : Nat
  mx : Bool
  e5Inf : Bool
  act : Nat
  scaleMode : Nat
  biasEn : Bool
  acc : Bool
  multi : Nat
  tag : Nat
  clamp : BitVec 16
  skew : Bool
deriving DecidableEq, Repr

/-- The fields of a queued descriptor (R98, R102). -/
def ArrayJob.get (j : ArrayJob) : ADesc :=
  let a := j.desc.toNat
  { stat := j.stat
    mov := j.mov
    out := j.out
    statGlaze := bits a 60 20 * 64
    movGlaze := bits a 80 20 * 64
    outGlaze := bits a 100 20 * 64
    scaleBase := bits a 120 20 * 64
    biasBase := bits a 140 20 * 64
    m := bits a 160 13
    n := bits a 173 13
    k := bits a 186 13
    statFmt := bits a 199 4
    movFmt := bits a 203 4
    outFmt := bits a 207 4
    dray := Nat.testBit a 211
    blkCode := bits a 212 2
    mx := Nat.testBit a 214
    e5Inf := Nat.testBit a 215
    act := bits a 216 3
    scaleMode := bits a 219 2
    biasEn := Nat.testBit a 221
    acc := Nat.testBit a 222
    multi := bits a 223 2
    tag := bits a 225 12
    clamp := BitVec.ofNat 16 (bits a 237 16)
    skew := j.skew }

def ADesc.blk (d : ADesc) : Nat := glazeBlock d.blkCode

/-- Eight-bit format codes, and the integer ones among them. -/
def fmt8 (code : Nat) : Bool := (3 ≤ code && code ≤ 6) || (8 ≤ code && code ≤ 0xA)
def fmtInt8 (code : Nat) : Bool := code = 5 || code = 6
def fmt16 (code : Nat) : Bool := code = 1 || code = 2

/-- Integer accumulation (R122, R148). -/
def ADesc.isInt (d : ADesc) : Bool := d.multi = 3 || (d.multi = 0 && fmtInt8 d.statFmt && fmtInt8 d.movFmt)

/-- The cell depth (R119, R154). -/
def ADesc.depth (d : ADesc) : Nat :=
  if fmt8 d.statFmt && fmt8 d.movFmt && (d.multi = 0 || d.multi = 3) && !d.skew then 2 else 1

/-- Kc, M-chunk and N-chunk (R120), the sub-passes (Table 7), and the chunk counts. -/
def ADesc.kc (d : ADesc) : Nat := (if d.dray then 128 else 32) * d.depth
def ADesc.mc (d : ADesc) : Nat := if d.dray then 8 else if d.multi = 2 then 128 else 512
def ADesc.nc (d : ADesc) : Nat := if !d.dray then 32 else if d.multi = 2 then 512 else 2048
def ADesc.subs (d : ADesc) : Nat := if d.multi = 0 then 1 else if d.multi = 3 then 4 else 3
def ceilDiv (a b : Nat) : Nat := (a + b - 1) / b
def ADesc.mChunks (d : ADesc) : Nat := ceilDiv d.m d.mc
def ADesc.nChunks (d : ADesc) : Nat := ceilDiv d.n d.nc
def ADesc.kChunks (d : ADesc) : Nat := ceilDiv d.k d.kc
def ADesc.banks (d : ADesc) : Nat := d.mChunks * d.nChunks
def ADesc.perBank (d : ADesc) : Nat := d.kChunks * d.subs

/-- The number of passes (R125, R127). -/
def ADesc.passes (d : ADesc) : Nat := d.banks * d.perBank

/-- K rounded up to a multiple of Kc (R129). -/
def ADesc.kp (d : ADesc) : Nat := d.kChunks * d.kc

/-- Element size of an operand in memory, of the output (R129). -/
def ADesc.opBytes (d : ADesc) (code : Nat) : Nat := if d.multi = 3 then 2 else fmtBytes code

/-- The m-chunk, n-chunk, k-chunk and sub-pass of a pass (R125). -/
structure PassPos where
  mi : Nat
  ni : Nat
  ki : Nat
  sub : Nat
deriving DecidableEq, Repr

def ADesc.pos (d : ADesc) (i : Nat) : PassPos :=
  let b := i / d.perBank
  ⟨b / d.nChunks, b % d.nChunks, i % d.perBank / d.subs, i % d.subs⟩

/-- Rows, columns and K-values of a pass's chunks (R126). -/
def ADesc.rowsIn (d : ADesc) (p : PassPos) : Nat := min d.mc (d.m - p.mi * d.mc)
def ADesc.colsIn (d : ADesc) (p : PassPos) : Nat := min d.nc (d.n - p.ni * d.nc)
def ADesc.kIn (d : ADesc) (p : PassPos) : Nat := min d.kc (d.k - p.ki * d.kc)

/-- Shadow groups of a pass (R132). -/
def ADesc.groups (d : ADesc) (p : PassPos) : Nat :=
  let cells := ceilDiv (d.kIn p) d.depth
  if d.dray then d.rowsIn p * ceilDiv cells 32 else cells

/-! ### Layouts (R129, R130, R147) -/

/-- Byte offset of a stationary element: (k, n) in square form, (m, k) in dray form with x the row or column. -/
def ADesc.statOff (d : ADesc) (x k : Nat) : Nat :=
  let e := d.opBytes d.statFmt
  if d.dray then (x * d.kp + k) * e
  else (x / 32 * d.kChunks + k / d.kc) * 1024 * d.depth * e +
    (k % d.kc / d.depth * 32 * d.depth + x % 32 * d.depth + k % d.depth) * e

/-- Byte offset of a moving element: (m, k) in square form, (k, n) in dray form, with x the row or column. -/
def ADesc.movOff (d : ADesc) (x k : Nat) : Nat :=
  if d.skew then ((x + k) * 32 + k) * d.opBytes d.movFmt else (x * d.kp + k) * d.opBytes d.movFmt

/-- Glaze byte offsets (Table 4). -/
def ADesc.statGlazeOff (d : ADesc) (x k : Nat) : Nat :=
  if d.dray then x * (d.k / d.blk) + k / d.blk else (x / 32 * (d.k / d.blk) + k / d.blk) * 32 + x % 32
def ADesc.movGlazeOff (d : ADesc) (x k : Nat) : Nat := x * (d.k / d.blk) + k / d.blk

/-- Bytes of one plane of the stationary operand, the moving operand and the output. -/
def ADesc.statSize (d : ADesc) : Nat :=
  if d.k = 0 then 0
  else if d.dray then d.m * d.kp * d.opBytes d.statFmt else ceilDiv d.n 32 * d.kChunks * 1024 * d.depth * d.opBytes d.statFmt
def ADesc.movSize (d : ADesc) : Nat :=
  if d.k = 0 then 0
  else if d.skew then (d.m + 31) * 32 * d.opBytes d.movFmt
  else (if d.dray then d.n else d.m) * d.kp * d.opBytes d.movFmt
def ADesc.outSize (d : ADesc) : Nat := d.m * d.n * fmtBytes d.outFmt

/-- The distance to the imaginary plane (R147). -/
def round64 (n : Nat) : Nat := (n + 63) / 64 * 64

/-- Bytes with both planes where there are two. -/
def ADesc.planes (d : ADesc) (n : Nat) : Nat := if d.multi = 2 && n != 0 then round64 n + n else n

/-! ### The checks at the head (R103, R123, R124, R128, R141, R154, R178) -/

/-- Single-pass pairings (Table 2). -/
def pairAllowed (a b : Nat) : Bool :=
  let fl (c : Nat) : Bool := fmt16 c || (fmt8 c && !fmtInt8 c)
  (fl a && fl b) || (fmtInt8 a && fmtInt8 b)

/-- The integer path of the output stage (R143). -/
def ADesc.intPath (d : ADesc) : Bool := d.isInt && d.outFmt = 7 && d.scaleMode = 0 && !d.biasEn && d.act = 0

/-- A reserved or disallowed format code (R122 to R124, R146 to R148, R178). -/
def ADesc.badFormat (d : ADesc) : Bool :=
  fmtReserved d.statFmt || fmtReserved d.movFmt || fmtReserved d.outFmt ||
  (match d.multi with
   | 0 => !pairAllowed d.statFmt d.movFmt
   | 1 => !(d.statFmt = 0 && d.movFmt = 0)
   | 2 => !(fmt16 d.statFmt && fmt16 d.movFmt && d.outFmt ≤ 4)
   | _ => !(d.statFmt = 5 && d.movFmt = 5)) ||
  (d.outFmt = 7 && !d.intPath) ||
  (d.mx && (d.statFmt = 0xA || d.movFmt = 0xA || d.outFmt = 0xA))

/-- A range of the local view lies in one tier: 0 stacked, 1 own near SRAM; an empty range lies in any (R101, R128). -/
def localTier (lo n : Nat) : Option Nat :=
  if lo + n ≤ stackedSize then some 0
  else if stackedSize ≤ lo && lo + n ≤ stackedSize + nearSize then some 1
  else none

/-- A range that is not empty lies in one tier, the tier of its elements where given. -/
def rangeOk (lo n : Nat) (like : Option Nat) : Bool :=
  n = 0 || (match localTier lo n, like with
    | some t, some l => t = l
    | some _, none => true
    | none, _ => false)

/-- The window-offset check (subcode 0x04), and the numerics page (R327). -/
def State.arrayPlaces (s : State) (d : ADesc) : Bool :=
  d.m = 0 || d.n = 0 ||
  (let kb := d.k / d.blk
   rangeOk d.stat (d.planes d.statSize) none && rangeOk d.mov (d.planes d.movSize) none && rangeOk d.out (d.planes d.outSize) none &&
   (!fmtGlazed d.statFmt || rangeOk d.statGlaze (if d.dray then d.m * kb else ceilDiv d.n 32 * kb * 32) (localTier d.stat 1)) &&
   (!fmtGlazed d.movFmt || rangeOk d.movGlaze ((if d.dray then d.n else d.m) * kb) (localTier d.mov 1)) &&
   (!fmtGlazed d.outFmt || rangeOk d.outGlaze (d.m * (d.n / d.blk)) (localTier d.out 1)) &&
   (d.scaleMode = 0 || rangeOk d.scaleBase (if d.scaleMode = 1 then 4 else 4 * d.n) none) &&
   (!d.biasEn || d.multi = 2 || rangeOk d.biasBase (4 * d.n) none) &&
   !(stackedSize ≤ d.out && s.pageHit (d.out - stackedSize) (d.planes d.outSize)) &&
   !(fmtGlazed d.outFmt && stackedSize ≤ d.outGlaze && s.pageHit (d.outGlaze - stackedSize) (d.m * (d.n / d.blk))))

/-- The bank opened last. -/
def ArrayState.lastBank (a : ArrayState) : Bank := if a.nextBank then a.bank0 else a.bank1
def ArrayState.setLastBank (a : ArrayState) (b : Bank) : ArrayState :=
  if a.nextBank then { a with bank0 := b } else { a with bank1 := b }
def ArrayState.next (a : ArrayState) : Bank := if a.nextBank then a.bank1 else a.bank0

/-- A descriptor with ACC = 1 matches the open output (R141). -/
def ArrayState.accMatches (a : ArrayState) (d : ADesc) : Bool :=
  let b := a.lastBank
  (b.phase = .open || b.phase = .held) &&
  (match b.opener with
   | some j =>
     let o := j.get
     o.mChunks = 1 && o.nChunks = 1 && o.dray = d.dray && o.m = d.m && o.n = d.n && o.isInt = d.isInt &&
       (o.multi = 2) = (d.multi = 2)
   | none => false)

/-- The skewed-feed constraints (R154). -/
def ADesc.skewBad (d : ADesc) : Bool :=
  d.skew && !(!d.dray && d.multi = 0 && !d.acc && !fmtGlazed d.statFmt && !fmtGlazed d.movFmt && d.k ≤ 32 && d.n ≤ 32 &&
    1 ≤ d.m && d.m ≤ 512 && localTier d.mov (max 1 d.movSize) = some 1)

/-- The subcode of the first check that fails, in the order of R103. -/
def State.arrayBad (s : State) (a : ArrayState) (d : ADesc) : Option Nat :=
  if 4096 < d.m || 4096 < d.n || 4096 < d.k then some 3
  else if d.badFormat then some 1
  else if d.scaleMode = 3 then some 0xA
  else if d.mx && d.blkCode != 1 then some 0xB
  else if (fmtGlazed d.statFmt || fmtGlazed d.movFmt) && d.k % d.blk != 0 then some 5
  else if fmtGlazed d.outFmt && ((!d.dray && 1 < d.blkCode) || d.n % d.blk != 0) then some 5
  else if d.skewBad then some 9
  else if d.acc && !a.accMatches d then some 3
  else if !s.arrayPlaces d then some 4
  else none

/-! ### Operand loads (R126, R146 to R148) -/

/-- Reads n bytes at a local offset of a core. -/
def State.readLocal (s : State) (p off n : Nat) : State × Option (List Byte) :=
  match (localPlace p off).phys with
  | some a => s.readPhys a n
  | none => (s, some (List.replicate n 0))

/-- The 128 B lines of a core's local view that ranges of n bytes touch, each once, in the order in which they are met. -/
def linesOf (n : Nat) (offs : List Nat) : List Nat := (offs.flatMap (fun o => [o / 128, (o + n - 1) / 128])).eraseDups

/-- Reads lines of a core's local view, stopping at the first that is uncorrectable, whose offset is answered. -/
def State.readLines (s : State) (p : Nat) (lines : List Nat) : State × SMap (List Byte) × Option Nat :=
  lines.foldl (fun acc l =>
    match acc.2.2 with
    | some _ => acc
    | none =>
      let (s', r) := acc.1.readLocal p (l * 128) 128
      match r with
      | some bs => (s', mset [] acc.2.1 l bs, none)
      | none => (s', acc.2.1, some (l * 128))) (s, [], none)

/-- Reads of several local ranges of at most 128 bytes: the array reads whole lines, each once (R149; log entry 143). -/
def State.readLocals (s : State) (p : Nat) (n : Nat) (offs : List Nat) : State × List Nat × Option Nat :=
  let (s, got, bad) := s.readLines p (linesOf n offs)
  (s, offs.map (fun o => leNat ((List.range n).map (fun i => (mget [] got ((o + i) / 128)).getD ((o + i) % 128) 0))), bad)

/-- hi and lo of an FP32 element as BF16 patterns (R146). -/
def splitHi (x : Word) : BitVec 16 :=
  match ofFp32 x with
  | .fin n m e => (match bf16Fmt.encodeFin n m e with
    | some b => BitVec.ofNat 16 b
    | none => BitVec.ofNat 16 (bf16Fmt.maxBits n))
  | v => toBf16 v
def splitLo (x : Word) : BitVec 16 :=
  match ofFp32 x with
  | .nan => toBf16 .nan
  | .inf _ => 0
  | v => toBf16 (v.add (ofBf16 (splitHi x)).neg)

/-- A loaded element in the form a cell holds it: a plain or element pattern, a BF16 half, a complex part or pre-sum in
the operand's format, or the signed high or unsigned low byte of an INT16 as a word. Answers whether it is a NaN that
the load inspects (R191). -/
def loadElem (multi sub : Nat) (isStat : Bool) (code : Nat) (re im : Nat) : Word × Bool :=
  match multi with
  | 1 =>
    let x := BitVec.ofNat 32 re
    let hi := if isStat then sub != 1 else sub != 0
    ((if hi then splitHi x else splitLo x).setWidth 32, (ofFp32 x).isNan)
  | 2 =>
    let a := (fmtOf code).decode re
    let b := (fmtOf code).decode im
    if sub = 0 then (BitVec.ofNat 32 re, a.isNan)
    else if sub = 1 then (BitVec.ofNat 32 im, b.isNan)
    else
      let v := ofFp32 (toFp32 (a.add b))
      (BitVec.ofNat 32 (convert code true v).1, v.isNan)
  | 3 =>
    let hi := if isStat then 2 ≤ sub else sub % 2 = 1
    (if hi then (BitVec.ofNat 8 (re / 256)).signExtend 32 else BitVec.ofNat 32 (re % 256), false)
  | _ => (BitVec.ofNat 32 re, false)

/-- The operand values at given positions, loaded: element words, the NaN flag, an uncorrectable offset. -/
def State.loadOperand (s : State) (p : Nat) (d : ADesc) (isStat : Bool) (sub : Nat) (offs : List Nat) : State × List Word × Bool × Option Nat :=
  let code := if isStat then d.statFmt else d.movFmt
  let base := if isStat then d.stat else d.mov
  let plane := round64 (if isStat then d.statSize else d.movSize)
  let n := d.opBytes code
  let (s, re, bad) := if d.multi = 2 && sub = 1 then (s, offs.map (fun _ => 0), none) else s.readLocals p n (offs.map (base + ·))
  let (s, im, bad2) := if d.multi = 2 && sub != 0 then s.readLocals p n (offs.map (base + plane + ·)) else (s, [], none)
  let r := re.mapIdx (fun i x => loadElem d.multi sub isStat code x (im.getD i 0))
  (s, r.map (·.1), r.any (·.2), bad.or bad2)

/-- Positions (column or row, k) of a shadow group (R132). -/
def ADesc.groupCells (d : ADesc) (p : PassPos) (g : Nat) : List (Nat × Nat) :=
  let k0 := p.ki * d.kc
  if d.dray then
    let per := ceilDiv (ceilDiv (d.kIn p) d.depth) 32
    let row := g / per
    let lo := g % per * 32 * d.depth
    ((List.range (min (32 * d.depth) (d.kIn p - lo))).map (fun i => (p.mi * d.mc + row, k0 + lo + i)))
  else
    (List.range (d.colsIn p)).flatMap (fun c =>
      (List.range (min d.depth (d.kIn p - g * d.depth))).map (fun i => (p.ni * d.nc + c, k0 + g * d.depth + i)))

/-- The key of a cell in the shadow: K-value of the descriptor × 4096 + column or row. -/
def cellKey (x k : Nat) : Nat := k * 4096 + x

/-- An uncorrectable read of an operand (R230, R231). -/
def State.arrayUE (s : State) (p : Nat) (j : ArrayJob) (off : Nat) : State :=
  s.trap p 0x0A 3 ((if off < stackedSize then 2 else 1) + 256 * j.index.toNat) j.pc.toNat

/-- What stands in the way of an array access: a NaN of a unit, and the offset of an uncorrectable operand. The NaN is
recorded and reported whatever the operand did; the core traps once, for the NaN where it faults (R192, R230). -/
def State.arrayStop (s : State) (p : Nat) (j : ArrayJob) (unit off : Option Nat) : State :=
  let t := unit.elim s (fun u => s.nan p u 3 j.pc.toNat j.index.toNat (j.get).tag)
  if unit.isSome && !s.on .NUM_CFG_NAN_MODE then t else off.elim t (t.arrayUE p j)

/-! ### Tree arithmetic (R183 to R187) -/

/-- What a node or a sum is: its FP32 pattern, events, and whether a NaN arose. -/
structure SumOut where
  word : Word
  counts : Counts
  nan : Bool
deriving DecidableEq, Repr

/-- A finite value brought into FP32 at the 16-element node (R185). DESIGN CHOICE (log entry 130): the underflow event
looks at the value that arrives here, which for d = 1 is the tree's sum already rounded to 24 bits. -/
def bringIn (n : Bool) (m : Nat) (e : Int) : SumOut :=
  match fp32Fmt.encodeFin n m e with
  | none => ⟨BitVec.ofNat 32 (fp32Fmt.maxBits n), { range := 1 }, false⟩
  | some x => ⟨BitVec.ofNat 32 x, { under := if m != 0 && x % 2 ^ 31 < 2 ^ 23 then 1 else 0 }, false⟩

/-- A sum of two values rounded to 24 bits with an unbounded exponent (d = 1). -/
def add24 (a b : FVal) : FVal :=
  match a.add b with
  | .fin n m e => let (m', e') := roundFree 24 m e; .fin n m' e'
  | v => v

/-- Values paired level by level, `add` at each node, down to one value. -/
def treeSum (add : FVal → FVal → FVal) : Nat → List FVal → List FVal
  | 0, xs => xs
  | n + 1, xs =>
    treeSum add n (go xs)
where
  go : List FVal → List FVal
    | a :: b :: r => add a b :: go r
    | r => r

/-- One 16-element node (R183 to R186): element values of the two operands, their glazes minus 127, and whether either
block is bare or a NaN block. -/
def nodeSum (depth2 : Bool) (a b : List FVal) (scale : Int) (bare nanBlk : Bool) : SumOut :=
  if nanBlk || a.any FVal.isNan || b.any FVal.isNan then ⟨toFp32 .nan, {}, true⟩
  else if bare then ⟨0, {}, false⟩
  else
    let ps := List.zipWith FVal.mul a b
    let t := if depth2 then ps.foldl FVal.add (.fin false 0 0)
      else (treeSum add24 4 (ps ++ List.replicate (16 - ps.length) (.fin false 0 0))).getD 0 (.fin false 0 0)
    match t with
    | .nan => ⟨toFp32 .nan, {}, true⟩
    | .inf n => ⟨toFp32 (.inf n), {}, false⟩
    | .fin n m e => bringIn n m (e + scale)

/-- FP32 additions above the nodes, level by level (R187). -/
def treeUp : Nat → List SumOut → List SumOut
  | 0, xs => xs
  | n + 1, xs => treeUp n (go xs)
where
  go : List SumOut → List SumOut
    | a :: b :: r =>
      let w := fadd32 a.word b.word
      ⟨w, a.counts.merge b.counts, a.nan || b.nan || (ofFp32 w).isNan⟩ :: go r
    | r => r

/-- A cell or moving word as a value. -/
def cellValue (multi code : Nat) (w : Word) : FVal :=
  match multi with
  | 1 => ofBf16 (w.extractLsb' 0 16)
  | 2 => (fmtOf code).decode w.toNat
  | 3 => .ofInt w.toInt
  | _ => if fmtGlazed code then elementValue code w.toNat else plainValue code w.toNat

/-- An integer cell word. -/
def cellInt (multi code : Nat) (w : Word) : Word :=
  if multi = 3 then w else if code = 5 then (BitVec.ofNat 8 w.toNat).signExtend 32 else w &&& 0xFF

/-- The left shift of a sub-pass of MULTI = 3 (Table 7). -/
def subShift (sub : Nat) : Nat := if sub = 0 then 0 else if sub = 3 then 16 else 8

/-- The sum of one line and column in a pass: stationary and moving words of the pass's K-values in order, and one glaze
byte of each per 16 K-values. -/
def ADesc.dot (d : ADesc) (sub : Nat) (st mv : List Word) (gs gm : List Nat) : SumOut :=
  if d.isInt then
    let sum := (List.zipWith (fun a b => cellInt d.multi d.statFmt a * cellInt d.multi d.movFmt b) st mv).foldl (· + ·) 0
    ⟨if d.multi = 3 then sum <<< subShift sub else sum, {}, false⟩
  else
    let n16 := d.kc / 16
    let nodes := (List.range n16).map (fun i =>
      let a := ((st.drop (16 * i)).take 16).map (cellValue d.multi d.statFmt)
      let b := ((mv.drop (16 * i)).take 16).map (cellValue d.multi d.movFmt)
      if a.isEmpty then ⟨0, {}, false⟩
      else
        let side (code : Nat) (g : Nat) : Int × Bool × Bool :=
          if fmtGlazed code then ((g : Int) - 127, bareBlock d.mx g, g = 0xFF) else (0, false, false)
        let x := side d.statFmt (gs.getD i 0)
        let y := side d.movFmt (gm.getD i 0)
        let a := if x.2.1 then a.map (fun _ => .fin false 0 0) else a
        let b := if y.2.1 then b.map (fun _ => .fin false 0 0) else b
        nodeSum (d.depth = 2) a b (x.1 + y.1) (x.2.1 || y.2.1) (x.2.2 || y.2.2))
    (treeUp (Nat.log2 n16) nodes).getD 0 ⟨0, {}, false⟩

/-- The sum of one row and column down the chain in skewed-feed mode (R155). -/
def ADesc.chainDot (d : ADesc) (st mv : List Word) : SumOut :=
  if d.isInt then d.dot 0 st mv [] []
  else
    (st.zip mv).foldl (fun acc x =>
      let v := ((cellValue 0 d.statFmt x.1).mul (cellValue 0 d.movFmt x.2)).add (ofFp32 acc.word)
      ⟨toFp32 v, acc.counts, acc.nan || v.isNan⟩) ⟨0, {}, false⟩

/-- The place of a sum in a bank (R120, R147): line × 32 + column. -/
def ADesc.sumKey (d : ADesc) (sub row col : Nat) : Nat :=
  let q := if d.multi = 2 then sub else 0
  if d.dray then row * 2048 + (512 * q + col) else (128 * q + row) * 32 + col

/-! ### Passes into a bank -/

/-- Adds counts to a descriptor's tally. -/
def ArrayState.note (a : ArrayState) (j : ArrayJob) (c : Counts) : ArrayState :=
  if a.tally.any (fun t => t.1 = j.no) then
    { a with tally := a.tally.map (fun t => if t.1 = j.no then (t.1, t.2.1, t.2.2.merge c) else t) }
  else { a with tally := a.tally ++ [(j.no, (j.get).tag, c)] }

/-- A sum of a bank; none where nothing has written it since LOAD_IMAGE (R127, R158). -/
def Bank.sum (b : Bank) (key : Nat) : Option Word := (mget none b.sums key).or b.fill

/-- What moving lines of a pass leave: the state after their reads, the bank, the counts, whether an operand was a NaN
and whether a sum became one, and the offset of an uncorrectable operand, at which the pass ends. -/
structure PassSum where
  s : State
  bank : Bank
  counts : Counts := {}
  nanIn : Bool := false
  nanSum : Bool := false
  bad : Option Nat := none
deriving DecidableEq, Repr

/-- The number of moving lines of a pass: rows in square form, columns in dray form (R120). -/
def Pass.lines (ps : Pass) : Nat :=
  let d := ps.job.get
  let pos := d.pos ps.pass
  if d.dray then d.colsIn pos else d.rowsIn pos

/-- Moving lines of a pass added into the sums of its bank: reads the moving operand, forms every sum and adds it (R125,
R137). DESIGN CHOICE (log entry 129): no sums are formed in the bank for columns beyond N or rows beyond M (R126). -/
def State.runPass (s : State) (p : Nat) (ps : Pass) (b : Bank) (lines : List Nat) : PassSum :=
  let j := ps.job
  let d := j.get
  let pos := d.pos ps.pass
  let k0 := pos.ki * d.kc
  let ks := (List.range (d.kIn pos)).map (k0 + ·)
  let rows := d.rowsIn pos
  let cols := d.colsIn pos
  -- the operand that stays: rows in dray form, columns in square form
  let statN := if d.dray then rows else cols
  let stat0 := if d.dray then pos.mi * d.mc else pos.ni * d.nc
  let mov0 := if d.dray then pos.ni * d.nc else pos.mi * d.mc
  let blocks := (List.range (ceilDiv ks.length 16)).map (fun i => k0 + 16 * i)
  let stats := (List.range statN).map (fun x =>
    (ks.map (fun k => mget 0 ps.elems (cellKey (stat0 + x) k)), blocks.map (fun k => (mget 0 ps.glazes (cellKey (stat0 + x) (k / 16))).toNat)))
  let first := pos.ki = 0 && pos.sub = 0 && !d.acc
  let first2 := pos.ki = 0 && d.multi = 2 && !d.acc
  lines.foldl (fun acc y =>
    match acc.bad with
    | some _ => acc
    | none =>
      let (s, mv, nan, bad) := acc.s.loadOperand p d false pos.sub (ks.map (d.movOff (mov0 + y)))
      let (s, gm, bad2) :=
        if fmtGlazed d.movFmt then s.readLocals p 1 (blocks.map (fun k => d.movGlaze + d.movGlazeOff (mov0 + y) k)) else (s, [], none)
      match bad.or bad2 with
      | some o => { acc with s, nanIn := acc.nanIn || nan, bad := some o }
      | none =>
        let outs := stats.map (fun st => if d.skew then d.chainDot st.1 mv else d.dot pos.sub st.1 mv st.2 gm)
        let cells := outs.mapIdx (fun x o =>
          let key := if d.dray then d.sumKey pos.sub x y else d.sumKey pos.sub y x
          let old := (acc.bank.sum key).getD 0
          let w := if first || first2 then o.word else if d.isInt then old + o.word else fadd32 old o.word
          (key, w, o.counts, o.nan || (!d.isInt && (ofFp32 w).isNan)))
        { acc with
          s
          bank := { acc.bank with sums := cells.foldl (fun m c => mset none m c.1 (some c.2.1)) acc.bank.sums }
          counts := cells.foldl (fun c x => c.merge x.2.2.1) acc.counts
          nanIn := acc.nanIn || nan
          nanSum := acc.nanSum || cells.any (·.2.2.2) }) { s, bank := b }

/-- The decision at the close of a descriptor's last bank, by the descriptor that follows; with none, the bank is held
unless its core has ended or was stopped (R140). -/
def ArrayState.holdOrDrain (a : ArrayState) (i : Bool) (follows : Option ArrayJob) : ArrayState :=
  match follows with
  | none => if a.ended then a.close i else a.setBank i { (a.bank i) with phase := .held }
  | some h => if h.get.acc then a.setBank i { (a.bank i) with phase := .open } else a.close i

/-- A held bank when a descriptor reaches the head (R140). -/
def ArrayState.unhold (a : ArrayState) (acc : Bool) : ArrayState :=
  let i := !a.nextBank
  if (a.bank i).phase = .held then (if acc then a.setBank i { (a.bank i) with phase := .open } else a.close i) else a

/-- A bank opens for a chunk of a descriptor (R125, R137). -/
def ArrayState.openBank (a : ArrayState) (j : ArrayJob) (pos : PassPos) : ArrayState :=
  let i := a.nextBank
  { (a.setBank i { (a.bank i) with phase := .open, opener := some j, owner := some j, mc := pos.mi, nc := pos.ni }) with
    nextBank := !i }

/-- The head descriptor leaves the queue. -/
def ArrayState.leaveHead (a : ArrayState) : ArrayState :=
  { a with
    queue := a.queue.tail
    headOk := false
    nextPass := 0 }

/-- A head descriptor that runs no pass because K = 0 opens and closes its banks in fold order, each when it is free and
no pass is in flight, with every sum of a bank it opens zero (R127); `nextPass` counts the banks done. -/
def ArrayState.zeroBanks : Nat → ArrayState → ArrayState
  | 0, a => a
  | n + 1, a =>
    match a.queue with
    | j :: rest =>
      let d := j.get
      if !a.headOk || d.k != 0 || d.banks ≤ a.nextPass || !a.inFlight.isEmpty then a
      else if d.acc then
        let i := !a.nextBank
        ((a.setBank i { (a.bank i) with owner := some j }).leaveHead).holdOrDrain i rest.head?
      else if a.next.phase != .free then a
      else
        let pos : PassPos := ⟨a.nextPass / d.nChunks, a.nextPass % d.nChunks, 0, 0⟩
        let i := a.nextBank
        let a' := a.openBank j pos
        let a' := a'.setBank i { (a'.bank i) with sums := [], fill := some 0 }
        if a.nextPass + 1 = d.banks then a'.leaveHead.holdOrDrain i rest.head?
        else ArrayState.zeroBanks n { (a'.close i) with nextPass := a.nextPass + 1 }
    | [] => a

/-- The bank a pass adds to: the one its descriptor opened for its chunk, or joined (R137, R141). -/
def ArrayState.bankOf (a : ArrayState) (j : ArrayJob) (pos : PassPos) : Option Bool :=
  let fits (b : Bank) : Bool := b.phase = .open && b.mc = pos.mi && b.nc = pos.ni &&
    (match b.opener, b.owner with
     | some o, some w => o.no ≤ j.no && j.no ≤ w.no
     | _, _ => false)
  if fits a.bank0 then some false else if fits a.bank1 then some true else none

/-! ### The output stage (R142 to R145, R147) -/

/-- One sum through scale, bias and activation: the FP32 result, the NaN flag (R142, R144); n numbers free values. -/
def ADesc.stage (d : ADesc) (n : Nat) (plain : Bool) (x scale bias : Word) : Word × Bool :=
  let y := if d.scaleMode = 0 then x else fmul32 x scale
  let y := if d.biasEn && !plain then fadd32 y bias else y
  let bad : Bool := (ofFp32 x).isNan || (d.scaleMode != 0 && (ofFp32 scale).isNan) || (ofFp32 y).isNan ||
    (!plain && ((d.biasEn && (ofFp32 bias).isNan) || (d.act = 7 && (ofBf16 d.clamp).isNan)))
  (if plain then y else activate d.act d.clamp n y, bad)

/-- The writes of one bank: for each row of its chunk the values in FP32, real plane and imaginary plane (R142, R147). -/
def ADesc.rowValues (d : ADesc) (b : Bank) (free row cols : Nat) (sc bi : Nat → Word) : List (Word × Bool) × List (Word × Bool) :=
  let sum (q c : Nat) : Word := (b.sum (d.sumKey q row c)).getD 0
  let f32 (w : Word) : Word := if d.isInt then toFp32 (.ofInt w.toInt) else w
  if d.multi = 2 then
    let re := (List.range cols).map (fun c => d.stage 0 true (fsub32 (sum 0 c) (sum 1 c)) (sc c) 0)
    let im := (List.range cols).map (fun c => d.stage 0 true (fsub32 (fsub32 (sum 2 c) (sum 0 c)) (sum 1 c)) (sc c) 0)
    (re, im)
  else ((List.range cols).map (fun c => d.stage (free + row * 4096 + c) false (f32 (sum 0 c)) (sc c) (bi c)), [])

/-- The scale and bias values of a chunk: read at the bank's drain. -/
def State.readVector (s : State) (p base lo n : Nat) : State × List Nat × Option Nat :=
  s.readLocals p 4 ((List.range n).map (fun i => base + 4 * (lo + i)))

/-- Writes bytes at a local offset of a core, as the output stage does. -/
def State.writeLocal (s : State) (p off : Nat) (bs : List Byte) : State × Bool :=
  match (localPlace p off).phys with
  | some a => s.writePhys a bs
  | none => (s, true)

/-- One row of a bank converted to the output format. -/
def ADesc.outRow (d : ADesc) (update : Bool) (vs : List (Word × Bool)) : RowOut :=
  let xs := vs.map (fun v => ofFp32 v.1)
  let o := if fmtGlazed d.outFmt then writeGlazed d.outFmt d.blk d.mx d.e5Inf xs else writePlain d.outFmt d.e5Inf false update xs
  { o with nan := o.nan || vs.any (·.2) }

/-- What the drain of a bank reads: the state after it, the scales and the biases of its chunk, and the offset of an
uncorrectable one (R142). -/
def State.drainReads (s : State) (p : Nat) (b : Bank) (d : ADesc) : State × List Nat × List Nat × Option Nat :=
  let pos : PassPos := ⟨b.mc, b.nc, 0, 0⟩
  let cols := d.colsIn pos
  let (s, scs, bad1) := if d.scaleMode = 2 then s.readVector p d.scaleBase (pos.ni * d.nc) cols
    else if d.scaleMode = 1 then s.readVector p d.scaleBase 0 1 else (s, [], none)
  let (s, bis, bad2) := if d.biasEn && d.multi != 2 then s.readVector p d.biasBase (pos.ni * d.nc) cols else (s, [], none)
  (s, scs, bis, bad1.or bad2)

/-- The rows that leave a bank through the output stage, each with its number and the offset of its plane (R142, R143,
R147). -/
def ADesc.drainRows (d : ADesc) (b : Bank) (update : Bool) (free : Nat) (scs bis : List Nat) : List (Nat × Nat × RowOut) :=
  let pos : PassPos := ⟨b.mc, b.nc, 0, 0⟩
  let cols := d.colsIn pos
  let sc (c : Nat) : Word := BitVec.ofNat 32 (scs.getD (if d.scaleMode = 1 then 0 else c) 0)
  let bi (c : Nat) : Word := BitVec.ofNat 32 (bis.getD c 0)
  (List.range (d.rowsIn pos)).flatMap (fun row =>
    if d.intPath then [(row, 0, ⟨(List.range cols).map (fun c => ((b.sum (d.sumKey 0 row c)).getD 0).toNat), [], {}, false⟩)]
    else
      let (re, im) := d.rowValues b free row cols sc bi
      (row, 0, d.outRow update re) :: (if d.multi = 2 then [(row, round64 d.outSize, d.outRow update im)] else []))

/-- The writes of the rows of a chunk: false where a word refused one (R138). -/
def State.drainWrites (s : State) (p : Nat) (b : Bank) (d : ADesc) (rows : List (Nat × Nat × RowOut)) : State × Bool :=
  let e := fmtBytes d.outFmt
  rows.foldl (fun acc x =>
    let row := b.mc * d.mc + x.1
    let r := x.2.2
    let (s, glazed) := if r.glazes.isEmpty then (acc.1, true)
      else acc.1.writeLocal p (d.outGlaze + row * (d.n / d.blk) + b.nc * d.nc / d.blk) (r.glazes.map (BitVec.ofNat 8))
    let (s, ok) := s.writeLocal p (d.out + x.2.1 + (row * d.n + b.nc * d.nc) * e) (r.elems.flatMap (leBytes e))
    (s, acc.2 && glazed && ok)) (s, true)

end Sys2Proof.Machine
end

