-- ==== Sys2Proof/Machine/Array.lean ====
section
/-!
DEFINITION. The rows of the matrix array (R118 to R158).
-/
namespace Sys2Proof.Machine

/-- The array of a core. -/
def State.arr (s : State) (p : Nat) : ArrayState := (s.core p).arr
def State.setArr (s : State) (p : Nat) (a : ArrayState) : State := s.setCore p { (s.core p) with arr := a }

/-- Whether a core is the one its region runs in skewed-feed mode (R154). -/
def State.skewed (s : State) (p : Nat) : Bool :=
  s.on .ARR_SKEW_EN (coreRegion p) && s.get .ARR_SKEW_SLOT (coreRegion p) = coreSlot p

/-- A K = 0 head goes as far as it can. -/
def State.moveOn (s : State) (p : Nat) : State := s.setArr p ((s.arr p).zeroBanks 4)

/-- ARRAY_DESC_HEAD (R103, R127, R128, R131, R140, R151): the head of the queue is checked, and completed, trapped or
made ready; a held bank joins it or drains; a gated array asks for its ramp. DEDUCED (log entry 144): one with M or N zero
completes with no check, as R70 has it of the all-zero descriptor. -/
def execArrayDescHead (p : PCore) (s : State) : Host.Outcome State Fault Refusal :=
  let a := s.arr p.no
  match a.queue with
  | [] => .next s
  | j :: rest =>
    if a.headOk then .next (s.moveOn p.no)
    else
      let j := { j with skew := s.skewed p.no }
      let d := j.get
      if d.m = 0 || d.n = 0 then
        .next (((s.setArr p.no (({ a.leaveHead with tail := false } : ArrayState).unhold false)).report d.tag {}).checkComplete)
      else
        match s.arrayBad a d with
        | some sub => .next (s.trap p.no 7 3 (sub + 256 * j.index.toNat) j.pc.toNat)
        | none =>
          let a := ({ a with
            queue := j :: rest
            headOk := true
            tail := false
            rampWanted := if a.gated && d.passes != 0 then some s.fc else a.rampWanted } : ArrayState)
          .next ((s.setArr p.no ((a.unhold d.acc).note j {})).moveOn p.no)

/-- SHADOW_GROUP_LOAD (R132): the next group of 32 cells of the head's next pass enters the shadow. -/
def execShadowGroupLoad (p : PCore) (s : State) : Host.Outcome State Fault Refusal :=
  let a := s.arr p.no
  match a.queue with
  | [] => .next s
  | j :: _ =>
    let d := j.get
    let ps := a.shadow.getD ⟨j, a.nextPass, 0, [], []⟩
    let pos := d.pos ps.pass
    if !a.headOk || d.passes ≤ a.nextPass || d.groups pos ≤ ps.groups then .next s
    else
      let cells := d.groupCells pos ps.groups
      let (s, ws, nan, bad) := s.loadOperand p.no d true pos.sub (cells.map (fun c => d.statOff c.1 c.2))
      let (s, gs, bad2) :=
        if fmtGlazed d.statFmt then s.readLocals p.no 1 (cells.map (fun c => d.statGlaze + d.statGlazeOff c.1 c.2)) else (s, [], none)
      let unit := if nan then some 3 else none
      match bad.or bad2 with
      | some o => .next (s.arrayStop p.no j unit (some o))
      | none =>
        let elems := (cells.zip ws).foldl (fun m c => mset 0 m (cellKey c.1.1 c.1.2) c.2) ps.elems
        let glazes := (cells.zip gs).foldl (fun m c => mset 0 m (cellKey c.1.1 (c.1.2 / 16)) (BitVec.ofNat 8 c.2)) ps.glazes
        let s := s.setArr p.no { a with shadow := some { ps with groups := ps.groups + 1, elems, glazes } }
        .next (s.arrayStop p.no j unit none)

/-- ARRAY_FLIP (R134, R137): a complete shadow becomes active, and opens its bank where it begins one. It waits for the
ramp, for the bank, and across a change of form for the earlier passes. -/
def execArrayFlip (p : PCore) (s : State) : Host.Outcome State Fault Refusal :=
  let a := s.arr p.no
  match a.queue, a.shadow with
  | j :: _, some ps =>
    let d := j.get
    let pos := d.pos ps.pass
    let opens : Bool := pos.ki = 0 && pos.sub = 0 && !d.acc
    let formWait := a.inFlight.any (fun q => q.job.get.dray != d.dray)
    if ps.groups < d.groups pos || a.gated || formWait || (opens && a.next.phase != .free) then .next s
    else
      let a := if opens then a.openBank j pos
        else if d.acc then a.setBank (!a.nextBank) { (a.bank (!a.nextBank)) with owner := some j } else a
      let a : ArrayState := { a with
        shadow := none
        inFlight := a.inFlight ++ [ps]
        tail := false }
      .next (s.setArr p.no (if ps.pass + 1 = d.passes then a.leaveHead else { a with nextPass := ps.pass + 1 }))
  | _, _ => .next s

/-- The pass in flight `ps` is done: its bank closes where it is the bank's last (R133, R140), and with nothing behind it
the array's tail begins (R152). -/
def ArrayState.passDone (a : ArrayState) (ps : Pass) (rest : List Pass) (i : Bool) : ArrayState :=
  let d := ps.job.get
  let pos := d.pos ps.pass
  let follows := ((rest.map (·.job)).find? (fun q => q.no != ps.job.no)).or a.queue.head?
  let a : ArrayState := { a with
    inFlight := rest
    chain := 0 }
  let a := if !(pos.ki + 1 = d.kChunks && pos.sub + 1 = d.subs) then a
    else if ps.pass + 1 = d.passes then a.holdOrDrain i follows else a.close i
  if rest.isEmpty && a.queue.isEmpty then { a with tail := true } else a

/-- Moving lines of the oldest pass in flight enter its bank; with the last of them the pass is done. One NaN trap at
most follows: for an operand, else for a sum (R192). -/
def State.feedPass (s : State) (p : Nat) (ps : Pass) (rest : List Pass) (lines : List Nat) (last : Bool) : State :=
  let j := ps.job
  let d := j.get
  match (s.arr p).bankOf j (d.pos ps.pass) with
  | none => s
  | some i =>
    let r := s.runPass p ps ((s.arr p).bank i) lines
    let unit := if r.nanIn then some 3 else if r.nanSum then some 4 else none
    match r.bad with
    | some o => r.s.arrayStop p j unit (some o)
    | none =>
      let a := ((r.s.arr p).setBank i r.bank).note j r.counts
      let s := if last then (r.s.setArr p (a.passDone ps rest i)).moveOn p else r.s.setArr p { a with chain := a.chain + 1 }
      s.arrayStop p j unit none

/-- CABOOSE_CLOSE (R133): the caboose of the oldest pass in flight reaches the accumulator. -/
def execCabooseClose (p : PCore) (s : State) : Host.Outcome State Fault Refusal :=
  match (s.arr p.no).inFlight with
  | ps :: rest => if ps.job.skew then .next s else .next (s.feedPass p.no ps rest (List.range ps.lines) true)
  | [] => .next s

/-- SKEW_CHAIN_STEP (R155): one step of the systolic chain; the sum of moving row t enters the bank at the end of step
t + 31, and the pass is done with the last row, after M + 31 steps. -/
def execSkewChainStep (p : PCore) (s : State) : Host.Outcome State Fault Refusal :=
  let a := s.arr p.no
  match a.inFlight with
  | ps :: rest =>
    if !ps.job.skew then .next s
    else .next (s.feedPass p.no ps rest (if 31 ≤ a.chain then [a.chain - 31] else []) (decide (ps.job.get.m + 31 ≤ a.chain + 1)))
  | [] => .next s

/-- The bank to drain: of the closed ones, the one that closed first (R138). -/
def ArrayState.toDrain (a : ArrayState) : Option Bool :=
  match a.bank0.phase, a.bank1.phase with
  | .closed, .closed => some (decide (a.bank1.seq < a.bank0.seq))
  | .closed, _ => some false
  | _, .closed => some true
  | _, _ => none

/-- Descriptors up to a number are complete: their counts set out (R189). -/
def State.reportUpTo (s : State) (p no : Nat) : State :=
  let a := s.arr p
  let done := a.tally.filter (fun t => t.1 ≤ no)
  (s.setArr p { a with tally := a.tally.filter (fun t => no < t.1) }).each done (fun s t => s.report t.2.1 t.2.2)

/-- BANK_DRAIN (R138, R142): the bank that closed first drains through the output stage and is free; a descriptor whose
last bank has drained is complete. DESIGN CHOICE (log entry 145): where a NaN of the output stage faults the core, nothing
of the bank is written or counted. -/
def execBankDrain (p : PCore) (s : State) : Host.Outcome State Fault Refusal :=
  let a := s.arr p.no
  match a.toDrain with
  | none => .next s
  | some i =>
    let b := a.bank i
    match b.owner with
    | none => .next s
    | some j =>
      let d := j.get
      let (t, scs, bis, bad) := s.drainReads p.no b d
      let t := t.setArr p.no ((t.arr p.no).setBank i { b with phase := .free, opener := none, owner := none })
      match bad with
      | some o => .next (t.arrayUE p.no j o)
      | none =>
        let rows := d.drainRows b (s.on .NUM_EXP_UPDATE d.tag) t.free scs bis
        let t := t.useFree (512 * 4096)
        let unit := if rows.any (fun x => x.2.2.nan) then some 5 else none
        if unit.isSome && !s.on .NUM_CFG_NAN_MODE then .next (t.arrayStop p.no j unit none)
        else
          let (t, ok) := t.drainWrites p.no b d rows
          let t := t.arrayStop p.no j unit none
          if !ok then .next (t.trap p.no 0x0A 3 (4 + 256 * j.index.toNat) j.pc.toNat)
          else
            let c := rows.foldl (fun c x => c.merge x.2.2.counts) ({} : Counts)
            let last : Bool := b.mc + 1 = d.mChunks && b.nc + 1 = d.nChunks
            let t := (t.setArr p.no ((t.arr p.no).note j c)).ovf16 p.no c
            let t := if last then t.reportUpTo p.no j.no else t
            .next ((t.moveOn p.no).checkComplete)

/-- A ramp may be admitted now: after the start slot of the region and the stagger, in the order of requests and, among
simultaneous ones, of slots, a spare counting as the core it carries (R153, R438). DESIGN CHOICE (log entry 131): with
STAGGER 0 arrays of a region may begin their ramps in the same fc, as Table 9 has it. -/
def State.rampOk (s : State) (p : Nat) : Bool :=
  let reg := coreRegion p
  let x := s.region reg
  let slot (q : Nat) : Nat := coreSlot (match s.logicalCore q with
    | some c => q / 17 * 17 + c
    | none => q)
  let mine := (s.arr p).rampWanted
  s.runFc + 128 * x.startSlot ≤ s.fc &&
    (match x.lastRampFc with
     | some f => decide (f + s.get .ARR_RAMP_STAGGER reg ≤ s.fc)
     | none => true) &&
    (match mine with
     | some f => (regionCores reg).all (fun q => match (s.arr q).rampWanted with
       | some g => decide (f < g) || (f = g && slot p ≤ slot q)
       | none => true)
     | none => false)

/-- ARRAY_RAMP_ADMIT (R151, R153, R438): the ramp of a gated array begins. -/
def execArrayRampAdmit (p : PCore) (s : State) : Host.Outcome State Fault Refusal :=
  if s.rampOk p.no then
    let reg := coreRegion p.no
    .next ((s.setArr p.no { (s.arr p.no) with rampWanted := none, gated := false }).setRegion reg
      { (s.region reg) with lastRampFc := some s.fc })
  else .next s

/-- ARRAY_GATE (R152): after its tail of zero vectors, with no descriptor at the head, the array gates. -/
def execArrayGate (p : PCore) (s : State) : Host.Outcome State Fault Refusal :=
  let a := s.arr p.no
  if a.tail && a.queue.isEmpty && a.inFlight.isEmpty then .next (s.setArr p.no { a with tail := false, gated := true })
  else .next s

/-- The effective fuse features (R465): debug, JTAG and accumulator visibility. -/
def State.feature (s : State) (i : Nat) : Bool :=
  s.shadowBank.lifecycle = 3 || (s.shadowBank.enables &&& ~~~s.shadowBank.disables).getLsbD i

/-- The 32 sums of a bank line as they stand; those that nothing has written since LOAD_IMAGE are free values (R158). -/
def bankLine (b : Bank) (line free : Nat) : List Word :=
  (List.range 32).map (fun w => (b.sum (line * 32 + w)).getD (Config.bankSum (free + w)))

/-- BAR0 offset of a region's ARR_DBG_SEL. -/
def dbgSelOffset (reg : Nat) : Nat := 0x1000000 + reg * 0x8000 + 0x4808

/-- A write of ARR_DBG_SEL (R156, R158). Without the fuse it is ignored with an event; with it the selection is taken,
and CAPTURE copies the line of a core that does not run. -/
def State.writeDbgSel (s : State) (reg v : Nat) : State :=
  if !s.feature 2 then s.ignoredWrite (dbgSelOffset reg)
  else
    let slot := bits v 0 7
    let s := s.puts reg [(.ARR_DBG_SEL_SLOT, slot), (.ARR_DBG_SEL_BANK, bits v 7 1), (.ARR_DBG_SEL_LINE, bits v 8 9)]
    if bits v 31 1 = 0 then s
    else
      let p := slotCore reg slot
      if 68 ≤ slot || s.get .CORE_STATUS_STATE p = 1 then s.put .ARR_DBG_SEL_CAPTURED 0 reg
      else
        let line := bankLine ((s.arr p).bank (bits v 7 1 = 1)) (bits v 8 9) s.free
        let s := (line.mapIdx (fun i w => (i, w))).foldl (fun s x => s.putWord .ARR_DBG_DATA_SUM x.2 (reg * 32 + x.1)) s
        { (s.put .ARR_DBG_SEL_CAPTURED 1 reg) with free := s.free + 32 }

end Sys2Proof.Machine
end

