-- ==== Sys2Proof/Machine/MeshOps.lean ====
section
/-!
DEFINITION. What routers do (R236 to R248, R258 to R262): delivery with its acknowledgement, credits, fork hold buffers,
grants; how barrier releases travel.
-/
namespace Sys2Proof.Machine

/-- The core a multicast flit reaches at a leaf router: across the spine (5) the cluster's spare, else the logical core
of that position (R44, R258). -/
def State.leafCore (s : State) (r input : Nat) : Nat :=
  let p := routerCore r
  if input = 5 || p % 17 = 16 then p / 17 * 17 + 16 else s.physCore (p / 17 / 40) (p / 17 % 40) (p % 17)

/-- The members of a barrier, as physical cores. -/
def State.barMembers (s : State) (bar : Nat) : List Nat :=
  match s.image with
  | some im => ((im.members.filter (fun m => m.id + (if m.sys then 256 else 0) = bar)).map (fun m => s.crefCore m.core)).eraseDups
  | none => []

/-- A release is ejected at a member: its release count rises, and it has the news of the step, the numerics page first
(R252, R305, R327). -/
def State.releasedAt (s : State) (bar : Nat) (news : Option News) (p : Nat) : State :=
  let c := s.core p
  let c := { c with releases := mset 0 c.releases bar (mget 0 c.releases bar + 1) }
  match news with
  | none => s.setCore p c
  | some w => (s.store (nearAddr p (s.get .NUM_PAGE_ADDR)) w.page).setCore p { c with
      step := w.step
      bufSel := w.bufSel
      mayWriteUnique := w.write }

/-- A flit leaves the mesh at router r by an output and takes effect there; its acknowledgement enters there. -/
def State.deliver (s : State) (r out : Nat) (f : Flit) : State :=
  match f.load with
  | .write addr data =>
    let w := s.storeAt addr data
    if !w.2 then w.1.refusedWrite f.owner
    else
      let held := (s.place addr).phys.elim [] (fun a => w.1.cachedLines a data.length)
      if held.isEmpty then w.1.acknowledge r out f else { w.1 with snoopAcks := w.1.snoopAcks ++ [(held, r, out, f)] }
  | .mcast off data =>
    match (localPlace (s.leafCore r out) off).phys with
    | some d =>
      let w := s.writePhys d data
      if w.2 then w.1.acknowledge r out f else w.1.refusedWrite f.owner
    | none => s.acknowledge r out f
  | .read addr n => s.ringAnswer r out f addr n
  | .answer addr n data => s.answered f.owner addr n data
  | .ack => s.acked f.owner
  | .release bar _ news => s.each ((s.barMembers bar).filter (fun p => s.attach p = (r, out))) (fun s p => s.releasedAt bar news p)
  | .remote .. => s.drop r 1
  | .onward _ => s.drop r 1
  | .leafAck _ => s.drop r 1
  | .arrival _ _ => s.drop r 1

/-! ### Granting (R245 to R247, R258 to R260) -/

/-- Flits that a port's transmit side takes on a channel before it returns no credit (log entry 35). -/
def portDepth : Nat := 8

/-- Fibre flits of the FP32 view in one flit of an egress format. -/
def egressPack (egress : Nat) : Nat := if egress = 1 then 2 else if egress = 2 then 4 else 1

/-- Whether two flits belong to one packet for a port. -/
def Flit.samePacket (f g : Flit) : Bool :=
  f.owner = g.owner && (match f.load, g.load with
    | .remote a e _ _ _, .remote b h _ _ _ => a = b && e = h
    | _, _ => false)

/-- The flits of a queue that leave with its flit f as one fibre flit: as many of its packet as its format packs, or those
up to the packet's last; none while some of them are still on their way (R293). -/
def groupOf (q : List Flit) (f : Flit) : Option (List Flit) :=
  match f.load with
  | .remote _ egress _ _ _ =>
    let k := egressPack egress
    let rec upTo (n : Nat) (fs : List Flit) : List Flit :=
      match n, fs with
      | n + 1, g :: rest => if g.last then [g] else g :: upTo n rest
      | _, _ => []
    let g := upTo k (q.filter f.samePacket)
    if g.length = k || g.any (·.last) then some g else none
  | _ => some [f]

/-- The flits of a channel's queue that leave as the next fibre flit. -/
def nextGroup (q : List Flit) : List Flit := (q.findSome? (groupOf q)).getD []

/-- The region an output faces, where it leads to another router. -/
def outRegion (r out : Nat) : Option Nat :=
  match joint r out with
  | .router q _ => some (routerRegion q)
  | _ => none

/-- Why an output drops a flit of a channel (R267): 2 it faces a stopped region, 3 it is unconnected, as the host bridge's
is for all but MAINT (R236). -/
def State.outDrops (s : State) (r out vc : Nat) : Option Nat :=
  match joint r out with
  | .nothing => some 3
  | .host => if vc = 3 then none else some 3
  | _ => if (outRegion r out).any s.stopped then some 2 else none

/-- Whether an output holds a credit for a channel; local port, spine and bridges accept what they are given, and an
output that drops returns its credit at once (R266). A port takes on what completes a fibre flit. -/
def State.credit (s : State) (r out vc : Nat) : Bool :=
  match joint r out with
  | .router _ _ => (s.outDrops r out vc).isSome || (s.router r).usedAt out vc < bufferDepth
  | .port n =>
    let q := mget [] (s.port n).tx vc
    q.length < portDepth || (nextGroup q).isEmpty
  | _ => true

/-- A forwarded packet's way back is kept, by its last flit (R288). -/
def State.relay (s : State) (f : Flit) (k : FibrePacket) : State :=
  if k.kind = .write && k.last && fibreOwner ≤ f.owner then
    let n := f.owner / fibreOwner - 1
    let p := s.port n
    s.setPort n { p with relays := p.relays ++ [⟨k.vc, k.farRoute, k.writer, k.chan, BitVec.ofNat 8 f.ackRoute⟩] }
  else s

/-- One flit leaves by an output: over a link it takes a credit; at its destination it takes effect. -/
def State.sendFlit (s : State) (r out : Nat) (f : Flit) : State :=
  let s := if out < 6 then s.count .MESH_RTR_FLITS_COUNT 1 (r * 24 + out * 4 + f.vc.no) else s
  match s.outDrops r out f.vc.no with
  | some cause => s.drop r cause
  | none =>
    match joint r out with
    | .router q input =>
      let x := s.router r
      (s.setRouter r (x.setUsed out f.vc.no (x.usedAt out f.vc.no + 1))).enter q input f
    | .here => s.deliver r out f
    | .bridge _ => s.deliver r out f
    | .host => s.acknowledge r out f
    | .port n => (match f.load with
      | .onward k => (s.relay f k).toPort n f
      | _ => s.toPort n f)
    | .nothing => s

/-- Copies that a fork hold buffer holds (R259). -/
def holdDepth : Nat := 16

/-- The number by which an output's round robin knows its hold buffer, after inputs 0 to 6. -/
def holdTurn : Nat := 7

/-- An output can send a flit now: nothing is held before it, and it holds a credit. -/
def State.sendable (s : State) (r out vc : Nat) : Bool := ((s.router r).held out vc).isEmpty && s.credit r out vc

/-- An output's hold buffer has room for a copy. -/
def State.holdable (s : State) (r out vc : Nat) : Bool := ((s.router r).held out vc).length < holdDepth

/-- Whether a flit at an input head can be granted at an output: it wants the output, which holds a credit; and of a fork,
every other branch can send or hold it (R259, R260). -/
def State.grantable (s : State) (r out : Nat) (f : Flit) : Bool :=
  let vc := f.vc.no
  (s.wants r f).contains out &&
    (if f.forks then s.sendable r out vc && (s.wants r f).all (fun b => s.sendable r b vc || s.holdable r b vc)
     else s.credit r out vc)

/-- A hold buffer of a router is full on a channel (R260). -/
def State.holdFull (s : State) (r vc : Nat) : Bool := (List.range 7).any (fun b => !s.holdable r b vc)

/-- What an output can grant on a channel: input numbers, or the hold buffer. -/
def State.eligible (s : State) (r out vc : Nat) : List Nat :=
  let x := s.router r
  ((List.range 7).filter (fun i => match x.input i vc with
    | f :: _ => s.grantable r out f
    | [] => false)) ++
  (if (x.held out vc).isEmpty || !s.credit r out vc then [] else [holdTurn])

/-- A flit leaves an input buffer, and the next one behind it enters. -/
def State.takeInput (s : State) (r i vc : Nat) (f : Flit) : State :=
  let x := s.router r
  s.setRouter r ((x.setInput i vc ((x.input i vc).erase f)).refill i vc)

/-- The first flit of an input leaves its buffer, and the next one behind it enters. -/
def State.popInput (s : State) (r i vc : Nat) : State :=
  let x := s.router r
  s.setRouter r ((x.setInput i vc (x.input i vc).tail).refill i vc)

/-- A fork's flit goes to every branch, with copies held for those that cannot send it (FORK_HOLD, R259). -/
def State.fork (s : State) (r : Nat) (f : Flit) : State :=
  s.each (s.wants r f) (fun s b =>
    if s.sendable r b f.vc.no then s.sendFlit r b f
    else
      let x := s.router r
      s.setRouter r (x.setHeld b f.vc.no (x.held b f.vc.no ++ [f])))

/-- Sends the first flit of an input: by the output granted, or to every branch of its fork. -/
def State.grantInput (s : State) (r out i vc : Nat) : State :=
  match (s.router r).input i vc with
  | [] => s
  | f :: _ =>
    let s := s.popInput r i vc
    if f.forks then s.fork r f else s.sendFlit r out f

/-- Sends the first flit of a hold buffer; its episode ends when the buffer empties (R262). -/
def State.grantHeld (s : State) (r out vc : Nat) : State :=
  let x := s.router r
  match x.held out vc with
  | [] => s
  | f :: rest =>
    let x := x.setHeld out vc rest
    let x := if rest.isEmpty then { x with slipped := mset false x.slipped (slotKey out vc) false } else x
    (s.setRouter r x).sendFlit r out f

/-- The input buffers of a router, as (input, channel). -/
def inputSlots : List (Nat × Nat) := (List.range 7).flatMap (fun i => (List.range 4).map (fun vc => (i, vc)))

/-- What a router does with the head flits of its inputs before its outputs grant: acknowledgements enter its fork entries
(R261), a fork's flit that no branch can send is held for all (R259), and a flit without an entry is dropped (R267). -/
def State.dropStrays (s : State) (r : Nat) : State :=
  s.each inputSlots (fun s k =>
    match (s.router r).input k.1 k.2 with
    | [] => s
    | f :: _ =>
      match f.path, f.load with
      | .unit i, .leafAck t => if s.taken r f then (s.popInput r k.1 k.2).leafAcked t r i f.owner else (s.popInput r k.1 k.2).drop r 1
      | .unit _, _ => if s.taken r f then s else (s.popInput r k.1 k.2).drop r 1
      | _, _ =>
        let os := s.wants r f
        if os.isEmpty then (s.popInput r k.1 k.2).drop r 1
        else if f.forks && os.all (fun b => !s.sendable r b k.2 && s.holdable r b k.2) then (s.popInput r k.1 k.2).fork r f
        else s)

/-- Grants one flit of a channel at an output, inputs taking turns (R245). -/
def State.grantChannel (s : State) (r out vc : Nat) : State :=
  let es := s.eligible r out vc
  let x := s.router r
  let t := mget 0 x.turn (slotKey out vc)
  match ((List.range 8).map (fun i => (t + i) % 8)).find? es.contains with
  | none => s
  | some i =>
    let s := s.setRouter r { x with turn := mset 0 x.turn (slotKey out vc) ((i + 1) % 8) }
    if i = holdTurn then s.grantHeld r out vc else s.grantInput r out i vc

/-- Whether an output has a flit on a channel that waits for a credit. -/
def State.starvedOut (s : State) (r out vc : Nat) : Bool :=
  let x := s.router r
  !s.credit r out vc && (!(x.held out vc).isEmpty || (List.range 7).any (fun i => match x.input i vc with
    | f :: _ => (s.wants r f).contains out
    | [] => false))

/-- Fc in a row without a grant after which MAINT goes ahead (R246). -/
def maintFloor : Nat := 63

/-- One fc of an output: stall counts, the grant by priority with the MAINT floor, and the floor's own count (R245,
R246). With `floorOnly` nothing but a floor grant is made. -/
def State.grant (s : State) (r out : Nat) (floorOnly : Bool) : State :=
  if s.stopped (routerRegion r) then s
  else
    let s := s.dropStrays r
    let s := if out < 6 then s.each (List.range 4) (fun s vc =>
        if s.starvedOut r out vc then s.count .MESH_RTR_STALL_COUNT 1 (r * 24 + out * 4 + vc) else s) else s
    let waited := mget 0 (s.router r).maintWait out
    let ready (vc : Nat) : Bool := !(s.eligible r out vc).isEmpty
    let order := if maintFloor ≤ waited then [0, 3, 1, 2] else [0, 1, 2, 3]
    let setWait (s : State) (n : Nat) : State :=
      let x := s.router r
      s.setRouter r { x with maintWait := mset 0 x.maintWait out n }
    match order.find? ready with
    | none => setWait s 0
    | some vc =>
      if floorOnly && !(vc = 3 && maintFloor ≤ waited) then s
      else
        let s := s.grantChannel r out vc
        setWait s (if vc = 3 || !ready 3 then 0 else waited + 1)

end Sys2Proof.Machine
end

