-- ==== Sys2Proof/WellFormed.lean ====
section
/-!
DEFINITION. Which commands the operands of their row admit: sizes that the operand types of Syntax.lean leave open. No
command stops the machine: what one with other operands does is said at its row (log entry 14).
-/
namespace Sys2Proof

/-- A host access moves 1 to 64 bytes (R209, R212): it lies within one line. -/
def HostOp.wellFormed (addr : Nat) : HostOp → Bool
  | .read n => 0 < n && addr % 64 + n ≤ 64
  | .write d => !d.isEmpty && addr % 64 + d.length ≤ 64

/-- The bad positions a memory event adds to a word of 72 bits or a line of 35 symbols (R200, R209). -/
def upsetWellFormed (limit : Nat) (upset : List Nat) : Bool := upset.all (· < limit)

/-- Bytes of BAR0: it ends with the debug window of region 399 (R399). -/
def bar0Size : Nat := 0x4000000

/-- The check of a command's operands. -/
def Instr.wellFormed : Instr → Bool
  | .hostRingAccess w addr op _ => op.wellFormed addr && (w != .bar2 || addr < 2 ^ 36)
  | .hostClusterAccess _ addr op => op.wellFormed addr && 0x400000000000 ≤ addr && addr < 0x401900000000
  | .bar0HoleAccess addr op => op.wellFormed addr && addr + 64 ≤ bar0Size + addr % 64
  | .registerWrite offset _ => offset < bar0Size
  | .hostedAreaWrite offset _ => offset == 0xA00050 || offset == 0xA00054 || offset == 0xA00058
  | .scrubAccess _ word => upsetWellFormed 72 word.upset
  | .patrolRead _ upset => upsetWellFormed 35 upset
  | .mctpCommand _ d => d.length == 64
  | _ => true

end Sys2Proof
end

