-- ==== Sys2Proof/Machine/MemoryOps.lean ====
section
/-!
DEFINITION. What the memory rows share: scrub and patrol reads (R223 to R226), the location test (R232), the copy of a
unit's counts (R233), host accesses to the ring (R212, R218, R395 to R398) and to cluster windows (R219, R220).
-/
namespace Sys2Proof

/-- Bytes of an operation. -/
def HostOp.size : HostOp → Nat
  | .read n => n
  | .write d => d.length

/-- Whether an operation writes. -/
def HostOp.isWrite : HostOp → Bool
  | .read _ => false
  | .write _ => true

end Sys2Proof
namespace Sys2Proof.Machine

/-! ### Stacked SRAM (R203 to R206) -/

/-- Lines the merge buffer holds (R204). -/
def mergeLines : Nat := 32

/-- Banks by line: address bits [9:7] (Table 1). -/
def lineBank (line : Nat) : Nat := line % 8

/-- Whether a port requests a bank. -/
def Stacked.portsWait (x : Stacked) (bank : Nat) : Bool :=
  x.windows.any (fun w => !w.granted && lineBank w.line = bank) || x.alone.any (fun r => lineBank r.2 = bank)

/-- A line reaches some ports (R204). -/
def Stacked.deliver (x : Stacked) (ports : List Nat) (d : Delivery) : Stacked :=
  { x with delivered := ports.foldl (fun m p => mset none m p (some d)) x.delivered }

/-- A line that was uncorrectable traps the cores at the ports it was read for, while a job runs (R203, R230, R231). DESIGN
CHOICE (log entry 16): a request names no slot, so the trap has the move slot and the core's pc. -/
def State.portsTrap (s : State) (c : Nat) (ports : List Nat) (d : Delivery) : State :=
  if d.data.isSome || !s.job then s
  else s.each ports.eraseDups (fun s p => s.trap (c * 17 + p) 0x0A 1 2 (s.get .CORE_PC_PC (c * 17 + p)))

/-- A read request joins the line's open window, opens one, or is served alone (R204); one that joins after the grant
needs no read of its own (R206) and receives what the window's read brought. -/
def State.stackedRead (s : State) (c port line : Nat) : State :=
  let x := s.stack c
  match x.windows.find? (fun w => w.line = line && w.isOpen) with
  | some w =>
    let joined : Stacked := { x with windows := x.windows.map (fun v =>
      if v.line = line && v.isOpen then { v with ports := v.ports ++ [port] } else v) }
    if w.granted then
      let u := s.unit c
      let s := (s.setUnit c { u with merge := (u.merge + 1) % 2 ^ 32 }).setStack c (joined.deliver [port] ⟨line, w.data⟩)
      s.portsTrap c [port] ⟨line, w.data⟩
    else s.setStack c joined
  | none =>
    if x.windows.length < mergeLines then s.setStack c { x with windows := x.windows ++ [⟨line, [port], true, false, none⟩] }
    else s.setStack c { x with alone := x.alone ++ [(port, line)] }

/-- A window that has closed and been granted leaves the buffer. -/
def Stacked.prune (x : Stacked) : Stacked :=
  { x with windows := x.windows.filter (fun (w : Window) => w.isOpen || !w.granted) }

/-- The end of a merge window (R204). -/
def State.closeWindow (s : State) (c line : Nat) : State :=
  let x := s.stack c
  s.setStack c ({ x with windows := x.windows.map (fun (w : Window) => if w.line = line then { w with isOpen := false } else w) }.prune)

/-- The ports that wait for a bank: each with its window's line and whether it is a window's opener. -/
def Stacked.waiters (x : Stacked) (bank : Nat) : List (Nat × Nat × Bool) :=
  (x.windows.filter (fun w => !w.granted && lineBank w.line = bank)).map (fun w => (w.ports.headD 0, w.line, true)) ++
    (x.alone.filter (fun r => lineBank r.2 = bank)).map (fun r => (r.1, r.2, false))

/-- The cluster ports in the order in which a bank serves them in an fc: the starting position advances by one port per
fc (R203). -/
def portOrder (fc : Nat) : List Nat := (List.range 17).map (fun i => (fc + i) % 17)

/-- The request that a bank serves in this fc: the next port in round-robin order (R203). -/
def State.nextWaiter (s : State) (c bank : Nat) : Option (Nat × Nat × Bool) :=
  (portOrder s.fc).findSome? (fun p => ((s.stack c).waiters bank).find? (fun w => w.1 = p))

/-- A bank serves the next port: the line is read once, and every request of its window, or the one served alone,
receives it (R203, R204, R206). -/
def State.grantBank (s : State) (c bank : Nat) : State :=
  match s.nextWaiter c bank with
  | none => s
  | some (port, line, opener) =>
    let (s, data) := s.readPhys (stackedAddr c (line * 128)) 128
    let x := s.stack c
    if opener then
      let w := x.windows.find? (fun w => !w.granted && w.line = line && w.ports.headD 0 = port)
      let ports := (w.map (·.ports)).getD [port]
      let u := s.unit c
      let s := s.setUnit c { u with merge := (u.merge + (ports.length - 1)) % 2 ^ 32 }
      (s.setStack c (({ x with windows := x.windows.map (fun v =>
        if some v = w then { v with granted := true, data := data } else v) } : Stacked).prune.deliver ports ⟨line, data⟩)).portsTrap
          c ports ⟨line, data⟩
    else (s.setStack c (({ x with alone := x.alone.erase (port, line) } : Stacked).deliver [port] ⟨line, data⟩)).portsTrap c [port]
      ⟨line, data⟩

/-! ### Scrub and patrol (R223 to R226) -/

/-- 8-byte words of a cluster's stacked SRAM, and of it and its seventeen near SRAMs of 131,072 words. -/
def stackedWords : Nat := 6291456
def clusterWords : Nat := 8519680

/-- The word at a scrub position of a cluster: stacked SRAM first, then the near SRAMs. -/
def scrubKey (c pos : Nat) : Nat :=
  if pos < stackedWords then stackedKey c pos
  else nearKey (c * 17 + (pos - stackedWords) / 131072) ((pos - stackedWords) % 131072)

/-- Lines of a ring channel: a channel holds 256 bytes of every 4 KiB of its stack (R208). -/
def State.channelLines (s : State) : Nat := s.ringTop / max s.stacksInUse.length 1 / 1024

/-- The line at a patrol position of a ring channel. -/
def patrolKey (ch pos : Nat) : Nat := ringKey (ch / 16) (pos / 4 * 64 + ch % 16 * 4 + pos % 4)

/-- Whether a word or line lies in the loaded image's SRAM or ring allocation (R32, R33, R368, R371). -/
def State.allocated (s : State) (k : Nat) : Bool :=
  match s.image with
  | none => false
  | some im =>
    if 2 ^ 42 ≤ k then (s.errSpan k).1 < im.ringTop
    else if 2 ^ 41 ≤ k then
      let p := (k - 2 ^ 41) / 131072
      im.programs.any (fun b => s.crefCore b.core = p && (k - 2 ^ 41) % 131072 * 8 < b.nearTop * 64)
    else
      let c := (k - 2 ^ 40) / stackedWords
      let q := c % 40 / 10 % 2 * 2 + c % 40 % 10 % 2
      im.regions.any (fun r => r.region = clusterRegion c &&
        (k - 2 ^ 40) % stackedWords * 8 < r.stackedTop.getD q 0 * 4096)

/-- A scrub or patrol read of one word or line: a correction is written back; an uncorrectable error in the image's
allocation faults the job, with the region of a cluster (R225, R230). -/
def State.scrubRead (s : State) (k : Nat) : State :=
  let was := mget [] s.bad k
  let (s, f) := s.meet k
  match f with
  | .good => if was.isEmpty then s else { s with bad := mset [] s.bad k [] }
  | .wrong d true => { s with mem := memWrite s.mem (s.errSpan k).1 d, bad := mset [] s.bad k [] }
  | .wrong _ false => s
  | .bad =>
    if s.allocated k then
      let (cause, s) := s.fresh Config.scrubCause
      let u := (errUnit k).1
      s.classJ cause.toNat (if u < 1600 then clusterRegion u else 0)
    else s

/-- Bad positions that arise in a word or line. -/
def State.upset (s : State) (k : Nat) (more : List Nat) : State :=
  { s with bad := mset [] s.bad k ((mget [] s.bad k ++ more).eraseDups) }

/-- The passes that every unit of a list has completed. -/
def State.passesOf (s : State) (us : List Nat) : Nat :=
  match us with
  | [] => 0
  | u :: rest => rest.foldl (fun n v => min n (s.unit v).passes) (s.unit u).passes

/-- MEM_SCRUB_PASSES shows the passes that every cluster whose region is in Run has completed. -/
def State.showPasses (s : State) : State :=
  let n := s.passesOf ((List.range 1600).filter (fun c => s.get .PWR_REGION_STATE (clusterRegion c) = 0 &&
    s.on .PWR_REGION_CLK (clusterRegion c)))
  s.putSat .MEM_SCRUB_PASSES_CLUSTER (max n (s.get .MEM_SCRUB_PASSES_CLUSTER))

/-- The ring channels in use, as units. -/
def State.ringUnits (s : State) : List Nat := s.stacksInUse.flatMap (fun st => (List.range 16).map (fun i => 1600 + st * 16 + i))

/-- MEM_SCRUB_PASSES shows the patrol passes that every channel in use has completed. -/
def State.showPatrol (s : State) : State :=
  s.putSat .MEM_SCRUB_PASSES_PATROL (max (s.passesOf s.ringUnits) (s.get .MEM_SCRUB_PASSES_PATROL))

/-- The bank of a scrub position of a cluster: of stacked SRAM, or of the near SRAM, which has four with the same
interleave (R100, R199). -/
def scrubBank (pos : Nat) : Nat := if pos < stackedWords then lineBank (pos / 16) else pos / 16 % 4

/-- The position after a scrub or patrol access, and the end of a pass. -/
def State.scrubNext (s : State) (u words : Nat) : State :=
  let e := s.unit u
  if e.pos + 1 < words then s.setUnit u { e with pos := e.pos + 1, waiting := false }
  else
    let s := s.setUnit u { e with pos := 0, waiting := false, passes := e.passes + 1 }
    if u < 1600 then s.showPasses else s.showPatrol

/-- One scrub access: it reads its word and the position moves on. -/
def State.scrubStep (s : State) (u k words : Nat) : State := (s.scrubRead k).scrubNext u words

/-- Whether a cluster's scrub engine runs: its region clock does, and the fill has ended (R223, R226). -/
def State.scrubRuns (s : State) (c : Nat) : Bool :=
  s.on .PWR_REGION_CLK (clusterRegion c) && s.on .MEM_RING_CFG_SRAM_FILLED

/-- Whether the ring is in self-refresh, or behaves so while RINGTRAIN runs (R212, R507). -/
def State.ringAsleep (s : State) : Bool :=
  3 ≤ s.get .PWR_LADDER_MODULE || s.activities.any (fun a => a.started && a.code = 2)

/-- Whether the patrol of a channel runs (R224, R226). -/
def State.patrolRuns (s : State) (ch : Nat) : Bool :=
  !s.ringAsleep && s.on .MEM_RING_CFG_RING_FILLED && s.stacksInUse.contains (ch / 16)

/-! ### The location test (R232) -/

/-- A stack is lost: its STACK entry is added, and R213 applies from then on. -/
def State.loseStack (s : State) (cause st : Nat) : State :=
  let s := s.firmwareDefect 5 cause st
  { s with lostStacks := s.lostStacks ||| BitVec.ofNat 36 (2 ^ st) }

/-- Ring training outside start-up: a stack in use that fails is lost (R213, R429, R507). Which stacks fail is a free value
(log entry 1). -/
def State.trainStacks (s : State) : State :=
  let fails := Config.trainFails s.free
  (s.useFree 1).each (s.stacksInUse.filter fails.getLsbD) (fun s st => s.loseStack 9 st)

/-- The test of a location that met an uncorrectable error: zeros are left where it passes, in a line that the host caches
once its back-invalidation has ended (R398); else the entry or the repair of its tier. -/
def State.testLocation (s : State) (loc : MemLoc) (passes spareRow : Bool) : State :=
  let k := loc.key
  let span := s.errSpan k
  if passes then
    if (s.cachedLines span.1 span.2).isEmpty then { s with mem := memZero s.mem span.1 span.2, bad := mset [] s.bad k [] }
    else s.store span.1 (List.replicate span.2 0)
  else
    match loc with
    | .near p _ => s.firmwareDefect 1 6 (coreLoc p.no)
    | .stacked c _ => s.firmwareDefect 3 7 (c.no / 40 + c.no % 40 * 64)
    | .ring st line =>
      if spareRow then { s with repairs := s.repairs ++ [(st.val, line / 64)] }
      else s.loseStack 10 st.val

/-! ### The copy of a unit's counts (R233) -/

/-- BAR0 offset of MEM_CE_SEL. -/
def ceSelOffset : Nat := 0x800020

/-- A write of MEM_CE_SEL: the selection takes the write; GO starts a copy of it, or is ignored while one runs. The copy
keeps the selection of its GO in instance 1 of KIND and INDEX. -/
def State.writeCeSel (s : State) (v : Nat) : State :=
  let s := s.puts 0 [(.MEM_CE_SEL_KIND, bits v 0 1), (.MEM_CE_SEL_INDEX, bits v 1 11)]
  if bits v 31 1 = 0 then s
  else if s.on .MEM_CE_SEL_BUSY then s.ignoredWrite ceSelOffset
  else
    (s.puts 1 [(.MEM_CE_SEL_KIND, bits v 0 1), (.MEM_CE_SEL_INDEX, bits v 1 11), (.MEM_CE_SEL_CLEAR, bits v 30 1)]).put
      .MEM_CE_SEL_BUSY 1

/-- Both stacks of a channel's bridge hold STACK entries of CAUSE 11 (R57, Table 5). -/
def State.bridgeFailed (s : State) (b : Nat) : Bool :=
  [2 * b, 2 * b + 1].all (fun st => s.defectMap.any (fun d => defKind d = 5 && defCause d = 11 && defLoc d % 64 = st))

/-- A copied table entry. -/
def State.putCeEntry (s : State) (i : Nat) (e : Option CeEntry) : State :=
  match e with
  | some e => s.puts i [(.MEM_CE_ENTRY_LO_VALID, 1), (.MEM_CE_ENTRY_LO_TIER, e.tier), (.MEM_CE_ENTRY_LO_SLOT, e.slot),
      (.MEM_CE_ENTRY_LO_POS, e.pos), (.MEM_CE_ENTRY_LO_REPEAT, e.rep), (.MEM_CE_ENTRY_HI_LOC, e.loc)]
  | none => s.clears i [.MEM_CE_ENTRY_LO_VALID, .MEM_CE_ENTRY_LO_TIER, .MEM_CE_ENTRY_LO_SLOT, .MEM_CE_ENTRY_LO_POS,
      .MEM_CE_ENTRY_LO_REPEAT, .MEM_CE_ENTRY_HI_LOC]

/-- The end of a copy. -/
def State.copyCe (s : State) : State :=
  let kind := s.get .MEM_CE_SEL_KIND 1
  let i := s.get .MEM_CE_SEL_INDEX 1
  let s := s.put .MEM_CE_SEL_BUSY 0
  if (if kind = 0 then 1600 else 576) ≤ i then s.put .MEM_CE_SEL_STATUS 2
  else if kind = 0 && s.stopped (clusterRegion i) then s.put .MEM_CE_SEL_STATUS 1
  else if kind = 1 && s.bridgeFailed (stackBridge (i / 16)) then s.put .MEM_CE_SEL_STATUS 3
  else
    let u := if kind = 0 then i else 1600 + i
    let e := s.unit u
    let s := s.puts 0 [(.MEM_CE_SEL_STATUS, 0), (.MEM_CE_COUNT_COUNT, e.ce), (.MEM_CE_OVF_COUNT, e.ovf),
      (.MEM_UE_COUNT_COUNT, e.ue), (.MEM_MERGE_COUNT, if kind = 0 then e.merge else 0)]
    let s := s.each (List.range 16) (fun s i => s.putCeEntry i e.table[i]?)
    if s.on .MEM_CE_SEL_CLEAR 1 then s.setUnit u { e with ce := 0, ovf := 0, ue := 0, table := [] } else s

/-! ### Host accesses -/

/-- The host reaches the module over its link: once step 3 of start-up has ended, not in Vigil, nor while PERST# is
asserted (R394, R406, R469). -/
def State.hostUp (s : State) : Bool :=
  s.get .PWR_LADDER_MODULE != 4 && !s.perst && decide (4 ≤ s.get .RES_START_STATE_STEP)

/-- A host access ends without memory: reads with a status, writes discarded, with an event (R212, R218, R220). No rule
names its CODE: DESIGN CHOICE (log entry 19), 0x0B04 beyond the ring's top, 0x0B01 otherwise. -/
def State.hostRefuse (s : State) (op : HostOp) (st : RspStatus) (code : Nat) : State :=
  let s := s.event code clsNone 0 0 0
  match op with
  | .read _ => { s with rsp := ⟨st, []⟩ }
  | .write _ => { s with rsp := ⟨.discarded, []⟩ }

/-- A host access to memory: an uncorrectable error poisons a read and discards a partial write (R230). -/
def State.hostMemory (s : State) (a : Nat) (op : HostOp) : State :=
  match op with
  | .read n =>
    let (t, d) := ({ s with snoopWait := [] } : State).readPhys a n
    let t : State := { t with snoopWait := s.snoopWait }
    (match d with
    | some bs => { t with rsp := ⟨.ok, bs⟩ }
    | none => { t with rsp := ⟨.poisoned, []⟩ })
  | .write d =>
    let (t, ok) := ({ s with snoop := [] } : State).writePhys a d
    { t with snoop := s.snoop, rsp := ⟨if ok then .ok else .discarded, []⟩ }

/-- Lines the snoop filter holds (R398). -/
def snoopLines : Nat := 65536

/-- A host access to the ring takes effect; a cached one leaves its line in the snoop filter, whose oldest line makes
room (R398, log entry 32). -/
def State.hostRing (s : State) (w : HostWindow) (a : Nat) (op : HostOp) : State :=
  let s := s.hostMemory a op
  if w = .cxlCached && !s.snoop.contains (a / 64) then { s with snoop := (a / 64 :: s.snoop).take snoopLines } else s

/-- Serves some of the host requests that wait, oldest first. -/
def State.serveWaiting (s : State) (due : List (Nat × HostWindow × Nat × HostOp)) : State :=
  let s : State := { s with hostWait := due.foldl (fun q x => q.erase x) s.hostWait }
  s.each due (fun s x => s.hostRing x.2.1 x.2.2.1 x.2.2.2)

/-- The host requests that go before one whose bank is free: those that wait for the same bank, whose requests are
served in arrival order (R210); all of the channel's while no job runs (R397). -/
def State.waitAhead (s : State) (ch a : Nat) : List (Nat × HostWindow × Nat × HostOp) :=
  s.hostWait.filter (fun x => x.1 = ch && (!s.job || Config.dramBank x.2.2.1 = Config.dramBank a))

/-- The ring address of a host access: CXL.mem addresses count from ring address 0, BAR2 offsets from HOST_BAR2_BASE GiB
(R395, R396). -/
def State.hostRingAddr (s : State) (w : HostWindow) (addr : Nat) : Nat :=
  if w = .bar2 then s.get .HOST_BAR2_BASE_GIB * 2 ^ 30 + addr else addr

/-- A host access to the ring arrives (R212, R218, R396, R397); CODE of its refusals is the model's (log entry 19). -/
def State.hostRingArrive (s : State) (w : HostWindow) (addr : Nat) (op : HostOp) (bankBusy : Bool) : State :=
  let a := s.hostRingAddr w addr
  if s.ringTop < a + op.size then s.hostRefuse op .unsupported 0x0B04
  else if s.ringAsleep then s.hostRefuse op (if w = .bar2 then .abort else .poisoned) 0x0B01
  else
    let ch := s.ringChan a
    if s.job && bankBusy then { s with hostWait := s.hostWait ++ [(ch, w, a, op)], rsp := ⟨.waiting, []⟩ }
    else (s.serveWaiting (s.waitAhead ch a)).hostRing w a op

/-- A back-invalidation ends: the host no longer holds the line, and the writes that wait for it proceed (R398). -/
def State.snoopDone (s : State) (line : Nat) : State :=
  let go := s.snoopWait.filter (fun w => w.1 = line)
  let s : State := { s with
    snoop := s.snoop.erase line
    snoopWait := s.snoopWait.filter (fun w => w.1 != line) }
  let s := s.each go (fun s w => s.storeNow w.2.1 w.2.2)
  let acks := s.snoopAcks.map (fun x => (x.1.filter (· != line), x.2))
  let s : State := { s with snoopAcks := acks.filter (fun x => !x.1.isEmpty) }
  s.each (acks.filter (fun x => x.1.isEmpty)) (fun s x => s.acknowledge x.2.1 x.2.2.1 x.2.2.2)

/-! ### Cluster windows (R219, R220) -/

/-- What a cluster-window address names: the cluster, and the logical core of a near-SRAM address (R216). -/
def windowTarget (a : Nat) : Nat × Option Nat :=
  let o := a - 0x400000000000
  let w := o % 0x4000000
  (clusterNo (o / 0xA0000000) (o % 0xA0000000 / 0x4000000), if w < stackedSize then none else some ((w - stackedSize) / nearSize))

/-- The router where a host route ends (R220), by the defect map in force (R510, log entry 149). -/
def State.hostTarget (s : State) (c : Nat) (core : Option Nat) : Option Nat :=
  let m := s.loadedDefects
  let ok (k : Nat) : Bool := !routerBad m (c * 17 + k)
  match core with
  | some k =>
    if ok k then some (coreRouter (c * 17 + k))
    else (s.image.bind (fun im => im.entries.find? (fun e =>
      e.core.tile = c / 40 && e.core.cluster = c % 40 && e.core.core = k))).map (fun e => gridRouter e.at'.x e.at'.y)
  | none => ((List.range 16).find? ok).map (fun k => coreRouter (c * 17 + k))

/-- The routers of a host route: from the host bridge S along column 144 + (x mod 4), then along the target's row. -/
def hostRoute (r : Nat) : List Nat :=
  let x := r % 320
  let y := r / 320
  let xc := 144 + x % 4
  (List.range (y + 1)).map (fun j => gridRouter xc j) ++
    (if xc ≤ x then (List.range (x - xc)).map (fun i => gridRouter (xc + 1 + i) y)
     else (List.range (xc - x)).map (fun i => gridRouter (xc - 1 - i) y))

/-- What becomes of a cluster-window access: refused, waiting in a region, or through. -/
inductive Way where
  | refused
  | waits (region : Nat)
  | open
deriving DecidableEq, Repr

/-- One result for each way. -/
def Way.pick {α : Type} (w : Way) (refused : α) (waits : Nat → α) (through : α) : α :=
  match w with
  | .refused => refused
  | .waits r => waits r
  | .open => through

/-- R219, R220, R221, by the defect map in force (R510). DESIGN CHOICE (log entry 149): before the first LOAD_IMAGE after a
start-up that is the map as step 3 found it. -/
def State.hostWay (s : State) (a : Nat) : Way :=
  let (c, core) := windowTarget a
  let m := s.loadedDefects
  (s.hostTarget c core).elim .refused fun r =>
    let path := hostRoute r
    if clusterLost m c || path.any (fun x => routerBad m (routerCore x) || regionBarred m (routerRegion x)) then .refused
    else
      match path.find? (fun x => s.stopped (routerRegion x)) with
      | some x => .waits (routerRegion x)
      | none =>
        if s.stopped (clusterRegion c) || !s.on .MEM_RING_CFG_SRAM_FILLED then .waits (clusterRegion c) else .open

/-- A cluster-window access that gets through; a write that touches a numerics page is discarded with an event (R327). -/
def State.hostCluster (s : State) (a : Nat) (op : HostOp) : State :=
  match (s.place a).phys with
  | none => s
  | some pa =>
    if op.isWrite && s.hitsPage a (a + op.size - 1) then s.hostRefuse op .discarded 0x0B01 else s.hostMemory pa op

/-- A host access to a cluster window arrives, or resumes; an address outside the aperture is a hole (R215). -/
def State.hostClusterArrive (s : State) (bar0 : Bool) (a : Nat) (op : HostOp) : State :=
  if a < 0x400000000000 || 0x401900000000 ≤ a then
    { s.event 0x0B04 clsNone 0 0 0 with rsp := ⟨.ok, List.replicate (if op.isWrite then 0 else op.size) 0⟩ }
  else
    (s.hostWay a).pick (s.hostRefuse op (if bar0 then .abort else .poisoned) 0x0B01)
      (fun r => { s with stalledQ := s.stalledQ ++ [⟨r, bar0, a, op⟩], rsp := ⟨.waiting, []⟩ }) (s.hostCluster a op)

/-! ### Accesses of more than one line -/

/-- The parts of an access that lie each in one 64-byte line, lowest address first. -/
def hostPieces (a : Nat) : HostOp → List (Nat × HostOp)
  | .read n => (piecesOf 64 a (List.replicate n 0)).map (fun x => (x.2.1, .read x.2.2.length))
  | .write d => (piecesOf 64 a d).map (fun x => (x.2.1, .write x.2.2))

/-- The completion of an access from those of two parts: the first status that is not good, the data one after the
other. -/
def HostRsp.join (x y : HostRsp) : HostRsp := ⟨if x.status = .ok then y.status else x.status, x.data ++ y.data⟩

/-- An access: whole where it lies in one line, else line by line. -/
def State.byLine (s : State) (a : Nat) (op : HostOp) (one : State → Nat → HostOp → State) : State :=
  if op.wellFormed a then one s a op
  else (hostPieces a op).foldl (fun s x =>
    let t := one s x.1 x.2
    { t with rsp := s.rsp.join t.rsp }) { s with rsp := {} }

end Sys2Proof.Machine
end

