-- ==== Sys2Proof/Machine/SecureOps.lean ====
section
/-!
DEFINITION. Drains, the securing interval and secure requests (R315, R316, R494 to R502).
-/
namespace Sys2Proof.Machine

/-! ### Quantities of the securing interval (R499, R500) -/

/-- fc as µs: 28 fc are 20 ns (R8). -/
def fcToUs (n : Nat) : Nat := n * 20 / 28000

/-- The mean of a list. -/
def mean (xs : List Nat) : Nat := if xs.isEmpty then 0 else xs.sum / xs.length

/-- The drain cost c in µs: the mean read time of the last 8 complete drains; before the first, the unique size at
110.6 GB/s a partner port. -/
def State.drainCost (s : State) : Nat :=
  if s.drainTimes.isEmpty then s.uniqueBytes / (110600 * max s.partnerPorts.length 1) else mean s.drainTimes

/-- ln 2 in units of 2^−64. -/
def ln2Units : Nat := 12786308645202655660

/-- H × ln 2 ÷ half-life as faults per day in 16.16 (log entry 33). -/
def State.localRate (s : State) : Nat :=
  s.history * ln2Units * 24 * 2 ^ 16 / (max (s.get .MNT_HALF_LIFE_HOURS) 1 * 2 ^ 96)

/-- The recommended interval ⌊√(2c ÷ λ) ÷ T + 0.5⌋ for c in µs, λ in 2^−16 faults a day and T in fc, within 1 to
65,535: the largest n with (2n − 1)² λ T² ≤ 8c. -/
def interval (c rate t : Nat) : Nat :=
  let a := 8 * c * 65536 * 86400 * 784 * 10 ^ 12
  let b := rate * 400 * t * t
  if b = 0 then 65535 else min (max ((isqrt (a / b) + 1) / 2) 1) 65535

/-- The interval set, and the interval in force: halved in GUARD, not below 1 (R22, R500). -/
def State.intervalInForce (s : State) : Nat :=
  let set := if s.get .MNT_SEC_SET = 0 then s.get .MNT_SEC_RECOMMENDED else s.get .MNT_SEC_SET
  if s.get .PWR_CAP_PROFILE = 2 then max (set / 2) 1 else set

/-- SECURING_INTERVAL_UPDATE (R499): at each quiet point. While λ is not 0 and no gate-to-gate interval is known, the
result is a free value (log entry 1). -/
def State.recommend (s : State) : State :=
  let c := s.drainCost
  let lr := min s.localRate (2 ^ 32 - 1)
  let s := s.putSat .MNT_DRAIN_COST_US c
  let rate := max lr (s.get .MNT_SYS_RATE_RATE)
  if rate = 0 then s.put .MNT_SEC_RECOMMENDED 65535
  else if s.gateTimes.isEmpty then
    let (v, s) := s.fresh Config.firstInterval
    s.put .MNT_SEC_RECOMMENDED (max v.toNat 1)
  else s.put .MNT_SEC_RECOMMENDED (interval c rate (mean s.gateTimes))

/-! ### The drain (R494 to R498) -/

/-- The drains that have not ended, oldest first. -/
def State.drains (s : State) : List Drain := s.replies ++ s.drain.toList

/-- A drain of a step's state begins; an earlier one goes on beside it. -/
def State.openDrain (s : State) (step : Nat) (buf urgent flagged unpaced activity : Bool) : State :=
  { s with
    replies := s.replies ++ s.drain.toList
    drain := some {
      step := BitVec.ofNat 64 step
      bufSel := buf
      urgent
      flagged
      unpaced
      readDone := false
      startFc := s.fc
      counter := BitVec.ofNat 64 s.ac
      shared := s.on .RES_PAIR_SHARED
      readUs := 0
      activity }
    scheduled := false }.showDrain

/-- Once no drain is left, what a failed one had still to send is not sent. -/
def State.clearCopies (s : State) : State :=
  if s.drains.isEmpty then
    s.each ((s.ports.filter (fun e => !e.2.copies.isEmpty)).map (·.1)) (fun s n =>
      s.setPort n { s.port n with copies := (s.port n).copies.filter (fun c => !c.1) })
  else s

/-- What the end of a drain leaves (R498): the result, source 10, the event; a complete one counts for the interval (R496,
R499); after a failure other than result 6 the next gate schedules a drain (log entry 94). -/
def State.drainOver (s : State) (d : Drain) (result : Nat) : State :=
  let s := (s.put .MNT_DRAIN_RESULT result).showDrain
  let s :=
    if result = 0 then
      { (s.put .MNT_DRAIN_STEP_STEP d.step.toNat).put .MNT_SEC_EFF_SINCE 0 with
        lastDrain := some d.step
        drainTimes := (d.readUs :: s.drainTimes).take 8 }
    else { s.bump .MNT_DRAIN_FAILS with redrain := s.redrain || result != 6 }
  let s := if d.activity then { s with activities := s.activities.map (fun a =>
      if a.started && a.code = 6 then { a with result } else a) } else s
  let s := (s.event 0x0902 clsNone 0 result d.step.toNat).raise 10
  if result = 0 then s else s.alert.clearCopies

/-- The drain begun last ends. -/
def State.endCurrent (s : State) (result : Nat) : State :=
  match s.drain with
  | none => s
  | some d => ({ s with drain := none } : State).drainOver d result

/-- The oldest drain ends: the partner answers them in the order in which they began. -/
def State.endDrain (s : State) (result : Nat) : State :=
  match s.replies with
  | [] => s.endCurrent result
  | d :: rest => ({ s with replies := rest } : State).drainOver d result

/-- The oldest drain that has not ended. -/
def State.oldestDrain (s : State) : Option Drain := s.replies.head?.or s.drain

/-- Starts a drain; without a partner port, or a partner in effect, it ends at once with result 1 (Table 4). -/
def State.startDrain (s : State) (step : Nat) (buf urgent flagged unpaced activity : Bool) : State :=
  let s := s.openDrain step buf urgent flagged unpaced activity
  if s.partnerPorts.isEmpty || !s.on .RES_PAIR_IN_EFFECT then s.endCurrent 1 else s

/-- Reads a range in address order up to the first uncorrectable line: the bytes, or none (R230). -/
def State.readUpTo (s : State) (a n : Nat) : State × Option (List Byte) :=
  (s.errKeys a n).foldl (fun acc k =>
    match acc.2 with
    | none => acc
    | some bs =>
      match acc.1.meet k with
      | (t, .good) => (t, some bs)
      | (t, .bad) => (t, none)
      | (t, .wrong d _) => (t, some (t.overlay a bs k d))) (s, some (s.waited a (memRead s.mem a n)))

/-- Reads ranges one after another up to the first uncorrectable line. -/
def State.readRanges (s : State) : List (Nat × Nat) → State × Option (List Byte)
  | [] => (s, some [])
  | (a, n) :: rest =>
    match s.readUpTo a n with
    | (t, none) => (t, none)
    | (t, some bs) =>
      let r := t.readRanges rest
      (r.1, r.2.map (bs ++ ·))

/-- A range as a header gives it, in 4 KiB units (R487). -/
def unitRange (r : Nat × Nat) : Nat × Nat := (r.1 / 4096, r.2 / 4096)

/-- The 4 KiB header page of a secured copy (Table 2). -/
def copyHeader (c : CopyInfo) (size : Nat) : List Byte :=
  let flags := (if c.bufSel then 1 else 0) + (if c.shared then 2 else 0) + (if c.urgent then 4 else 0) + (if c.flagged then 8 else 0)
  let ranges := (c.ranges.take 16).flatMap (fun r => leBytes 8 (r.1 + r.2 * 2 ^ 36))
  [0x50, 0x4C, 0x53, 0x43] ++ (leBytes 2 c.sourceId.toNat ++ (leBytes 2 0 ++ (leBytes 8 c.serial.toNat ++ (leBytes 8 c.step.toNat ++
    (leBytes 1 flags ++ (leBytes 1 0 ++ (leBytes 1 c.ranges.length ++ (leBytes 5 0 ++ (leBytes 64 c.digest.toNat ++ (ranges ++
    (List.replicate (128 - ranges.length) 0 ++ (leBytes 8 size ++ (leBytes 8 c.counter.toNat ++ List.replicate 3856 0)))))))))))))

/-- What the header of this module's own copy says (R66, R487, R491). -/
def State.ownCopy (s : State) (d : Drain) : CopyInfo where
  valid := true
  step := d.step
  bufSel := d.bufSel
  shared := d.shared
  urgent := d.urgent
  flagged := d.flagged
  sourceId := BitVec.ofNat 14 (s.get .RES_MODULE_ID_MODULE_ID)
  serial := s.shadowBank.serial
  digest := (s.image.map (·.digest)).getD 0
  ranges := s.uniqueRanges.map unitRange
  counter := d.counter

/-- 128 B of a secured copy on the fibre: MAINT flits of the carrier's maintenance path (R489). -/
def copyFlit (bs : List Byte) (last : Bool) : FibrePacket :=
  { fibreAck .maint 0 ⟨0, 0, 0⟩ 0 with
    kind := .copy
    data := bs
    last }

/-- Bytes of a copy set out, 128 B at a time, round-robin over ports (R494). -/
def State.sendCopy (s : State) (ns : List Nat) (drains : Bool) (bs : List Byte) : State :=
  let fs := (cutAt 128 0 bs).mapIdx (fun i x => (i, (drains, copyFlit x.2 (x.1 + x.2.length = bs.length))))
  ns.zipIdx.foldl (fun s n =>
    s.setPort n.1 { s.port n.1 with
      copies := (s.port n.1).copies ++ (fs.filter (fun x => x.1 % ns.length = n.2)).map (·.2) }) s

/-- The next drain to read: the oldest that has not read its last byte. -/
def State.nextRead (s : State) : Option Drain := s.drains.find? (fun d => !d.readDone)

/-- A change to a drain, where it stands. -/
def State.mapDrain (s : State) (d : Drain) (f : Drain → Drain) : State :=
  let g (x : Drain) : Drain := if x = d then f x else x
  { s with
    replies := s.replies.map g
    drain := s.drain.map g }

/-- A drain ends with a result, whichever it is. -/
def State.dropDrain (s : State) (d : Drain) (result : Nat) : State :=
  if s.replies.contains d then ({ s with replies := s.replies.erase d } : State).drainOver d result
  else s.endCurrent result

/-- The drain reads its last byte (R315), and the range data and then the header go to the partner (R487, R494, R497); or it
stops at the first uncorrectable error, with result 6 and a class J fault (R230). -/
def State.drainRead (s : State) : State :=
  match s.nextRead with
  | none => s
  | some d =>
    match s.readRanges s.uniqueRanges with
    | (s, none) => (s.dropDrain d 6).classJ 8 0
    | (s, some data) =>
      let us := fcToUs (s.fc - d.startFc)
      let head := copyHeader (s.ownCopy d) data.length
      let s := (s.putSat .MNT_DRAIN_TIME_US us).mapDrain d (fun d => { d with readDone := true, readUs := us })
      ({ s with sentCopy := head ++ data } : State).sendCopy s.partnerPorts true (data ++ head)

/-- A drain still reading its UNIQUE ranges: it holds REDUCE-end, or the gate (R302, R315). DESIGN CHOICE (log entry 147):
so does one begun before the RUN that still reads in the stable window. -/
def State.drainHolds (s : State) : Bool := s.nextRead.isSome

/-! ### Pace (R494, R495) -/

/-- Valid drain slots of the loaded image in the order in which their opening barriers release (R495). -/
def State.drainSlots (s : State) : List DrainSlot :=
  match s.image.bind (·.stepPlan) with
  | none => []
  | some p =>
    let rank (d : DrainSlot) : Nat := [p.gate, p.fwdEnd, p.bwdEnd, p.egressEnd].idxOf d.opening
    (p.drains.filter (·.valid)).mergeSort (fun a b => rank a ≤ rank b)

/-- A drain slot of the running step is open (R495). -/
def State.slotOpen (s : State) : Bool :=
  s.drainSlots.any (fun d => 0 < (s.barrier d.opening).inStep && (s.barrier d.closing).inStep = 0)

/-- What drains send is not held to one flit a port in 64 fibre flit slots (R494). -/
def State.drainsUnpaced (s : State) : Bool := s.slotOpen || s.drains.any (·.unpaced)

/-! ### Secure requests (R316, R501, R502) -/

/-- What a secure request came to. -/
inductive Secured where
  | logged | started | deferred
deriving DecidableEq, Repr

/-- A drain of a step is running: it reads, or its answer is awaited. -/
def State.drainOf (s : State) (n : Nat) : Bool := s.drains.any (fun d => d.step.toNat = n)

/-- The drain of the present step serves a secure request: it runs unpaced from now on (R494). -/
def State.unpaceDrain (s : State) : State :=
  let fast (d : Drain) : Drain := if d.step.toNat = s.stepCount then { d with unpaced := true } else d
  ({ s with
    replies := s.replies.map fast
    drain := s.drain.map fast } : State).showDrain

/-- A secure request from source 1 SECURE_NOW#, 2 motion sensor, 3 sag warning, 4 the Eloap command: its event, then by
the window in which it arrives (R316, R502). One that has to wait merges into one that is due at the quiet point in
progress. -/
def State.secureRequest (s : State) (source : Nat) : State × Secured :=
  let s := s.event 0x0901 clsNone 0 source 0
  if !s.job || !s.on .RES_PAIR_IN_EFFECT || !s.on .RES_STEP_STATE_PHASE then (s, .logged)
  else if s.on .RES_STEP_STATE_STABLE then
    if s.drainOf s.stepCount then (s.unpaceDrain, .started)
    else if s.lastDrain.any (fun n => n.toNat = s.stepCount) then (s, .started)
    else (s.startDrain s.stepCount (s.on .RES_STEP_STATE_BUF_SEL) true false true false, .started)
  else (({ s with deferred := s.deferred || !s.due } : State).showDrain, .deferred)

/-- The drain due at the quiet point starts, after the apply and the commits (R316, R384): it secures the state at the start
of the next step, with BUF_SEL as it will stand after the gate; FLAGGED where the job stops for a ratio event (R338,
R487). -/
def State.startDeferred (s : State) : State :=
  match s.quiet with
  | none => s
  | some q =>
    if !s.due then s
    else
      let next := if q.first then s.stepCount else s.stepCount + 1
      let buf := s.on .RES_STEP_STATE_BUF_SEL
      let buf := if q.first || s.skip then buf else !buf
      let s := if q.secureCounted then s else s.bump .RES_STEP_HOLDS_SECURE
      let s : State := { s with
        due := false
        quiet := some { q with secureCounted := true } }
      s.startDrain next buf true q.ratioStop true false

end Sys2Proof.Machine
end

