-- ==== Sys2Proof/Machine/StepOps.lean ====
section
/-!
DEFINITION. Barriers on the mesh (R251 to R264), the phases of the training step, its quiet point and gate (R299 to
R323), and the numerics apply (R328 to R344).
-/
namespace Sys2Proof.Machine

/-! ### Barriers (R251 to R257) -/

/-- The record of a barrier. -/
def State.barRec (s : State) (bar : Nat) : Option BarrierRec :=
  s.image.bind (fun im => im.barriers.find? (fun b => b.id + (if b.sys then 256 else 0) = bar))

/-- The root router of a barrier. -/
def BarrierRec.router (b : BarrierRec) : Nat := gridRouter b.root.x b.root.y

/-- A system barrier's wafer part whose root lies on another module: the root node takes no arrivals from its port, so
its own arrival leaves by it (R256, R291; log entry 34). -/
def State.barRemote (s : State) (bar : Nat) : Bool :=
  256 ≤ bar && (match s.barRec bar with
    | some b => (match s.barNode bar b.router with
      | some n => !n.inputs.testBit 6
      | none => true)
    | none => false)

/-- The gather inputs of a node. -/
def NodeRec.gathers (n : NodeRec) : List Nat := (List.range 7).filter (fun i => n.inputs.testBit i)

/-- Whether a generation of a barrier is open at its root, and which of the root's inputs it still misses: none where no
generation is open (R255, R268). -/
def State.barMissing (s : State) (bar : Nat) : Bool × Nat :=
  match s.barRec bar with
  | none => (false, 0)
  | some b =>
    let x := s.barrier bar
    let ins := ((s.barNode bar b.router).map NodeRec.gathers).getD []
    let late := ins.filter (fun i => (mget [] s.arrivals (arrivalKey b.router bar i)).isEmpty)
    if x.released < x.complete then (true, 0)
    else if late.length < ins.length then (true, late.length)
    else (false, 0)

/-! ### Input rings (R317 to R320) -/

/-- The input ring entries of the loaded step table, by number. -/
def State.inputRings (s : State) : List Nat := (List.range 8).filter (fun i => s.on .MEM_IN_CFG_VALID i)

/-- P − n on low 32 bits, as a signed number (R318). -/
def State.ahead (s : State) (ring n : Nat) : Int := (BitVec.ofNat 32 (s.get .MEM_IN_PROD_STEP ring) - BitVec.ofNat 32 n).toInt

/-- Whether a ring is ready for a step (R318). -/
def State.inputReady (s : State) (ring n : Nat) : Bool := 1 ≤ s.ahead ring n

/-- The step that the gate of the present quiet point starts (R305, R306). -/
def State.nextStep (s : State) : Nat :=
  match s.quiet with
  | some q => if q.first then s.stepCount else s.stepCount + 1
  | none => s.stepCount

/-- The gate barrier of the loaded plan. -/
def State.gateBar (s : State) : Option Nat := (s.image.bind (·.stepPlan)).map (·.gate)

/-- INPUT_STARVED (R319): as the gate's last arrival comes in, the rings not ready are counted, once per quiet point.
DESIGN CHOICE (log entry 148): event 0x0305 has the first such ring in DETAIL and the next step in VALUE. -/
def State.checkStarved (s : State) : State :=
  match s.quiet, s.gateBar with
  | some q, some g =>
    let b := s.barrier g
    if q.starved || b.complete ≤ b.released then s
    else
      let late := s.inputRings.filter (fun i => !s.inputReady i s.nextStep)
      let s : State := { s with quiet := some { q with starved := true, starvedRings := late } }
      match late with
      | [] => s
      | i :: _ =>
        let s := s.each late (fun s i => s.bump .MEM_IN_STAT_STARVED 1 i)
        (s.bump .RES_STEP_HOLDS_INPUT).event 0x0305 clsNone 0 i s.nextStep
  | _, _ => s

/-! ### Barrier arrivals (R254) -/

/-- A generation's arrivals have all reached the root. -/
def State.barComplete (s : State) (bar : Nat) (v : Bool) : State :=
  let b := s.barrier bar
  (s.setBarrier bar { b with complete := b.complete + 1, v := v }).checkStarved

/-- The barrier unit of a router sends one arrival, with its overflow bit, by an output. -/
def State.sendArrival (s : State) (r bar out : Nat) (v : Bool) : State :=
  s.injectAt r 4 [⟨.sync, .hop out, .arrival bar v, true, 0, 0⟩]

/-- Once every gather input has an arrival, they combine: the router sends one towards the root, or, at the root, the
generation is complete; a wafer part whose root lies on another module sends it out by the root's port (R254, R256). -/
def State.combine (s : State) (r bar : Nat) (b : BarrierRec) (n : NodeRec) : State :=
  let q (i : Nat) : List Bool := mget [] s.arrivals (arrivalKey r bar i)
  if n.gathers.any (fun i => (q i).isEmpty) then s
  else
    let v := n.gathers.any (fun i => (q i).headD false)
    let s : State := { s with arrivals := n.gathers.foldl (fun m i => mset [] m (arrivalKey r bar i) (q i).tail) s.arrivals }
    if r != b.router then s.sendArrival r bar n.parent v
    else
      let s := s.barComplete bar v
      if s.barRemote bar then s.sendArrival r bar 6 v else s

/-- A flit of a barrier that waits in the input buffers of a router for its units. -/
def State.unitFlit (s : State) (r bar input : Nat) (release : Bool) : Option Flit :=
  ((s.router r).input (unitInput input) 0).find? (fun f => f.path = .unit input && (match f.load with
    | .arrival k _ => k = bar && !release
    | .release k _ _ => k = bar && release
    | _ => false))

/-- The overflow bit of a barrier's flit. -/
def Flit.ovf (f : Flit) : Bool :=
  match f.load with
  | .arrival _ v => v
  | .release _ v _ => v
  | _ => false

/-- While a job runs, an arrival that has reached a router, with the overflow bit named, enters its barrier entry. -/
def State.arrive (s : State) (r bar input : Nat) (ovf : Bool) : State :=
  match s.barRec bar, s.barNode bar r, s.unitFlit r bar input false with
  | some b, some n, some f =>
    if !s.job || s.stopped (routerRegion r) || !n.inputs.testBit input || f.ovf != ovf then s
    else
      let s := s.takeInput r (unitInput input) 0 f
      let k := arrivalKey r bar input
      ({ s with arrivals := mset [] s.arrivals k (mget [] s.arrivals k ++ [f.ovf]) } : State).combine r bar b n
  | _, _, _ => s

/-! ### Slips (R263, R264) -/

/-- A slip event in a region: kind 1 barrier late, 2 multicast hold (Table 4 of "The Mesh"). DESIGN CHOICE (log entry 138):
its entry, 0x0401 or 0x0402, has the barrier or tree in DETAIL and the excess in fc in VALUE. -/
def State.slip (s : State) (reg kind : Nat) (sys : Bool) (id slot port excess : Nat) : State :=
  let s := s.bump .MESH_SLIP_COUNT_COUNT 1 reg
  let s := s.puts reg [(.MESH_SLIP_LAST_KIND, kind), (.MESH_SLIP_LAST_SYS, if sys then 1 else 0), (.MESH_SLIP_LAST_ID, id),
    (.MESH_SLIP_LAST_SLOT, slot), (.MESH_SLIP_LAST_PORT, port), (.MESH_SLIP_LAST_EXCESS, min ((excess + 15) / 16) 2047)]
  s.crossEvent reg (fun s => (s.event (0x0400 + kind) clsS reg id excess).raise 7)

/-- BARRIER_LATE_SLIP (R264): at a release, the interval from the predecessor's release is measured against P + S. -/
def State.measureSlack (s : State) (bar : Nat) : State :=
  match s.image.bind (fun im => im.slack.find? (fun x => x.id + (if x.sys then 256 else 0) = bar)), s.barRec bar with
  | some x, some b =>
    let pred := s.barrier (x.pred + if x.predSys then 256 else 0)
    if pred.released = 0 then s
    else
      let t := s.fc - pred.lastFc
      let s := s.put .MESH_BAR_LAST_FC t bar
      if x.p + x.s < t then
        s.slip (routerRegion b.router) 1 (decide (256 ≤ bar)) (bar % 256) (coreSlot (routerCore b.router)) 0 (t - (x.p + x.s))
      else s
  | _, _ => s

/-! ### The numerics page (R327) -/

/-- 2^k as an FP32 word. -/
def pow2Bytes (k : Int) : List Byte := leBytes 4 (pow2Word k)

/-- The numerics page of Table 3. -/
def State.pageBytes (s : State) (skip : Bool) : List Byte :=
  let l : Int := s.get .NUM_LS_EXP
  let flags := (if s.on .RES_STEP_STATE_BUF_SEL then 1 else 0) + (if skip then 2 else 0) +
    (if s.on .NUM_MON_SETTLE_LEFT then 4 else 0) + (if s.on .NUM_LS_EN then 8 else 0)
  leBytes 8 s.stepCount ++ (leBytes 4 flags ++ (leBytes 4 l.toNat ++ (pow2Bytes l ++ (pow2Bytes (-l) ++ leBytes 40 0))))

/-- NUMERICS_PAGE_WRITE at RUN (R327): the page in each core of a list. -/
def State.writePages (s : State) (ps : List Nat) (skip : Bool) : State :=
  if s.hasPlan then
    s.each ps (fun s p => s.store (nearAddr p (s.get .NUM_PAGE_ADDR)) (s.pageBytes skip))
  else s

/-- Bytes of the numerics area. -/
def areaBytes : Nat := 0x221000

/-! ### Stops at a quiet point (R304, R338) -/

/-- Ends the job at a quiet point: as HALT, STOPPED, event 0x0805 (R304, R338); pending commits are already applied
and a request due here is served. -/
def State.stopQuiet (s : State) (ratio : Bool) : State :=
  let s := s.startDeferred.stopJob.dropDeferred
  let s := s.put .RES_STEP_STATE_STOPPED 1
  let s := if ratio then s.put .NUM_MON_RATIO_STOP 1 else s
  (s.event 0x0805 clsNone 0 (if ratio then 1 else 0) 0).raise 5

/-- A commit in a state is for this quiet point: one locked at its beginning, or, at the first quiet point of a run, any
that is pending (R306, R384, R386). -/
def State.commitDue (s : State) (st : Nat) : Bool := st = 3 || (st = 2 && s.quiet.any (·.first))

/-- Whether a commit is waiting for this quiet point. -/
def State.commitWaits (s : State) : Bool := [1, 2, 3].any (fun sc => s.commitDue (s.get .TXN_STATE_STATE sc))

/-- A write to the numerics area waits for a snoop (R398). -/
def State.areaWaits (s : State) : Bool :=
  s.snoopWait.any (fun w => s.areaBase < w.2.1 + w.2.2.length && w.2.1 < s.areaBase + areaBytes)

/-- The apply of a quiet point is complete, the area written (R340, R341). -/
def State.applyDone (s : State) (q : Quiet) : Bool := q.applied && !s.areaWaits

/-- SKIP_LIMIT_FAULT (R332): L and CONSEC in the event. DESIGN CHOICE (log entry 148): L is in DETAIL and CONSEC in VALUE,
and the region of the fault is that of the gate's root. -/
def State.skipFault (s : State) : State :=
  let reg := match s.gateBar.bind s.barRec with
    | some b => routerRegion b.router
    | none => 0
  (s.event 0x0603 clsJ 0 (s.get .NUM_LS_EXP) (s.get .NUM_LS_STAT_CONSEC)).classJ 7 reg

/-- What follows once the apply is complete: the skip-limit fault (R332); or, after the commits, a stop of the job (R304,
R338). -/
def State.settleQuiet (s : State) : State :=
  match s.quiet with
  | some q =>
    if q.first || !s.applyDone q then s
    else if q.limitHit then s.skipFault
    else if !s.commitWaits && (q.ratioStop || q.stopAt) then s.stopQuiet q.ratioStop
    else s
  | none => s

/-! ### The numerics apply (R328 to R340) -/

/-- The loss scale (R331); skips are counted (Table 4), V is recorded. -/
def State.applyScale (s : State) : State :=
  let v := s.v
  let s := s.flag .NUM_LS_STAT_LAST_OVF v
  if !s.on .NUM_LS_EN then s
  else if v then
    let s := (s.bump .NUM_LS_STAT_SKIPS).bump .NUM_LS_STAT_CONSEC
    let s := s.put .NUM_LS_CLEAN 0
    if 0 < s.get .NUM_LS_EXP then s.put .NUM_LS_EXP (s.get .NUM_LS_EXP - 1)
    else (s.put .NUM_LS_STAT_FLOOR 1).event 0x0602 clsNone 0 0 0
  else
    let s := (s.put .NUM_LS_STAT_CONSEC 0).bump .NUM_LS_CLEAN
    let n := s.get .NUM_LS_CFG_CLEAN_STEPS
    if n != 0 && n ≤ s.get .NUM_LS_CLEAN then
      (s.put .NUM_LS_EXP (min (s.get .NUM_LS_EXP + 1) 24)).put .NUM_LS_CLEAN 0
    else s

/-- Sets an update exponent. -/
def State.putExp (s : State) (t : Nat) (e : Int) : State := s.put .NUM_EXP_S (BitVec.ofInt 8 e).toNat t

/-- One tag's update exponent (R335), from its counts of the step that ended. -/
def State.applyExp (s : State) (t : Nat) : State :=
  let c := mget {} s.stepView t
  let e := s.tagExp t
  let thr := s.get .NUM_EXP_THR_RAISE_THRESH t
  if 0 < c.sats + c.ovf16 + c.ovfOther then
    if signed (s.get .NUM_EXP_LIM_S_MIN t) 8 < e then
      (((s.putExp t (e - 1)).put .NUM_EXP_LAST_DOWN 1 t).bump .NUM_EXP_MOVES_LOWERS).mark (expLine t)
    else s
  else if thr != 0 && thr ≤ c.crumbs then
    if e < signed (s.get .NUM_EXP_LIM_S_MAX t) 8 then
      (((s.putExp t (e + 1)).put .NUM_EXP_LAST_UP 1 t).bump .NUM_EXP_MOVES_RAISES).mark (expLine t)
    else s
  else s

/-- A finite FP32 word. -/
def finite32 (w : Word) : Bool := (w &&& fp32Inf) != fp32Inf

/-- The reference of a relative tag takes a ratio (R339). -/
def TagState.take (x : TagState) (r : Word) : TagState :=
  let ref :=
    if x.n = 0 then r
    else if x.n.toNat < 15 then fadd32 x.ref (fdivNat32 (fsub32 r x.ref) (x.n.toNat + 1))
    else fadd32 x.ref (fdivNat32 (fsub32 r x.ref) 16)
  ({ x with ref, n := if x.n = 0xFFFFFFFF then x.n else x.n + 1 } : TagState).rewindow

/-- Marks of one walk over the ratio records: missing records and ratio events so far. -/
abbrev RatioWalk := State × Nat × Nat

/-- One tag's ratio record of step n (R337 to R339). DESIGN CHOICE (log entry 148): event 0x0604 has the first missing tag in
LOCATION and n in VALUE; event 0x0605 has the tag in LOCATION, LOW and HIGH in DETAIL and r in VALUE. -/
def ratioRecord (n : Nat) (acc : RatioWalk) (t : Nat) : RatioWalk :=
  let (s, missing, events) := acc
  let (s, d) := s.readPhys (s.areaBase + 0x21000 + 512 * t + 8 * (n % 64)) 8
  let bs := d.getD []
  let r := BitVec.ofNat 32 (leNat (bs.take 4))
  let st := leNat (bs.drop 4)
  let low := st.testBit 1
  let high := st.testBit 2
  if d.isNone || !st.testBit 0 || st / 256 != n % 2 ^ 24 then
    let s := s.bump .NUM_MON_STAT_MISSING
    (if missing = 0 then s.event 0x0604 clsNone t 0 n else s, missing + 1, events)
  else
    let settling := s.on .NUM_MON_SETTLE_LEFT
    let hit := !settling && (low || high)
    let s :=
      if hit then
        let w := s.get .NUM_MON_FLAGS_FLAGS (t / 32)
        let s := (s.put .NUM_MON_FLAGS_FLAGS (w ||| 2 ^ (t % 32)) (t / 32)).bump .NUM_MON_STAT_EVENTS
        let s := s.puts 0 [(.NUM_MON_LAST_TAG, t), (.NUM_MON_LAST_LOW, if low then 1 else 0),
          (.NUM_MON_LAST_HIGH, if high then 1 else 0), (.NUM_MON_LAST_VALID, 1), (.NUM_MON_LAST_STEP_STEP, n)]
        let s := if events < 16 then s.event 0x0605 clsNone t (st / 2 % 4) r.toNat else s
        s.raise 12
      else s
    let x := s.tag t
    let s := if x.mode && !hit && finite32 r then (s.setTag t (x.take r)).mark (windowLine t) else s
    (s, missing, if hit then events + 1 else events)

/-- The tags with a setting on. -/
def State.tagsWith (s : State) (f : State → Nat → Bool) : List Nat := (List.range 4096).filter (f s)

/-- NUMERICS_APPLY (R340): the loss scale, the exponents, the ratio records, the settling count, the numerics area;
then the securing interval (R499), and what the end of the apply brings. -/
def State.numericsApply (s : State) (q : Quiet) : State :=
  let n := s.stepCount
  let skipped := s.skip
  let s : State := { s with stepView := s.sinceQuiet, sinceQuiet := [] }
  let s := (s.flag .RES_STEP_STATE_SKIPPED skipped).applyScale
  let s := (s.clearField .NUM_EXP_LAST_UP).clearField .NUM_EXP_LAST_DOWN
  let s := if skipped then s else s.each (s.tagsWith (fun s t => s.on .NUM_EXP_EN t)) State.applyExp
  let (s, _, events) :=
    if skipped then (s, 0, 0) else ((s.tags.filter (fun x => x.2.monEn)).map (·.1)).foldl (ratioRecord n) (s, 0, 0)
  let left := s.get .NUM_MON_SETTLE_LEFT
  let s := if !skipped && left != 0 then s.put .NUM_MON_SETTLE_LEFT (left - 1) else s
  let s := s.writeHeader n
  let s := s.each s.dirty State.writeTagLine
  let lim := s.get .NUM_LS_CFG_SKIP_LIMIT
  let s : State := { s with
    dirty := []
    quiet := some { q with
      applied := true
      ratioStop := s.on .NUM_MON_STOP_EN && decide (0 < events)
      limitHit := skipped && lim != 0 && decide (lim ≤ s.get .NUM_LS_STAT_CONSEC) } }
  s.recommend.settleQuiet

/-- Whether the quiet point still awaits count reports: 2 µs after its start it waits no longer (R190, R302). -/
def State.reportsWait (s : State) (q : Quiet) : Bool := s.counts.any (·.awaited) && s.fc < q.startFc + 2800

/-! ### Phases and releases (R300 to R306) -/

/-- QUIET_POINT_BEGIN (R302): at the SWAP-end release; pending transactions are locked (R386), STOP_EN and RES_STEP_STOP
are taken (R304), every count report on its way is awaited (R190), and a deferred request is due (R316). -/
def State.quietBegin (s : State) : State :=
  let s := s.put .RES_STEP_STATE_PHASE 7
  let s := s.each [1, 2, 3] (fun s sc => if s.get .TXN_STATE_STATE sc = 2 then s.put .TXN_STATE_STATE 3 sc else s)
  let stop := s.on .RES_STEP_CTRL_STOP_EN && s.get .RES_STEP_STOP_COUNT = s.stepCount % 2 ^ 32
  ({ s with
    counts := s.counts.map (fun (r : CountReport) => { r with awaited := true })
    due := s.due || s.deferred
    deferred := false
    quiet := some {
      first := false
      startFc := s.fc
      stopAt := stop
      ratioStop := false
      applied := false
      committed := false
      starved := false
      starvedRings := []
      secureCounted := false } } : State).checkStarved

/-- What every release does at its root: counts, slack. -/
def State.releaseCount (s : State) (bar : Nat) : State :=
  let s := s.measureSlack bar
  let b := s.barrier bar
  s.setBarrier bar { b with
    released := b.released + 1
    lastFc := s.fc
    inStep := b.inStep + 1 }

/-- The news of a release of the gate or of REDUCE-end (R305, R313, R327, R330). -/
def State.news (s : State) (write skip : Bool) : News :=
  ⟨BitVec.ofNat 64 s.stepCount, s.on .RES_STEP_STATE_BUF_SEL, write, s.pageBytes skip⟩

/-- The root sends a release down the release tree (R254, R258). -/
def State.sendRelease (s : State) (bar : Nat) (news : Option News) : State :=
  match s.barRec bar with
  | some b => s.injectAt b.router 4 [⟨.sync, .release bar, .release bar (s.barrier bar).v news, true, 0, 0⟩]
  | none => s

/-- The holds on the gate, in the order of Table 2: arrivals, count reports (with the apply), commits, input, secure,
stop (R302). -/
def State.gateHolds (s : State) : List Bool :=
  match s.quiet, s.gateBar with
  | some q, some g =>
    let b := s.barrier g
    [b.complete ≤ b.released, !q.first && !s.applyDone q, s.commitWaits, s.inputRings.any (fun i => !s.inputReady i s.nextStep),
      s.due || (q.secureCounted && s.drainHolds), !q.first && (q.stopAt || q.ratioStop)]
  | _, _ => []

/-- The gate releases (R305, R306): a run's first quiet point takes the STEP view with it (R189); step count, BUF_SEL, windows, phase; the new values and the page
travel with the release; the interval in force follows (R500), a drain is scheduled (R496, R498), gate-to-gate time is kept (R499). -/
def State.gateRelease (s : State) (q : Quiet) (g : Nat) : State :=
  let s := if q.first then s else s.setStep (s.stepCount + 1)
  let s : State := if q.first then { s with stepView := s.sinceQuiet, sinceQuiet := [] } else s
  let s := if q.first || s.skip then s else s.flag .RES_STEP_STATE_BUF_SEL (!s.on .RES_STEP_STATE_BUF_SEL)
  let s := s.puts 0 [(.RES_STEP_STATE_PHASE, 1), (.RES_STEP_STATE_MICRO, 0), (.RES_STEP_STATE_STABLE, 1)]
  let s := s.putSat .RES_STEP_QP_LAST_FC (s.fc - q.startFc)
  let s : State := { s with
    quiet := none
    v := false
    skip := false
    gateTimes := match s.lastGateFc with
      | some t => ((s.fc - t) :: s.gateTimes).take 16
      | none => s.gateTimes
    lastGateFc := some s.fc
    barriers := (s.barriers.map (fun x => (x.1, { x.2 with inStep := 0 }))).filter (fun x => x.2 != {}) }
  let s := s.releaseCount g
  let s := s.sendRelease g (some (s.news false false))
  let s := s.put .MNT_SEC_EFF_INTERVAL s.intervalInForce
  let s := if q.first then s else s.bump .MNT_SEC_EFF_SINCE
  let due := s.redrain || match s.lastDrain with
    | none => true
    | some n => decide (n.toNat + s.get .MNT_SEC_EFF_INTERVAL ≤ s.stepCount)
  { s with
    scheduled := s.on .RES_PAIR_IN_EFFECT && due
    redrain := false }

/-- The gate's release, where every hold has cleared. -/
def State.tryGate (s : State) : State :=
  match s.quiet, s.gateBar with
  | some q, some g => if s.job && !s.gateHolds.any id then s.gateRelease q g else s
  | _, _ => s

/-- STEP_PHASE_ADVANCE (R300): the phase after a release of a step barrier other than the gate. -/
def State.advancePhase (s : State) (bar : Nat) : State :=
  match s.image.bind (·.stepPlan) with
  | none => s
  | some p =>
    if !s.job then s
    else if bar = p.fwdEnd then s.put .RES_STEP_STATE_PHASE 2
    else if bar = p.bwdEnd then
      let s := s.bump .RES_STEP_STATE_MICRO
      -- U is at most 256 and MICRO saturates at 255: the 256th release is told by the barrier's own count
      if p.u ≤ (s.barrier bar).inStep then s.put .RES_STEP_STATE_PHASE (if p.overlap then 4 else 3)
      else s.put .RES_STEP_STATE_PHASE 1
    else if p.egressValid && bar = p.egressEnd then s.put .RES_STEP_STATE_PHASE 4
    else if bar = p.reduceEnd then
      let v := (s.barrier bar).v
      let skip := s.on .NUM_LS_EN && v
      let s : State := { s with v := v, skip := skip }
      s.puts 0 [(.RES_STEP_STATE_PHASE, 5), (.RES_STEP_STATE_STABLE, 0)]
    else if bar = p.updateEnd then s.put .RES_STEP_STATE_PHASE 6
    else if bar = p.swapEnd then s.quietBegin
    else s

/-- A release as the root sends it: counted, the phase advanced, and on its way to the members. -/
def State.releaseNow (s : State) (bar : Nat) : State :=
  let s := (s.releaseCount bar).advancePhase bar
  s.sendRelease bar (if s.reduceEnd = some bar then some (s.news true s.skip) else none)

/-- The overflow bit of the release to come: the system's where the root lies on another module (R329). -/
def State.releaseBit (s : State) (bar : Nat) : Bool :=
  match s.barRec bar with
  | some rec => if s.barRemote bar then ((s.unitFlit rec.router bar 6 true).map (·.ovf)).getD false else (s.barrier bar).v
  | none => (s.barrier bar).v

/-- A barrier's release (R254, R302, R315): the gate follows its holds; REDUCE-end waits for a drain that still reads; a
wafer part whose root lies on another module waits for the system's release, which brings the overflow bit of the system
(R256, R329). One with another overflow bit than named is not the one reported (log entry 142). -/
def State.release (s : State) (bar : Nat) (ovf : Bool) : State :=
  let b := s.barrier bar
  if s.releaseBit bar != ovf then s
  else if s.gateBar = some bar && s.quiet.isSome then s.tryGate
  else if b.complete ≤ b.released || s.gateBar = some bar then s
  else if s.reduceEnd = some bar && s.drainHolds then s
  else if s.barRemote bar then
    match s.barRec bar with
    | none => s
    | some rec =>
      match s.unitFlit rec.router bar 6 true with
      | none => s
      | some f => ((s.takeInput rec.router 6 0 f).setBarrier bar { b with v := f.ovf }).releaseNow bar
  else s.releaseNow bar

/-! ### Initialising the numerics area (R326, R342, R344) -/

/-- The tags' entries at their start: s = 0, REF = 0, N = 0, the windows from the settings. -/
def State.initTags (s : State) : State :=
  { s.clearField .NUM_EXP_S with
    tags := (s.tags.map (fun x => (x.1, ({ x.2 with ref := 0, n := 0 } : TagState).rewindow))).filter (fun x => x.2 != {}) }

/-- The whole area from the values held: header, exponent table, window table, an empty history. -/
def State.writeArea (s : State) : State :=
  let ts := List.range 4096
  let s := s.fillZero s.areaBase areaBytes
  let s := s.store s.areaBase (s.headerLine 0)
  let s := s.store (s.areaBase + 0x1000) (ts.flatMap s.expEntry)
  s.store (s.areaBase + 0x11000) (ts.flatMap s.windowEntry)

/-- Initialises the numerics area and the values held (R342). -/
def State.initArea (s : State) : State :=
  let s := s.puts 0 [(.NUM_LS_EXP, if s.on .NUM_LS_EN then s.get .NUM_LS_CFG_INIT_EXP else 0), (.NUM_LS_CLEAN, 0),
    (.NUM_LS_STAT_CONSEC, 0), (.NUM_MON_SETTLE_LEFT, 8)]
  let s := s.initTags
  ({ s with dirty := [] } : State).writeArea

/-- BAR0 offset of NUM_RESTART. -/
def restartOffset : Nat := 0x700150

/-- A write of NUM_RESTART (R342, R344): LOST = 1 starts the initialisation, or is ignored with an event. -/
def State.writeRestart (s : State) (v : Nat) : State :=
  if bits v 0 1 = 0 then s
  else if s.on .RES_STEP_STATE_PHASE || s.on .NUM_RESTART_BUSY || !s.hasPlan then s.ignoredWrite restartOffset
  else s.puts 0 [(.NUM_RESTART_BUSY, 1), (.NUM_RESTART_DONE, 0)]

/-- BAR0 offset of a ring's MEM_IN_PROD. -/
def inProdOffset (ring : Nat) : Nat := 0x800210 + 0x20 * ring

/-- The step that RES_STEP_START names. -/
def State.startStep (s : State) : Nat := s.get .RES_STEP_START_LO_COUNT + 2 ^ 32 * s.get .RES_STEP_START_HI_COUNT

/-- The step count in force: RES_STEP_START until a RUN brings one (R305). -/
def State.stepInForce (s : State) : Nat := if s.ran then s.stepCount else s.startStep

/-- The host requests that wait up to the last BAR2 write among them (R318). -/
def State.postedDue (s : State) : List (Nat × HostWindow × Nat × HostOp) :=
  (s.hostWait.reverse.dropWhile (fun x => !(x.2.1 = .bar2 && x.2.2.2.isWrite))).reverse

/-- A write of MEM_IN_PROD (R318, R320): taken for a defined ring, once the BAR2 writes posted before it are complete; P
beyond the depth records an overrun. DESIGN CHOICE (log entry 148): event 0x0306 has the ring in DETAIL and P in VALUE. -/
def State.writeInProd (s : State) (ring v : Nat) : State :=
  if !s.on .MEM_IN_CFG_VALID ring then s.ignoredWrite (inProdOffset ring)
  else
    let s := (s.serveWaiting s.postedDue).put .MEM_IN_PROD_STEP v ring
    if (s.get .MEM_IN_CFG_DEPTH ring : Int) < s.ahead ring s.stepInForce then
      (s.bump .MEM_IN_STAT_OVERRUNS 1 ring).event 0x0306 clsNone 0 ring v
    else s

/-! ### Commits at the quiet point (R384 to R386) -/

/-- Whether the commits of the quiet point may be applied: after the numerics apply, or at the first quiet point. -/
def State.commitsDue (s : State) : Bool :=
  s.commitWaits && (match s.quiet with
    | some q => q.first || s.applyDone q
    | none => false)

/-- Commits not applied within 50 µs fail with code 0x08 and free the gate (R385). -/
def State.commitsLate (s : State) : State :=
  let s := s.each [1, 2, 3] (fun s sc => if s.commitDue (s.get .TXN_STATE_STATE sc) then (s.endTxn sc 2 8 0).raise 8 else s)
  ({ s with pairing := if s.pairing.any (·.commit) then none else s.pairing } : State).settleQuiet

end Sys2Proof.Machine
end

