-- ==== Sys2Proof/Machine/OpticalOps.lean ====
section
/-!
DEFINITION. Optical ports (R270 to R298): states, training, link loss, sending with egress conversion, and receiving.
-/
namespace Sys2Proof.Machine

/-! ### States (R276) -/

/-- Whether a port is fitted (R3). -/
def State.portFitted (s : State) (n : Nat) : Bool := !(s.shadowBank.halfPorts && 2 ≤ n % 4)

/-- The fitted ports. -/
def State.fittedPorts (s : State) : List Nat := (List.range 160).filter s.portFitted

/-- The optical engines are powered: not in Retain or Vigil (R277, R429). -/
def State.opticsOn (s : State) : Bool := s.get .PWR_LADDER_MODULE < 3

/-- A bit of OPT_EVENTS sets, and with it source 14 (R412). -/
def State.optEvent (s : State) (f : Field) : State := (s.put f 1).raise 14

/-- A port takes a state and a cause: entering DARK or REFUSED sets its event bit, and a refusal is logged (R280,
Table 8). -/
def State.setPort' (s : State) (n st cause : Nat) : State :=
  let old := s.get .OPT_PORT_STATE_STATE n
  let oldCause := s.get .OPT_PORT_STATE_CAUSE n
  let s := s.puts n [(.OPT_PORT_STATE_STATE, st), (.OPT_PORT_STATE_CAUSE, cause)]
  if st = 1 && old != 1 then s.optEvent .OPT_EVENTS_DARK
  else if st = 5 && (old != 5 || oldCause != cause) then (s.optEvent .OPT_EVENTS_REFUSED).event 0x0502 clsNone n cause 0
  else s

/-! ### The pairing's ports (R493) -/

/-- The pairing becomes unverified, with an event; DETAIL 1 a tag of this module, 2 a tag of the partner, 3 the last
partner port lost. -/
def State.unverify (s : State) (why : Nat) : State :=
  if s.on .RES_PAIR_IN_EFFECT && s.on .RES_PAIR_VERIFIED then
    (s.put .RES_PAIR_VERIFIED 0).event 0x0904 clsNone (s.get .RES_PAIR_PARTNER_ID) why 0
  else s

/-- After a port has gone down: the pairing is unverified once no partner port is left. -/
def State.checkPartner (s : State) : State := if s.partnerPorts.isEmpty then s.unverify 3 else s

/-- A port has no link: its peer is no longer valid and its traffic is gone. -/
def State.portDown (s : State) (n : Nat) : State :=
  let p := s.port n
  let s := s.setPort n { p with
    tx := []
    kept := []
    resend := []
    txSeq := 0
    rxSeq := 0
    copies := []
    used := []
    owing := []
    parts := []
    asks := false
    relays := []
    failed := 0 }
  (s.puts n [(.OPT_PORT_PEER_VALID, 0), (.OPT_PORT_STATE_PEER_ENABLED, 0)]).checkPartner

/-- Asks for a training pass. -/
def State.wantTraining (s : State) (n : Nat) : State := s.setPort n { s.port n with training := true }

/-! ### Training (R277 to R282) -/

/-- Whether a peer is the neighbour the loaded image names for a port (R65, R281). -/
def PortRec.meets (e : PortRec) (m tile port : Nat) : Bool := e.moduleId = m && e.tile = tile && e.peerPort = port

/-- How step 5 ends: state and cause (R280, R281). -/
def State.identity (s : State) (n : Nat) (l : PortLight) (peer : BitVec 14) : Nat × Nat :=
  if peer.toNat = s.get .RES_MODULE_ID_MODULE_ID then (5, 2)
  else if 1000 < l.fibreNs then (5, 3)
  else if l.peerRefuses then (5, 4)
  else
    match (s.port n).expect with
    | some e => if e.expect && !e.meets peer.toNat l.peerTile.toNat l.peerPort.toNat then (5, 1) else (4, 0)
    | none => (4, 0)

/-- A training pass on a port (R277 to R282): it ends in DARK, LOCKING, LANES_UP, REFUSED or TRAINED; a port that the
loaded image enables and that finds the same peer again is enabled again. -/
def State.train (s : State) (n : Nat) (l : PortLight) : State :=
  let old := (s.get .OPT_PORT_PEER_MODULE_ID n, s.get .OPT_PORT_PEER_TILE n, s.get .OPT_PORT_PEER_PORT n)
  let s := (s.setPort n { s.port n with training := false }).bump .OPT_PORT_LINK_RETRAINS 1 n
  let s := s.puts n [(.OPT_PORT_STATE_DARK_LANES, l.darkLanes.toNat), (.OPT_PORT_STATE_REMAPPED, 0),
    (.OPT_PORT_STATE_PEER_ENABLED, 0), (.OPT_PORT_PEER_VALID, 0)]
  let s := if l.darkLanes != 0 then s.setPort' n 1 0
    else if !l.locks then s.setPort' n 2 0
    else if l.laneError then s.setPort' n 5 7
    else
      let s := if l.exchanged then
          ((s.put .OPT_PORT_STATE_REMAPPED 1 n).optEvent .OPT_EVENTS_REMAPPED).event 0x0503 clsC n 0 0 else s
      if !s.on .RES_MODULE_ID_ASSIGNED then s.setPort' n 3 5
      else
        match l.peerId with
        | none => s.setPort' n 3 6
        | some peer =>
          let s := (s.puts n [(.OPT_PORT_PEER_MODULE_ID, peer.toNat), (.OPT_PORT_PEER_TILE, l.peerTile.toNat),
            (.OPT_PORT_PEER_PORT, l.peerPort.toNat), (.OPT_PORT_PEER_VALID, 1)]).putSat .OPT_PORT_LINK_FIBRE_NS l.fibreNs n
          let (st, cause) := s.identity n l peer
          if st != 4 then s.setPort' n st cause
          else if !s.on .OPT_PORT_STATE_ENABLED n then s.setPort' n 4 0
          else if (s.port n).expect.any (·.expect) || old = (peer.toNat, l.peerTile.toNat, l.peerPort.toNat) then s.setPort' n 6 0
          else (s.put .OPT_PORT_STATE_ENABLED 0 n).setPort' n 4 0
  s.checkPartner

/-- A port on which passes run: fitted, neither DISABLED nor FAILED, engines powered (R277). -/
def State.trainable (s : State) (n : Nat) : Bool :=
  let st := s.get .OPT_PORT_STATE_STATE n
  s.portFitted n && s.opticsOn && st != 8 && st != 9

/-! ### Link loss and engine faults (R282, R283) -/

/-- The region that holds a port's attach router. -/
def portRegion (n : Nat) : Nat := routerRegion (portRouter n)

/-- PORT_LINK_LOST: causes 1 a dark lane, 2 lock, 3 replays. The port falls back and asks for training; the job loses a
planned link. -/
def State.linkLost (s : State) (n cause : Nat) (lanes : BitVec 8) : State :=
  let s := ((s.put .OPT_PORT_STATE_DARK_LANES lanes.toNat n).setPort' n (if cause = 1 then 1 else 2) 0).portDown n
  let s := (s.optEvent .OPT_EVENTS_LOST).event 0x0501 (if s.job then clsJ else clsNone) n cause 0
  (s.wantTraining n).classJ 4 (portRegion n)

/-- An engine fault: its fitted ports are FAILED, each with a PORT entry; a job that uses one (ENABLED by its image),
whatever state the port was in, loses a planned link (R55). -/
def State.engineFault (s : State) (tile : Nat) : State :=
  let ns := ((List.range 4).map (fun i => tile * 4 + i)).filter s.portFitted
  s.each ns (fun s n =>
    let up := s.on .OPT_PORT_STATE_ENABLED n || (6 ≤ s.get .OPT_PORT_STATE_STATE n && s.get .OPT_PORT_STATE_STATE n ≤ 7)
    let s := ((s.setPort' n 8 8).portDown n).firmwareDefect 6 12 n
    if up then ((s.optEvent .OPT_EVENTS_LOST).event 0x0501 (if s.job then clsJ else clsNone) n 4 0).classJ 4 (portRegion n)
    else s)

/-! ### Sending (R272, R275, R293) -/

/-- FP32 bytes converted to an egress format: bytes, glaze bytes, counts (EGRESS_CONVERSION). -/
def egressConvert (egress : Nat) (bs : List Byte) : List Byte × List Byte × Counts :=
  let vs := (chunkNat 4 bs).map (fun x => ofFp32 (BitVec.ofNat 32 x))
  if egress = 1 then
    let o := writePlain 1 false false false vs
    (o.elems.flatMap (leBytes 2), [], o.counts)
  else if egress = 2 then
    let o := writeGlazed 9 32 false false vs
    (o.elems.flatMap (leBytes 1), o.glazes.map (BitVec.ofNat 8), o.counts)
  else (bs, [], {})

/-- Flits that a receiving port buffers on a channel (R273). -/
def fibreDepth (vc : Nat) : Nat := [32, 1536, 1536, 768].getD vc 0

/-- The fibre flit that a group of flits crosses as, with the counts of its conversion and their layer tag. -/
def fibrePacket (g : List Flit) : Option (FibrePacket × Nat × Counts) :=
  match g with
  | [] => none
  | f :: _ =>
    let bare (kind : FibreKind) : FibrePacket := { fibreAck f.vc 0 (ownerCore f.owner) (Fin.ofNat 4 f.owner) with kind }
    match f.load with
    | .remote far egress offset tag _ =>
      let data := g.flatMap (fun x => match x.load with
        | .remote _ _ _ _ d => d
        | _ => [])
      let (bs, gs, c) := egressConvert egress data
      some ({ bare .write with
        farRoute := BitVec.ofNat 8 far
        egress := BitVec.ofNat 2 egress
        offset
        data := bs
        glazes := gs
        last := g.any (·.last) }, tag, c)
    | .onward k => some (k, 0, {})
    | .arrival bar v => some (bare (.arrival (BitVec.ofNat 6 bar) v), 0, {})
    | .release bar v _ => some (bare (.release (BitVec.ofNat 6 bar) v), 0, {})
    | _ => none

/-- Of flits that became the mesh flits listed, newest first, those of which some wait still: the newest `left` mesh flits
do. -/
def stillIn : List Nat → Nat → Nat
  | [], _ => 0
  | n :: rest, left => (if n = 0 || left = 0 then 0 else 1) + stillIn rest (left - n)

/-- Flits of a channel that a port has handed on and that have left its receive buffers whole (R273). -/
def State.leftPort (s : State) (n vc : Nat) : Nat :=
  let q := mget [] (s.port n).owing vc
  q.length - stillIn q ((s.router (portRouter n)).behind 6 vc).length

/-- The channels whose flits have left a port's receive buffers and whose credits go back with its next flit (R273). -/
def State.creditsDue (s : State) (n : Nat) : List Vc :=
  let back (vc : Vc) : List Vc := List.replicate (s.leftPort n vc.no) vc
  back .sync ++ (back .plan ++ (back .grad ++ back .maint))

/-- The flits whose credits go back are owed no more: the oldest of each channel. -/
def creditsGiven (owing : SMap (List Nat)) (cs : List Vc) : SMap (List Nat) :=
  cs.foldl (fun m c => mset [] m c.no (mget [] m c.no).dropLast) owing

/-- A flit as it leaves by a port: with its sequence number, the credits that go back, and the replay it asks for (R275). -/
def State.framed (s : State) (n : Nat) (k : FibrePacket) : FibrePacket :=
  let p := s.port n
  { k with
    seq := p.txSeq
    credits := s.creditsDue n
    replay := if p.asks then some p.rxSeq else none }

/-- A flit is sent by a port with its framing and kept for replay (R275). -/
def State.sendKept (s : State) (n : Nat) (k : FibrePacket) : State :=
  let k := s.framed n k
  let p := s.port n
  s.setPort n { p with
    kept := (k :: p.kept).take 2048
    txSeq := p.txSeq + 1
    owing := creditsGiven p.owing k.credits }

/-- A flit is sent by a port (R272, R273, R275): it takes a credit of its channel, and is counted. -/
def State.sendFibre (s : State) (n : Nat) (k : FibrePacket) : State :=
  let s := s.sendKept n k
  let p := s.port n
  (s.setPort n { p with used := mset 0 p.used k.vc.no (mget 0 p.used k.vc.no + 1) }).count .OPT_PORT_TX_FLITS 1 n

/-- An idle flit. It carries the framing and nothing else. -/
def idleFlit : FibrePacket := { fibreAck .sync 0 ⟨0, 0, 0⟩ 0 with kind := .idle }

/-- A flit that the peer has asked for goes again: as it was sent, with the replay that this port now asks for (R275). -/
def State.sendAgain (s : State) (n : Nat) (k : FibrePacket) (rest : List FibrePacket) : State :=
  let p := s.port n
  let k := { k with replay := if p.asks then some p.rxSeq else none }
  let s := s.setPort n { p with
    resend := rest
    copyWait := p.copyWait + 1
    kept := p.kept.map (fun x => if x.seq = k.seq then k else x) }
  if k.kind = .idle then s else s.count .OPT_PORT_TX_FLITS 1 n

/-- The flit of a secured copy that a port may send now: a paced drain's at most once in 64 flit slots (R494). -/
def State.copyReady (s : State) (p : Port) : Option FibrePacket :=
  match p.copies with
  | (paced, k) :: _ => if paced && !s.drainsUnpaced && p.copyWait < 63 then none else some k
  | [] => none

/-- PORT_TRANSMIT (R272, R273, R275): flits asked for again go first, in order; then the next fibre flit by channel priority
among those that hold a credit of the peer's buffers, with the MAINT floor in flit slots; on MAINT the port link and
secured copies take turns (R489); its conversion's counts set out as a report (R189, R293). With none to send, an idle flit carries credits and the replay asked for (log entry 35). -/
def State.transmit (s : State) (n : Nat) : State :=
  let p := s.port n
  match p.resend with
  | k :: rest => s.sendAgain n k rest
  | [] =>
    let copy := s.copyReady p
    let ready (vc : Nat) : Bool :=
      (!(nextGroup (mget [] p.tx vc)).isEmpty || (vc = 3 && copy.isSome)) && mget 0 p.used vc < fibreDepth vc
    let p := { p with copyWait := p.copyWait + 1 }
    let order := if maintFloor ≤ p.maintWait then [0, 3, 1, 2] else [0, 1, 2, 3]
    match order.find? ready with
    | none =>
      let s := s.setPort n { p with maintWait := 0 }
      if (s.creditsDue n).isEmpty && !p.asks then s else s.sendKept n idleFlit
    | some vc =>
      let q := mget [] p.tx vc
      let g := nextGroup q
      let p := { p with maintWait := if vc = 3 || !ready 3 then 0 else p.maintWait + 1 }
      match (if vc = 3 && (g.isEmpty || p.copyTurn) then copy else none) with
      | some k => (s.setPort n { p with
          copies := p.copies.tail
          copyWait := 0
          copyTurn := false }).sendFibre n k
      | none =>
        let s := s.setPort n { p with
          tx := mset [] p.tx vc (g.foldl (fun q f => q.erase f) q)
          copyTurn := p.copyTurn || vc = 3 }
        match fibrePacket g with
        | none => s.drop (portRouter n) 1
        | some (k, tag, c) =>
          let s := s.sendFibre n k
          if c = {} then s else s.report tag c

/-! ### Receiving (R286, R287) -/

/-- Bytes of the FP32 view that a packet spans. -/
def packetSpan (k : FibrePacket) : Nat := k.data.length * egressPack k.egress.toNat

/-- The channel a receive-table entry expects: 0 PLAN, 1 GRAD, 2 MAINT. -/
def rxChannel (vc : Nat) : Vc := if vc = 0 then .plan else if vc = 1 then .grad else .maint

/-- Whether a range of this module's cluster aperture passes the checks of R217. -/
def State.rxPlace (s : State) (a n : Nat) : Bool :=
  [a, a + n - 1].all (fun x => match s.place x with
    | .near p _ => !clusterLost s.loadedDefects (p / 17) && s.regionRuns (coreRegion p)
    | .stacked c _ => !clusterLost s.loadedDefects c && s.regionRuns (clusterRegion c)
    | _ => false)

/-- Why a port drops a packet (R287): 1 entry or length, 2 channel or format, 3 destination check. -/
def State.rxBad (s : State) (e : RxEntry) (k : FibrePacket) : Option Nat :=
  if e.length * 2048 < k.offset + packetSpan k || e.length = 0 then some 1
  else if rxChannel e.vc != k.vc || e.egress != k.egress.toNat then some 2
  else if e.forward then none
  else if !s.rxPlace (e.base + k.offset / egressPack e.egress) k.data.length then some 3
  else if e.egress = 2 && !s.rxPlace (e.glazeBase + k.offset / 128) k.glazes.length then some 3
  else none

/-- RX_DROP of a packet (R287); after the job's fault it raises no further one (R484). -/
def State.rxDrop (s : State) (n cause : Nat) : State :=
  let first := s.get .OPT_PORT_CTRL_RX_DROPS n = 0
  let s := (s.bump .OPT_PORT_CTRL_RX_DROPS 1 n).optEvent .OPT_EVENTS_RX_DROP
  if first then
    let s := (s.put .OPT_PORT_CTRL_DROP_CAUSE cause n).event 0x0505 (if s.job then clsJ else clsNone) n cause 0
    if s.job then s.classJ 5 (portRegion n) else s
  else s

/-- Flits that a fibre flit counts as: one for every 128 bytes. -/
def fibreFlits (k : FibrePacket) : Nat := max 1 ((k.data.length + 127) / 128)

/-- A flit's framing (R273, R275): a flit asked for, and every later one, is to be sent again, whatever becomes of the flit
that asks; the credits come back with a flit that is taken in, which is the one that this port may itself have asked for. -/
def Port.framing (p : Port) (k : FibrePacket) (taken : Bool) : Port :=
  let p := { p with
    resend := match k.replay with
      | some q => (p.kept.filter (fun x => q ≤ x.seq)).reverse
      | none => p.resend }
  if taken then { p with
    rxSeq := p.rxSeq + 1
    asks := false
    used := k.credits.foldl (fun m c => mset 0 m c.no (mget 0 m c.no - 1)) p.used }
  else p

/-- The port that received the packet which an acknowledgement answers, where this module forwarded it, and what is kept of
it (R286, R288). -/
def State.relayOf (s : State) (k : FibrePacket) : Option (Nat × Relay) :=
  (List.range 160).findSome? (fun n => ((s.port n).relays.find? (fun r =>
    r.vc = k.vc && r.farRoute = k.farRoute && r.writer = k.writer && r.chan = k.chan)).map (fun r => (n, r)))

/-- A port hands on a flit that has become a number of mesh flits; its credit is owed from here on (R273). -/
def State.handedOn (s : State) (n vc mesh : Nat) : State :=
  let p := s.port n
  s.setPort n { p with owing := mset [] p.owing vc (mesh :: mget [] p.owing vc) }

/-- An acknowledgement comes in by a port: one of a packet that this module forwarded goes on by the port that received the
packet; any other travels from the port's router to its writer, by the acknowledgement route of the writer's source entry
for the port, or, where none is planned, is there at once (R288, R369; log entry 31). -/
def State.receiveAck (s : State) (n : Nat) (k : FibrePacket) : State :=
  match s.relayOf k with
  | some (m, r) =>
    let p := s.port m
    let mesh := if (s.portRoute (portRouter n) m k.vc).isSome then 1 else 0
    ((s.setPort m { p with relays := p.relays.erase r }).handedOn n k.vc.no mesh).ackPort (portRouter n) 6 m
      (fibreAck k.vc r.entry k.writer k.chan)
  | none =>
    let owner := k.writer.no * 4 + k.chan
    match s.sourceEntry k.writer.no 2 n k.vc.no with
    | some e => (s.handedOn n k.vc.no 1).injectAt (portRouter n) 6 [⟨k.vc, .route e.ackRoute, .ack, true, owner, 0⟩]
    | none => (s.handedOn n k.vc.no 0).acked owner

/-- The flits by which an arriving write enters the mesh at the attach router: to its place, elements and glaze bytes, or to
the onward port (R286). -/
def writeFlits (e : RxEntry) (k : FibrePacket) (owner : Nat) : List Flit :=
  let flit (load : FlitLoad) (last : Bool) : Flit := ⟨k.vc, .route e.route, load, last, owner, k.farRoute.toNat⟩
  if e.forward then [flit (.onward { k with farRoute := BitVec.ofNat 8 e.nextFarRoute }) k.last]
  else
    let data := (cutAt 128 (e.base + k.offset / egressPack e.egress) k.data).map (fun x => FlitLoad.write x.1 x.2)
    let glaze := if k.glazes.isEmpty then [] else [FlitLoad.write (e.glazeBase + k.offset / 128) k.glazes]
    let loads := glaze ++ data
    loads.mapIdx (fun i l => flit l (k.last && i + 1 = loads.length))

/-- Two flits belong to one packet. -/
def samePacketAs (k x : FibrePacket) : Bool :=
  x.vc = k.vc && x.farRoute = k.farRoute && x.writer = k.writer && x.chan = k.chan

/-- A write packet whose last flit has come: it enters the mesh whole, or is dropped whole (R286, R287). -/
def State.takePacket (s : State) (n : Nat) (ks : List FibrePacket) : State :=
  let e (k : FibrePacket) : RxEntry := mget ⟨0, 0, 0, 0, false, 0, 0, 0⟩ (s.port n).rx k.farRoute.toNat
  match ks.findSome? (fun k => s.rxBad (e k) k) with
  | some cause => (s.each ks (fun s k => s.handedOn n k.vc.no 0)).rxDrop n cause
  | none => s.each ks (fun s k =>
    let fs := writeFlits (e k) k (fibreOwner * (n + 1) + k.writer.no * 4 + k.chan)
    (s.handedOn n k.vc.no fs.length).injectAt (portRouter n) 6 fs)

/-- A flit of a packet that its port takes in (R286 to R288, R256). A secured copy's leaves by the carrier's maintenance path
(R489), and reaches the hosted area, or the UNIQUE ranges, with the row that writes it. -/
def State.takeIn (s : State) (n : Nat) (k : FibrePacket) : State :=
  let toUnits (load : FlitLoad) : State :=
    (s.handedOn n k.vc.no 1).injectAt (portRouter n) 6 [⟨.sync, .unit 6, load, true, 0, 0⟩]
  match k.kind with
  | .idle => s
  | .ack => s.receiveAck n k
  | .arrival id v => toUnits (.arrival (256 + id.toNat) v)
  | .release id v => toUnits (.release (256 + id.toNat) v none)
  | .copy => s.handedOn n k.vc.no 0
  | .write =>
    let p := s.port n
    if !k.last then s.setPort n { p with parts := p.parts ++ [k] }
    else (s.setPort n { p with parts := p.parts.filter (fun x => !samePacketAs k x) }).takePacket n (p.parts.filter (samePacketAs k) ++ [k])

/-- The receive buffers of a port have room for a flit: every flit taken in holds its place until its credit has gone back
(R273). -/
def Port.room (p : Port) (k : FibrePacket) : Bool :=
  k.kind = .idle || (mget [] p.owing k.vc.no).length + (p.parts.filter (·.vc = k.vc)).length < fibreDepth k.vc.no

/-- PORT_RECEIVE_PACKET: a flit that is not the next in sequence is discarded (R275), and one without room never comes, for
the peer holds a credit for each it sends (R273). -/
def State.receive (s : State) (n : Nat) (k : FibrePacket) : State :=
  let p := s.port n
  let taken := k.seq = p.rxSeq && p.room k
  let s := s.setPort n (p.framing k taken)
  if !taken || k.kind = .idle then s
  else (s.count .OPT_PORT_RX_FLITS (fibreFlits k) n).takeIn n k

/-! ### Writes of OPT_PORT_CTRL (R297) -/

/-- BAR0 offset of a port's OPT_PORT_CTRL. -/
def portCtrlOffset (n : Nat) : Nat := 0x90101C + 0x20 * n

/-- A write of OPT_PORT_CTRL: nothing for an ABSENT port; ignored with an event for one that the loaded image enables;
DISABLE turns the transmitter off or on, RETRAIN and a cleared DISABLE start a training pass; with the optical engines off
every lane is dark (R429). -/
def State.writePortCtrl (s : State) (n v : Nat) : State :=
  let st := s.get .OPT_PORT_STATE_STATE n
  let dis := bits v 0 1
  if !s.portFitted n then s
  else if s.on .OPT_PORT_STATE_ENABLED n then s.ignoredWrite (portCtrlOffset n)
  else
    let was := s.get .OPT_PORT_CTRL_DISABLE n
    let s := s.put .OPT_PORT_CTRL_DISABLE dis n
    if st = 8 then s
    else if dis = 1 then if was = 1 then s else (s.setPort' n 9 0).portDown n
    else
      let dark : Nat := if 3 ≤ s.get .PWR_LADDER_MODULE then 255 else s.get .OPT_PORT_STATE_DARK_LANES n
      let s := if was = 1 then (s.setPort' n 1 0).put .OPT_PORT_STATE_DARK_LANES dark n else s
      if was = 1 || bits v 1 1 = 1 then s.wantTraining n else s

end Sys2Proof.Machine
end

