-- ==== Sys2Proof/Machine/LadderOps.lean ====
section
/-!
DEFINITION. The power ladder (R428 to R433): states of regions and of the module, trips and latched converter groups,
and what leaving a state brings with it (R221, R222, R429).
-/
namespace Sys2Proof.Machine

/-! ### Regions -/

/-- The ladder code of a region state of an image: 0 Doze, 1 Retain, 2 Poise, 3 Run there; 0 Run to 4 Vigil here (R368,
Table 2). -/
def ladderOf (st : Nat) : Nat := if st = 0 then 2 else if st = 1 then 3 else if st = 2 then 1 else 0

/-- The ladder state the loaded image gives a region; Doze with no image. -/
def State.imageLadder (s : State) (r : Nat) : Nat :=
  match s.image with
  | some im => ladderOf (((im.regions.find? (·.region = r)).map (·.state)).getD 0)
  | none => 2

/-- A region that the loaded image sets to Run or Poise (R431). -/
def State.engaged (s : State) (r : Nat) : Bool := s.image.isSome && s.imageLadder r ≤ 1

/-- Zeros with valid check bits in every SRAM of a region (R221). -/
def State.fillRegion (s : State) (r : Nat) : State :=
  s.each (regionClusters r) (fun s c =>
    (s.fillZero (stackedAddr c 0) stackedSize).fillZero (nearAddr (c * 17) 0) (17 * nearSize))

/-- A region cannot change state: its converter group is latched off, or it has tripped (R427, R433). -/
def State.regionStuck (s : State) (r : Nat) : Bool := s.on .PWR_REGION_SHORT r || s.on .PWR_REGION_TRIPPED r

/-- The coolant check has not ended: a state below Poise waits for its end (R477). -/
def State.coolChecking (s : State) : Bool := s.cool.checkOn && s.get .RES_COOL_CHECK_STATE ≤ 1

/-- A region takes a ladder state: the clock runs in Run and Poise once the PLL has its lock, the sensor reads except in
Vigil, and leaving Vigil fills the SRAM (R221, R428, R433, R444). -/
def State.putRegion (s : State) (r code : Nat) : State :=
  let old := s.get .PWR_REGION_STATE r
  let s := if old = 4 && code != 4 then s.fillRegion r else s
  let run := if code ≤ 1 && !(s.region r).lockLost then 1 else 0
  let s := s.puts r [(.PWR_REGION_STATE, code), (.PWR_REGION_CLK, run), (.PWR_REGION_LOCKED, run)]
  let s := s.put .THERM_REGION_VALID (if code = 4 then 0 else 1) r
  let s := if code = 2 then s else s.put .THERM_REGION_TRIPPED 0 r
  s.setRegion r { s.region r with heldState := none }

/-- A region is told to take a state (R375, R429, R431, R477): none above the module's; one latched off stays; one that
has tripped stays in Doze, or below it with the module (R433); one below Poise, Vigil among them, waits while the coolant
check has not ended. -/
def State.moveRegion (s : State) (r code : Nat) : State :=
  let code := max code (s.get .PWR_LADDER_MODULE)
  if s.on .PWR_REGION_SHORT r then s
  else if s.on .PWR_REGION_TRIPPED r then
    let low := max 2 (s.get .PWR_LADDER_MODULE)
    if s.get .PWR_REGION_STATE r = low then s else s.putRegion r low
  else if s.coolChecking && 1 < code && s.get .PWR_LADDER_MODULE ≤ 1 then
    s.setRegion r { s.region r with heldState := some code }
  else if s.get .PWR_REGION_STATE r = code && s.on .PWR_REGION_CLK r = decide (code ≤ 1) then
    s.setRegion r { s.region r with heldState := none }
  else s.putRegion r code

/-- States that waited for the coolant check take effect (R476, R477): each region goes to the state that the loaded
image sets, or to Doze, unless another was asked for. -/
def State.endWarming (s : State) : State :=
  s.each (List.range 400) (fun s r =>
    match (s.region r).heldState with
    | some c => s.moveRegion r c
    | none => if s.on .PWR_REGION_CLK r && !s.job then s.moveRegion r (s.imageLadder r) else s)

/-- During the 30 s count every region that passed power-up is at Poise or above (R476); a state that waits for the end of
the check goes on waiting (R477). -/
def State.startWarming (s : State) : State :=
  s.each (List.range 400) (fun s r =>
    if s.regionStuck r || s.get .PWR_REGION_STATE r ≤ 1 then s
    else
      let held := (s.region r).heldState
      let s := s.putRegion r (max 1 (s.get .PWR_LADDER_MODULE))
      s.setRegion r { s.region r with heldState := held })

/-- The flits inside a region are lost: those in its routers' buffers (R266); with the hold buffers empty their episodes end
(R262). -/
def State.dropInside (s : State) (reg : Nat) : State :=
  { s with routers := (s.routers.map (fun e =>
      if routerRegion e.1 = reg then (e.1, { e.2 with inbuf := [], source := [], hold := [], slipped := [] }) else e)).filter (fun e => e.2 != {}) }

/-- A region trips or loses lock: it goes to Doze, or below with the module, with TRIPPED; its clock stops without notice
(R53, R429, R433, R442). -/
def State.tripRegion (s : State) (r : Nat) : State :=
  let s := s.puts r [(.PWR_REGION_STATE, max 2 (s.get .PWR_LADDER_MODULE)), (.PWR_REGION_CLK, 0), (.PWR_REGION_LOCKED, 0),
    (.PWR_REGION_TRIPPED, 1), (.THERM_REGION_TRIPPED, 1)]
  (s.dropInside r).setRegion r { s.region r with
    heldState := none
    hot := 0 }

/-- A region's converter group is latched off: Vigil with SHORT (R427). -/
def State.latchRegion (s : State) (r : Nat) : State :=
  let s := s.puts r [(.PWR_REGION_STATE, 4), (.PWR_REGION_CLK, 0), (.PWR_REGION_LOCKED, 0), (.PWR_REGION_SHORT, 1),
    (.THERM_REGION_VALID, 0)]
  (s.dropInside r).setRegion r { s.region r with heldState := none }

/-- TRIPPED clears in a region that the loader brings out of Doze with its junction below the throttle start (R433,
R451). -/
def State.clearTrip (s : State) (r : Nat) : State :=
  if s.on .PWR_REGION_TRIPPED r && signed (s.get .THERM_REGION_TJ r) 16 < (s.get .THERM_POINTS_THROTTLE_C : Int) * 16 then
    s.puts r [(.PWR_REGION_TRIPPED, 0), (.THERM_REGION_TRIPPED, 0)]
  else s

/-! ### The loaded image goes (R289, R374, R429) -/

/-- Ports that count as training ports: fitted, neither DISABLED nor FAILED (R429). -/
def State.livePorts (s : State) : List Nat :=
  s.fittedPorts.filter (fun n => s.get .OPT_PORT_STATE_STATE n != 8 && s.get .OPT_PORT_STATE_STATE n != 9)

/-- Every port is disabled by the loader: no image uses it, its tables are empty, its traffic is gone (R289). -/
def State.disablePorts (s : State) : State :=
  s.each s.fittedPorts (fun s n =>
    let p := s.port n
    let s := s.setPort n { p with
      tx := []
      rx := []
      relays := []
      failed := 0
      expect := none }
    let st := s.get .OPT_PORT_STATE_STATE n
    let s := s.puts n [(.OPT_PORT_STATE_ENABLED, 0), (.OPT_PORT_STATE_EXPECTED, 0)]
    if st = 6 || st = 7 || (st = 5 && s.get .OPT_PORT_STATE_CAUSE n = 1) then s.setPort' n 4 0 else s)

/-- The image and its mesh, barrier and core state go; SRAM and ring stay (R257, R374). -/
def State.dropImage (s : State) : State :=
  let s := s.disablePorts
  { s with
    image := none
    left := none
    routers := []
    barriers := []
    arrivals := []
    quiet := none
    job := false }

/-- Rolls back an open or pending transaction (R386). -/
def State.rollBack (s : State) (sc outcome : Nat) : State :=
  if s.on .TXN_STATE_STATE sc then s.endTxn sc outcome 0 0 else s

/-- A transaction goes without a result (R386, Table 3). -/
def State.discardTxn (s : State) (sc : Nat) : State :=
  ({ s with txns := mset {} s.txns sc {} } : State).puts sc [(.TXN_STATE_STATE, 0), (.TXN_STATE_ITEMS, 0)]

/-! ### The module's state -/

/-- Both hosted copies are destroyed (R492). -/
def State.dropHosted (s : State) : State :=
  let s : State := { s with hosted := [] }
  s.each [0, 1] (fun s k => s.clears k [.MNT_HCOPY_STEP_STEP, .MNT_HCOPY_STAT_VALID, .MNT_HCOPY_STAT_BUF_SEL,
    .MNT_HCOPY_STAT_SHARED, .MNT_HCOPY_STAT_FLAGGED])

/-- Optical engines go off: every live port reads DARK with every lane dark (R429). -/
def State.opticsOff (s : State) : State :=
  s.each s.livePorts (fun s n => ((s.setPort' n 1 0).put .OPT_PORT_STATE_DARK_LANES 255 n).portDown n)

/-- Optical engines come on: one training pass on every live port (R429). -/
def State.opticsUp (s : State) : State := s.each s.livePorts State.wantTraining

/-- The ring is filled with zeros (R222). -/
def State.fillRing (s : State) : State := s.fillZero 0 s.ringTop

/-- What Vigil loses: the image and the transactions, hosted copies, every memory (R429, Table 3, R492). -/
def State.enterVigil (s : State) : State :=
  let s := s.dropImage.put .IMG_STATE_STATE 0
  let s := s.each [0, 1, 2, 3] State.discardTxn
  { s.dropHosted with
    tables := []
    mem := []
    bad := [] }

/-- The module takes a ladder state: its shared parts first, from Vigil with a ring training in which some stacks may fail,
then every region by Table 3 (R429, R431). -/
def State.moveModule (s : State) (code : Nat) : State :=
  let old := s.get .PWR_LADDER_MODULE
  let s := s.put .PWR_LADDER_MODULE code
  let s := if old < 3 && 3 ≤ code then s.opticsOff else s
  let s := if old != 4 && code = 4 then s.enterVigil else s
  let s := if old = 4 && code != 4 then s.trainStacks.fillRing else s
  let s := if 3 ≤ old && code < 3 then s.opticsUp else s
  s.each (List.range 400) (fun s r =>
    if code = 0 then s.moveRegion r (s.imageLadder r)
    else s.moveRegion r (max (s.get .PWR_REGION_STATE r) code))

end Sys2Proof.Machine
end

