-- ==== Sys2Proof/Machine/HostOps.lean ====
section
/-!
DEFINITION. Eloap commands on their way: descriptors (R407), the turn of a command on its source and among the serial
ones (R410), completions (R408), ring faults (R404), and the admission that every command shares (R465, R469).
-/
namespace Sys2Proof

/-- SOURCE of a completion (R408). -/
def CmdSource.code : CmdSource → Nat
  | .ring r => r
  | .mailbox => 4
  | .oobSmbus => 5
  | .oobPcie => 5

/-- Whether a command came out of band. -/
def CmdSource.oob : CmdSource → Bool
  | .oobSmbus => true
  | .oobPcie => true
  | _ => false

/-- Where a command that came by a link came from. -/
def OobLink.source : OobLink → CmdSource
  | .smbus _ => .oobSmbus
  | .pcieVdm => .oobPcie

/-- The bit of a link's endpoint in `oobBusy`. -/
def OobLink.bit : OobLink → BitVec 2
  | .smbus _ => 1
  | .pcieVdm => 2

/-- OPCODE of an Eloap row (Table 5 of "Host Attachment"); 0 for every other row. -/
def Instr.opcode : Instr → Nat
  | .loadImage _ _ => 0x0001
  | .txnBegin _ _ _ => 0x0010
  | .txnWrite _ _ _ => 0x0011
  | .txnCommit _ _ _ => 0x0012
  | .txnRollback _ _ => 0x0013
  | .run _ => 0x0020
  | .halt _ => 0x0021
  | .secureNow _ => 0x0030
  | .pair _ _ => 0x0031
  | .ladder _ _ _ _ => 0x0040
  | .maintStart _ _ _ => 0x0050
  | .stateQuery _ => 0x0060
  | .logRead _ _ _ _ _ => 0x0061
  | _ => 0

/-- The serial commands of Table 5. -/
def serialOpcode (op : Nat) : Bool := [0x0001, 0x0010, 0x0011, 0x0012, 0x0013, 0x0020, 0x0031, 0x0040, 0x0050].contains op

/-- The commands that OOB_ADMIN admits out of band (R465). -/
def adminOpcode (op : Nat) : Bool := [0x0001, 0x0020, 0x0010, 0x0011, 0x0012, 0x0013, 0x0040, 0x0050].contains op

end Sys2Proof
namespace Sys2Proof.Machine

/-! ### Ranges -/

/-- Two ranges, as (base, bytes), share a byte. -/
def spansMeet (a b : Nat × Nat) : Bool := a.1 < b.1 + b.2 && b.1 < a.1 + a.2 && 0 < a.2 && 0 < b.2

/-! ### Rings (R402 to R405) -/

/-- Entries of a ring. -/
def State.ringEntries (s : State) (r : Nat) : Nat := 2 ^ (s.get .HOST_RING_CFG_SIZE r + 4)

def State.sqBase (s : State) (r : Nat) : Nat := s.get .HOST_SQ_BASE_LO_ADDR r + 2 ^ 32 * s.get .HOST_SQ_BASE_HI_ADDR r
def State.cqBase (s : State) (r : Nat) : Nat := s.get .HOST_CQ_BASE_LO_ADDR r + 2 ^ 32 * s.get .HOST_CQ_BASE_HI_ADDR r

/-- The ring ranges of a command ring: its SQ, and its CQ unless that lies in host memory. -/
def State.ringSpans (s : State) (r : Nat) : List (Nat × Nat) :=
  (s.sqBase r, 64 * s.ringEntries r) :: (if s.on .HOST_RING_CFG_HOST_MEM r then [] else [(s.cqBase r, 32 * s.ringEntries r)])

/-- The ring ranges of every enabled command ring. -/
def State.enabledSpans (s : State) : List (Nat × Nat) :=
  ([0, 1, 2, 3].filter (fun r => s.on .HOST_RING_CFG_EN r)).flatMap s.ringSpans

/-- Bytes of the loaded image's ring allocation (R368). -/
def State.imageTop (s : State) : Nat :=
  match s.image with
  | some im => im.ringTop
  | none => 0

/-- Bytes of the hosted area (R491). -/
def State.hostedSpan (s : State) : Nat × Nat :=
  ((s.get .MNT_HOST_BASE_LO_ADDR + 2 ^ 32 * s.get .MNT_HOST_BASE_HI_ADDR), s.get .MNT_HOST_UNITS_UNITS * 4096)

/-- A ring stops: EN clears, FAULT and CAUSE are set, with event 0x0B03 and source 18 (R404). -/
def State.ringFault (s : State) (r cause : Nat) : State :=
  let s := s.puts r [(.HOST_RING_CFG_EN, 0), (.HOST_RING_STAT_FAULT, 1), (.HOST_RING_STAT_CAUSE, cause)]
  (s.event 0x0B03 clsNone r cause 0).raise 18

/-! ### Completions (R408) -/

/-- The 32 bytes of a completion. -/
def completionBytes (tag : Word) (op status phase source detail r0 r1 : Nat) : List Byte :=
  leBytes 4 tag.toNat ++ (leBytes 2 op ++ (leBytes 1 status ++ (leBytes 1 (phase + 2 * source) ++
    (leBytes 4 detail ++ (leBytes 4 0 ++ (leBytes 8 r0 ++ leBytes 8 r1))))))

/-- The ring address of the next entry of a CQ. -/
def State.cqSlot (s : State) (r : Nat) : Nat := s.cqBase r + 32 * s.get .HOST_CQ_TAIL_INDEX r

/-- The phase bit of a completion, bit 0 of its byte 7 (R408). -/
def setPhase (entry : List Byte) (phase : Bool) : List Byte :=
  entry.set 7 (entry.getD 7 0 ||| (if phase then 1 else 0))

/-- A completion is written to the CQ of its ring: the entry, the tail, the phase, the interrupt; an uncorrectable line
stops the ring (R404, R408, R534). -/
def State.cqPut (s : State) (r : Nat) (irq : Bool) (entry : List Byte) : State :=
  let e := setPhase entry (s.phase.getLsbD r)
  let t := s.get .HOST_CQ_TAIL_INDEX r
  let a := s.cqSlot r
  let (s, ok) :=
    if s.on .HOST_RING_CFG_HOST_MEM r then ({ s with hostMem := msetRange 0 s.hostMem a e }, true) else s.writePhys a e
  if !ok then s.ringFault r 5
  else
    let t' := (t + 1) % s.ringEntries r
    let s := s.put .HOST_CQ_TAIL_INDEX t' r
    let s : State := if t' = 0 then { s with phase := s.phase ^^^ BitVec.ofNat 4 (2 ^ r) } else s
    if irq then s.raise (1 + r) else s

/-- The next entry of a CQ cannot be written yet: an earlier completion waits, or the host caches its line (R398). -/
def State.cqHeld (s : State) (r : Nat) : Bool :=
  s.cqWait.any (fun w => w.1 = r) || (!s.on .HOST_RING_CFG_HOST_MEM r && !(s.cachedLines (s.cqSlot r) 32).isEmpty)

/-- A completion goes to the CQ of its ring, once no line it is written to is cached by the host (R398, R408). -/
def State.cqWrite (s : State) (r : Nat) (irq : Bool) (entry : List Byte) : State :=
  if s.cqHeld r then { s with cqWait := s.cqWait ++ [(r, irq, entry)] } else s.cqPut r irq entry

/-- The completions that wait go out, oldest first, as far as they can. -/
def State.cqFlush (s : State) : State :=
  ({ s with cqWait := [] } : State).each s.cqWait (fun s w => s.cqWrite w.1 w.2.1 w.2.2)

/-- A completion goes where its command came from; one fetched before a reset of the host interface is discarded (R394,
R408, R414). `more` are the log entries that follow one sent out of band (R415). -/
def State.answer (s : State) (c : Ctx) (op status detail r0 r1 : Nat) (more : List Byte) : State :=
  if s.orphans.contains c then { s with orphans := s.orphans.erase c }
  else
    let bytes := completionBytes c.tag op status 0 c.src.code detail r0 r1
    match c.src with
    | .ring r => s.cqWrite r c.irq bytes
    | .mailbox =>
      let s := s.each (List.range 8) (fun s w => s.put .HOST_MBX_CPL_WORD (leNat ((bytes.drop (4 * w)).take 4)) w)
      ((s.put .HOST_MBX_CTRL_BUSY 0).put .HOST_MBX_CTRL_DONE 1).raise 0
    | .oobSmbus => { s with
        oobOut := s.oobOut ++ [1 :: (bytes ++ more)]
        oobBusy := s.oobBusy &&& 2
        smbusDriving := false }
    | .oobPcie => { s with oobOut := s.oobOut ++ [1 :: (bytes ++ more)], oobBusy := s.oobBusy &&& 1 }

/-! ### Descriptors (R407, Table 5) -/

/-- Bytes lo to hi − 1 of a descriptor, as a number. -/
def dfield (d : List Byte) (lo hi : Nat) : Nat := leNat ((d.drop lo).take (hi - lo))

/-- Every byte of a descriptor from byte 8 on that no field of ranges (from, to) covers is zero. -/
def dclear (d : List Byte) (fields : List (Nat × Nat)) : Bool :=
  (List.range 56).all (fun i => d.getD (8 + i) 0 = 0 || fields.any (fun f => f.1 ≤ 8 + i && 8 + i < f.2))

/-- A descriptor as the command it is, or the status with which it completes: 0x01 for an unknown opcode, 0x02 for an
operand outside its width or a reserved field that is not zero (R407, R415; log entry 40). -/
def decodeDescriptor (c : Ctx) (d : List Byte) : Except Nat Instr :=
  let op := dfield d 0 2
  let flags := dfield d 2 3
  let inline := flags.testBit 1
  let regions : RegionSet := BitVec.ofNat 400 (dfield d 12 62)
  let ok (fields : List (Nat × Nat)) (limits : Bool) (i : Instr) : Except Nat Instr :=
    if flags < 4 && d.getD 3 0 = 0 && dclear d fields && limits && (!inline || (c.src.oob && op = 0x0061)) then .ok i
    else .error 0x02
  match op with
  | 0x0001 => ok [(8, 16)] true (.loadImage c (BitVec.ofNat 64 (dfield d 8 16)))
  | 0x0010 => ok [(8, 9), (12, 62)] (decide (dfield d 8 9 < 4)) (.txnBegin c (Fin.ofNat 4 (dfield d 8 9)) regions)
  | 0x0011 => ok [(8, 12), (16, 24)] true (.txnWrite c (BitVec.ofNat 32 (dfield d 8 12)) (BitVec.ofNat 64 (dfield d 16 24)))
  | 0x0012 => ok [(8, 10)] (decide (dfield d 8 9 < 4) && decide (dfield d 9 10 < 2))
      (.txnCommit c (Fin.ofNat 4 (dfield d 8 9)) (dfield d 9 10 = 1))
  | 0x0013 => ok [(8, 9)] (decide (dfield d 8 9 < 4)) (.txnRollback c (Fin.ofNat 4 (dfield d 8 9)))
  | 0x0020 => ok [] true (.run c)
  | 0x0021 => ok [] true (.halt c)
  | 0x0030 => ok [] true (.secureNow c)
  | 0x0031 => ok [(8, 10)] (decide (dfield d 8 10 < 2 ^ 14)) (.pair c (BitVec.ofNat 14 (dfield d 8 10)))
  | 0x0040 => ok [(8, 10), (12, 62)] (decide (dfield d 9 10 < 2))
      (.ladder c (BitVec.ofNat 8 (dfield d 8 9)) (dfield d 9 10 = 1) regions)
  | 0x0050 => ok [(8, 9), (16, 64)] true (.maintStart c (BitVec.ofNat 8 (dfield d 8 9)) ((d.drop 16).take 48))
  | 0x0060 => ok [] true (.stateQuery c)
  | 0x0061 => ok [(8, 14), (16, 24)] true
      (.logRead c (BitVec.ofNat 32 (dfield d 8 12)) (BitVec.ofNat 16 (dfield d 12 14)) (BitVec.ofNat 64 (dfield d 16 24)) inline)
  | _ => .error 0x01

/-- What a descriptor carries beside its operands. -/
def descCtx (src : CmdSource) (d : List Byte) : Ctx := ⟨src, BitVec.ofNat 32 (dfield d 4 8), (dfield d 2 3).testBit 0⟩

/-! ### Turns (R410) -/

/-- The contexts of the long commands in progress. -/
def State.inProgress (s : State) : List Ctx :=
  (s.loading.bind (·.ctx)).toList ++ ((s.laddering.map (·.ctx)).toList ++ ((s.pairing.bind (·.ctx)).toList ++
    s.halting.toList))

/-- The oldest accepted descriptor of a source. -/
def State.firstOf (s : State) (src : CmdSource) : Option (Ctx × List Byte) := s.accepted.find? (fun e => e.1.src = src)

/-- Completions that a ring has still to write: those of the commands it has fetched, but for the ones a reset of the host
interface discards (R394), and those that wait for a snoop (R398). -/
def State.cqOwed (s : State) (r : Fin 4) : Nat :=
  s.accepted.countP (fun e => e.1.src = .ring r) - s.orphans.countP (fun c => c.src = .ring r) +
    s.cqWait.countP (fun w => w.1 = r.val)

/-- The CQ of a ring has room for one completion more than those it has still to write (R405). -/
def State.cqRoom (s : State) (r : Fin 4) : Bool :=
  let n := s.ringEntries r
  (s.get .HOST_CQ_TAIL_INDEX r + n - s.get .HOST_CQ_HEAD_INDEX r) % n + s.cqOwed r < n - 1

/-- Whether a source can send at all: an enabled ring whose CQ has room, outside self-refresh, the mailbox or PCIe while the host link is up,
SMBus while the controller firmware runs (R402, R405, R406, R413, R461). -/
def State.sourceUp (s : State) : CmdSource → Bool
  | .ring r => s.on .HOST_RING_CFG_EN r && s.hostUp && s.cqRoom r && !s.ringAsleep
  | .mailbox => s.hostUp
  | .oobSmbus => s.firmware.isSome
  | .oobPcie => s.hostUp

/-- Whether a command's turn has come: it is the oldest accepted one of its source, or comes straight from a source with
none accepted; no long command of its source is in progress; a serial one also waits for every serial command that was
accepted before it or is in progress (R410; log entry 41). -/
def State.turn (s : State) (c : Ctx) (i : Instr) : Bool :=
  let serial := serialOpcode i.opcode
  let mine := match s.firstOf c.src with
    | none => s.sourceUp c.src
    | some e => e.1 = c && (match decodeDescriptor e.1 e.2 with
      | .ok j => decide (j = i)
      | .error _ => false)
  let ahead := match s.accepted.find? (fun e => serialOpcode (dfield e.2 0 2)) with
    | none => false
    | some e => e.1.src != c.src
  mine && !s.inProgress.any (fun x => x.src = c.src) && !(serial && (ahead || !s.inProgress.isEmpty))

/-- Takes the oldest accepted descriptor of a source off the list. -/
def State.unaccept (s : State) (src : CmdSource) : State :=
  match s.firstOf src with
  | some e => { s with accepted := s.accepted.erase e }
  | none => s

/-- Completes, in their turn, accepted descriptors that no command row executes: an unknown opcode or a bad field. -/
def State.clearBad : Nat → State → State
  | 0, s => s
  | n + 1, s =>
    let bad (e : Ctx × List Byte) : Option Nat :=
      if s.firstOf e.1.src != some e || s.inProgress.any (fun x => x.src = e.1.src) then none
      else match decodeDescriptor e.1 e.2 with
        | .error st => some st
        | .ok _ => none
    match s.accepted.findSome? (fun e => (bad e).map (fun st => (e, st))) with
    | none => s
    | some (e, st) => State.clearBad n ((s.unaccept e.1.src).answer e.1 (dfield e.2 0 2) st 0 0 0 [])

/-- A command completes: its descriptor leaves the list, its completion goes out, and the turn passes on. -/
def State.complete (s : State) (c : Ctx) (op status detail r0 r1 : Nat) (more : List Byte := []) : State :=
  let s := match s.firstOf c.src with
    | some e => if e.1 = c && dfield e.2 0 2 = op then s.unaccept c.src else s
    | none => s
  let s := s.answer c op status detail r0 r1 more
  s.clearBad (s.accepted.length + 1)

/-- A descriptor is accepted. -/
def State.accept (s : State) (src : CmdSource) (d : List Byte) : State :=
  let s : State := { s with accepted := s.accepted ++ [(descCtx src d, d)] }
  s.clearBad (s.accepted.length + 1)

/-! ### Admission -/

/-- FUSE_POLICY in force: the policy fuses once POLICY is locked (R465). -/
def State.policyBit (s : State) (i : Nat) : Bool :=
  if s.shadowBank.lockPolicy then s.shadowBank.policy.getLsbD i
  else if i = 0 then s.on .FUSE_POLICY_OOB_ADMIN else s.on .FUSE_POLICY_DEBUG_SOFT

/-- A command that came straight from its source and is still in progress after its row holds its place there as one that
was fetched does: the mailbox is busy (R406), the endpoint has a command outstanding (R414), the CQ entry is taken
(R405). Its opcode stands for its descriptor. -/
def State.heldOpen (s : State) (c : Ctx) (op : Nat) : State :=
  if !s.inProgress.contains c || (s.firstOf c.src).isSome then s
  else
    let s : State := { s with accepted := s.accepted ++ [(c, leBytes 2 op)] }
    match c.src with
    | .ring _ => s
    | .mailbox => s.put .HOST_MBX_CTRL_BUSY 1
    | .oobSmbus => { s with oobBusy := s.oobBusy ||| 1 }
    | .oobPcie => { s with oobBusy := s.oobBusy ||| 2 }

/-- What an Eloap row does: nothing until its turn has come; status 0x03 until READY (R469), 0x08 for an administrative
command out of band that OOB_ADMIN does not admit (R465); else its own effect. -/
def State.command (s : State) (c : Ctx) (i : Instr) (body : State → State) : Host.Outcome State Fault Refusal :=
  let op := i.opcode
  if !s.turn c i then .next s
  else if !s.on .RES_START_STATE_READY && !(op = 0x0060 || op = 0x0061) then .next (s.complete c op 0x03 0 0 0)
  else if c.src.oob && adminOpcode op && !s.policyBit 0 then .next (s.complete c op 0x08 0 0 0)
  else .next ((body s).heldOpen c op)

end Sys2Proof.Machine
end

