-- ==== Sys2Proof/Machine/Crypto.lean ====
section
/-!
DEFINITION. The two public standards that the spec names for images and firmware: SHA-512, and RSASSA-PSS with RSA-4096,
SHA-512, MGF1 with SHA-512 and a salt of 64 bytes (R363, R365; log entry 36).
-/
namespace Sys2Proof.Machine

/-! ### SHA-512 -/

/-- The numbers of SHA-512 are the first bits of roots of primes; eight words of 64 bits stand in one numeral, the first
highest. -/
def words64 (n v : Nat) : List (BitVec 64) := (List.range n).map (fun i => BitVec.ofNat 64 (v / 2 ^ (64 * (n - 1 - i))))

/-- The constants of rounds 0 to 39: cube roots. -/
def shaLow : List (BitVec 64) :=
  words64 8 0x428a2f98d728ae227137449123ef65cdb5c0fbcfec4d3b2fe9b5dba58189dbbc3956c25bf348b53859f111f1b605d019923f82a4af194f9bab1c5ed5da6d8118 ++
  words64 8 0xd807aa98a303024212835b0145706fbe243185be4ee4b28c550c7dc3d5ffb4e272be5d74f27b896f80deb1fe3b1696b19bdc06a725c71235c19bf174cf692694 ++
  words64 8 0xe49b69c19ef14ad2efbe4786384f25e30fc19dc68b8cd5b5240ca1cc77ac9c652de92c6f592b02754a7484aa6ea6e4835cb0a9dcbd41fbd476f988da831153b5 ++
  words64 8 0x983e5152ee66dfaba831c66d2db43210b00327c898fb213fbf597fc7beef0ee4c6e00bf33da88fc2d5a79147930aa72506ca6351e003826f142929670a0e6e70 ++
  words64 8 0x27b70a8546d22ffc2e1b21385c26c9264d2c6dfc5ac42aed53380d139d95b3df650a73548baf63de766a0abb3c77b2a881c2c92e47edaee692722c851482353b

/-- The constants of rounds 40 to 79. -/
def shaHigh : List (BitVec 64) :=
  words64 8 0xa2bfe8a14cf10364a81a664bbc423001c24b8b70d0f89791c76c51a30654be30d192e819d6ef5218d69906245565a910f40e35855771202a106aa07032bbd1b8 ++
  words64 8 0x19a4c116b8d2d0c81e376c085141ab532748774cdf8eeb9934b0bcb5e19b48a8391c0cb3c5c95a634ed8aa4ae3418acb5b9cca4f7763e373682e6ff3d6b2b8a3 ++
  words64 8 0x748f82ee5defb2fc78a5636f43172f6084c87814a1f0ab728cc702081a6439ec90befffa23631e28a4506cebde82bde9bef9a3f7b2c67915c67178f2e372532b ++
  words64 8 0xca273eceea26619cd186b8c721c0c207eada7dd6cde0eb1ef57d4f7fee6ed17806f067aa72176fba0a637dc5a2c898a6113f9804bef90dae1b710b35131c471b ++
  words64 8 0x28db77f523047d8432caab7b40c724933c9ebe0a15c9bebc431d67c49c100d4c4cc5d4becb3e42b6597f299cfc657e2a5fcb6fab3ad6faec6c44198c4a475817

/-- The chaining value that a hash starts from: square roots. -/
def shaStart : List (BitVec 64) :=
  words64 8 0x6a09e667f3bcc908bb67ae8584caa73b3c6ef372fe94f82ba54ff53a5f1d36f1510e527fade682d19b05688c2b3e6c1f1f83d9abfb41bd6b5be0cd19137e2179

/-- A word turned right by each of some amounts, all added bit by bit. -/
def turned (w : BitVec 64) (by' : List Nat) : BitVec 64 := by'.foldl (fun x r => x ^^^ w.rotateRight r) 0

/-- One round on the eight working words, of which word 7 leaves, with the constant and the schedule word in `add`. -/
def shaRound (v : List (BitVec 64)) (add : BitVec 64) : List (BitVec 64) :=
  let at' (i : Nat) : BitVec 64 := v.getD i 0
  let choice := at' 6 ^^^ (at' 4 &&& (at' 5 ^^^ at' 6))
  let most := (at' 0 &&& (at' 1 ||| at' 2)) ||| (at' 1 &&& at' 2)
  let new := add + at' 7 + choice + turned (at' 4) [14, 18, 41]
  (new + most + turned (at' 0) [28, 34, 39]) :: (v.take 7).set 3 (at' 3 + new)

/-- The sixteen schedule words move on by one. -/
def shaNext (w : List (BitVec 64)) : List (BitVec 64) :=
  let near := w.getD 1 0
  let far := w.getD 14 0
  w.tail ++ [w.getD 0 0 + w.getD 9 0 + (turned near [1, 8] ^^^ near >>> 7) + (turned far [19, 61] ^^^ far >>> 6)]

/-- The rounds that a list of constants stands for, on the working words and the schedule. -/
def shaRounds : List (BitVec 64) → List (BitVec 64) → List (BitVec 64) → List (BitVec 64)
  | [], v, _ => v
  | k :: ks, v, w => shaRounds ks (shaRound v (k + w.headD 0)) (shaNext w)

/-- The number that big-endian bytes spell. -/
def beNat (bs : List Byte) : Nat := bs.foldl (fun n b => n * 256 + b.toNat) 0

/-- The n big-endian bytes of a number. -/
def beBytes (n v : Nat) : List Byte := (leBytes n v).reverse

/-- The chaining value after one more block of 128 bytes. -/
def shaBlock (v : List (BitVec 64)) (bs : List Byte) : List (BitVec 64) :=
  List.zipWith (· + ·) v (shaRounds (shaLow ++ shaHigh) v (words64 16 (beNat bs)))

/-- The message cut into blocks of 128 bytes, n of them. -/
def shaBlocks : Nat → List (BitVec 64) → List Byte → List (BitVec 64)
  | 0, v, _ => v
  | n + 1, v, bs => shaBlocks n (shaBlock v (bs.take 128)) (bs.drop 128)

/-- The 64 bytes of SHA-512: the message, a one bit, zeros, and the message's length in bits as 16 bytes. -/
def sha512 (bs : List Byte) : List Byte :=
  let n := bs.length / 128 + if bs.length % 128 < 112 then 1 else 2
  let tail := List.replicate (128 * n - 17 - bs.length) 0 ++ beBytes 16 (8 * bs.length)
  (shaBlocks n shaStart (bs ++ 0x80 :: tail)).flatMap (fun w => beBytes 8 w.toNat)

/-- The digest as the model holds it: byte i in bits 8i to 8i + 7 (IMG_DIGEST, R391). -/
def digest (bs : List Byte) : BitVec 512 := BitVec.ofNat 512 (leNat (sha512 bs))

/-! ### RSASSA-PSS -/

/-- x to the power 2^k mod n. -/
def powTwo : Nat → Nat → Nat → Nat
  | 0, _, x => x
  | k + 1, n, x => powTwo k n (x * x % n)

/-- x^65537 mod n. -/
def rsaPublic (n x : Nat) : Nat := powTwo 16 n x * x % n

/-- MGF1 with SHA-512: n bytes from a seed. -/
def mgf1 (seed : List Byte) (n : Nat) : List Byte :=
  (((List.range ((n + 63) / 64)).flatMap (fun i => sha512 (seed ++ beBytes 4 i)))).take n

/-- Whether a 512-byte signature of a message verifies under a 4,096-bit modulus and the exponent 65,537. -/
def pssVerify (modulus signature message : List Byte) : Bool :=
  let n := beNat modulus
  let s := beNat signature
  if n < 2 ^ 4095 || n ≤ s then false
  else
    let em := beBytes 512 (rsaPublic n s)
    let masked := em.take 447
    let h := (em.drop 447).take 64
    let db := (masked.zip (mgf1 h 447)).map (fun x => x.1 ^^^ x.2)
    let db := (db.headD 0 &&& 0x7F) :: db.drop 1
    em.getLast? = some 0xBC && masked.headD 0 &&& 0x80 = 0 && db.take 382 = List.replicate 382 0 &&
      db.getD 382 0 = 1 && h = sha512 (List.replicate 8 0 ++ (sha512 message ++ db.drop 383))

end Sys2Proof.Machine
end

