-- ==== Sys2Proof/Machine/ImageParse.lean ====
section
/-!
DEFINITION. The layout image from its bytes (R363 to R372): the header's checks, and stages 4 and 5 of Table 9, which
split the body into sections and records and judge every record's fields.
-/
namespace Sys2Proof.Machine

/-- Why an image is rejected: code of Table 10, IMG_ITEM.SECTION and IMG_ITEM.RECORD (R378). -/
abbrev Reject := Nat × Nat × Nat

/-- Goes on, or rejects. -/
def demand (ok : Bool) (r : Reject) : Except Reject Unit := if ok then .ok () else .error r

/-! ### The header (R364; stage 1) -/

/-- The header's fields, the signature and the signer key (Tables 1 and 2). -/
structure Header where
  magic : Nat
  major : Nat
  minor : Nat
  part : Nat
  variants : Nat
  kind : Nat
  signer : Nat
  arb : Nat
  length : Nat
  sections : Nat
  digest : BitVec 512
  baseDigest : BitVec 512
  /-- a reserved byte of the header or after the key is not zero -/
  dirty : Bool
  raw : List Byte
  signature : List Byte
  modulus : List Byte
  exponent : Nat
deriving DecidableEq, Repr

/-- n bytes from an offset on, as a number. -/
def fieldAt (bs : List Byte) (off n : Nat) : Nat := leNat ((bs.drop off).take n)

/-- The header of 0x700 staged bytes. -/
def parseHeader (bs : List Byte) : Header where
  magic := fieldAt bs 0 4
  major := fieldAt bs 4 2
  minor := fieldAt bs 6 2
  part := fieldAt bs 8 4
  variants := fieldAt bs 0xC 1
  kind := fieldAt bs 0xD 1
  signer := fieldAt bs 0xE 1
  arb := fieldAt bs 0xF 1
  length := fieldAt bs 0x10 8
  sections := fieldAt bs 0x18 2
  digest := BitVec.ofNat 512 (fieldAt bs 0x40 64)
  baseDigest := BitVec.ofNat 512 (fieldAt bs 0x80 64)
  dirty := fieldAt bs 0x1A 6 != 0 || fieldAt bs 0xC0 64 != 0 || fieldAt bs 0x504 508 != 0
  raw := bs.take 256
  signature := (bs.drop 0x100).take 512
  modulus := (bs.drop 0x300).take 512
  exponent := fieldAt bs 0x500 4

/-- The header of a file of the layout of R363 that is no image, with its own MAGIC: format, part and variants as R364 has
them, KIND and BASE_DIGEST zero, nothing reserved set. -/
def Header.plain (h : Header) (magic variant : Nat) : Bool :=
  h.magic = magic && h.major = 1 && h.minor = 0 && h.part = 0x40 && h.variants.testBit variant && h.variants < 16 &&
    h.kind = 0 && !h.dirty && h.baseDigest = 0 && h.length % 16 = 0 && h.length ≤ 0x100000000

/-- Stage 1 for an image of a kind staged at an address, with capacity `cap` in bytes and the fitted variant. -/
def Header.check (h : Header) (kind variant addr cap : Nat) : Except Reject Unit := do
  demand (h.magic = 0x444E4C50) (0x01, 0, 0)
  demand (h.major = 1 && h.minor = 0) (0x02, 0, 0)
  demand (h.part = 0x40 && h.variants.testBit variant) (0x03, 0, 0)
  demand (h.kind = kind && h.variants < 16 && !h.dirty && (kind = 1 || h.baseDigest = 0)) (0x0A, 0, 0)
  demand (h.length % 16 = 0 && 0x700 + 16 * h.sections ≤ h.length && h.length ≤ 0x100000000 &&
    1 ≤ h.sections && h.sections ≤ 12) (0x04, 0, 0)
  demand (addr + h.length ≤ cap) (0x33, 15, 0)

/-! ### Sections and records (R366; stage 4) -/

/-- A record as its bytes spell it: the number of its fixed part, and the bytes that follow it. -/
structure RawRec where
  word : Nat
  data : List Byte
deriving DecidableEq, Repr

/-- A section: TYPE, its header's number, its records. -/
structure RawSec where
  type : Nat
  head : Nat
  recs : List RawRec
deriving DecidableEq, Repr

/-- Bytes of a section's first record, where it has a module or header record (Table 3). -/
def firstSize (t : Nat) : Option Nat :=
  if t = 1 || t = 8 then some 64 else if t = 10 || t = 12 then some 128 else none

/-- Bytes of the fixed part of a section's other records. -/
def restSize (t : Nat) : Nat := if t = 2 || t = 7 || t = 9 then 32 else 16

/-- Bytes that follow a record's fixed part: bundles, or data padded to 16 bytes. -/
def tailSize (t w : Nat) : Nat :=
  if t = 6 then bits w 17 13 * 16 else if t = 7 then (bits w 128 64 + 15) / 16 * 16 else 0

/-- n bytes, if there are as many. -/
def takeAll (n : Nat) (bs : List Byte) : Option (List Byte) :=
  if (bs.take n).length = n then some (bs.take n) else none

/-- n records of a section from record i on; what is left must be zeros. -/
def splitRecs (t : Nat) : Nat → Nat → List Byte → Except Reject (List RawRec)
  | 0, i, bs => do
    demand (bs.all (· = 0)) (0x09, t, i)
    return []
  | n + 1, i, bs => do
    let size := if i = 0 then (firstSize t).getD (restSize t) else restSize t
    let some fixed := takeAll size bs | .error (0x09, t, i)
    let w := leNat fixed
    let more := if i = 0 && (firstSize t).isSome then 0 else tailSize t w
    let some data := takeAll more (bs.drop size) | .error (0x09, t, i)
    let rest ← splitRecs t n (i + 1) (bs.drop (size + more))
    return ⟨w, data⟩ :: rest

/-- Whether a section may have a number of records. -/
def countOk (kind t n : Nat) : Bool :=
  if t = 1 then (if kind = 0 then n = 401 else 1 ≤ n)
  else if t = 8 then 1 ≤ n
  else if t = 10 then 1 ≤ n && n ≤ 17
  else if t = 12 then 1 ≤ n && n ≤ 9
  else true

/-- The sections of a body, as many as its header names and nothing after them (R366), in ascending TYPE above `last`. -/
def splitSecs (kind : Nat) : Nat → Nat → List Byte → Except Reject (List RawSec)
  | 0, _, bs => do
    demand bs.isEmpty (0x04, 0, 0)
    return []
  | more + 1, last, bs =>
    if bs.isEmpty then .ok []
    else do
      let w := leNat (bs.take 16)
      let t := bits w 0 8
      let len := bits w 32 32
      let n := bits w 64 32
      let sec := if t ≤ 12 then t else 0
      demand (last < t && t ≤ 12 && (kind = 0 || t < 8)) (0x09, sec, 0)
      let some body := takeAll len bs | .error (0x09, sec, 0)
      demand (16 ≤ len && len % 16 = 0 && countOk kind t n) (0x09, sec, 0)
      let recs ← splitRecs t n 0 (body.drop 16)
      let rest ← splitSecs kind more t (bs.drop len)
      return ⟨t, w, recs⟩ :: rest

/-- Stage 4: order, presence and lengths. -/
def sections (kind count : Nat) (body : List Byte) : Except Reject (List RawSec) := do
  let secs ← splitSecs kind count 0 body
  demand (secs.length = count) (0x04, 0, 0)
  let need := if kind = 0 then [1, 2, 3, 4, 5, 6, 7, 8, 9] else [1]
  match need.find? (fun t => !secs.any (·.type = t)) with
  | some t => .error (0x09, t, 0)
  | none => .ok secs

/-! ### Records (R367 to R372; stage 5) -/

/-- Every bit outside the fields given as (low bit, width) is zero. -/
def clean (fs : List (Nat × Nat)) (w : Nat) : Bool := w = (fs.map (fun f => bits w f.1 f.2 * 2 ^ f.1)).sum

def crefAt (w lo : Nat) : Cref := ⟨bits w lo 6, bits w (lo + 6) 6, bits w (lo + 12) 5⟩
def rrefAt (w lo : Nat) : Rref := ⟨bits w lo 9, bits w (lo + 9) 7⟩

/-- A core reference in range; 16 is judged apart (R48). -/
def Cref.ok (c : Cref) : Bool := c.tile < 40 && c.cluster < 40 && c.core ≤ 16

/-- A router reference names a grid position (R36, R366). -/
def Rref.ok (r : Rref) : Bool := r.x < 320 && r.y < 96 && posExists r.x r.y

/-- The checks of one record in the order of Table 9: ranges and reserved bits, a core field of 16, a watchdog or hold
limit of 0. -/
def judge (t i : Nat) (fs : List (Nat × Nat)) (w : Nat) (cs : List Cref) (rs : List Rref) (range timed : Bool) :
    Except Reject Unit := do
  demand (clean fs w && cs.all Cref.ok && rs.all Rref.ok && range) (0x0A, t, i)
  demand (cs.all (fun c => c.core != 16)) (0x13, t, i)
  demand timed (0x24, t, i)

/-- A ROUTES record. -/
inductive RouteItem where
  | route (r : RouteRec)
  | entry (r : EntryRec)
  | remote (r : RemoteRec)
  | receive (r : RxRec)
  | port (r : PortRec)
deriving DecidableEq, Repr

/-- An MCAST_TREES record. -/
inductive TreeItem where
  | tree (r : TreeRec)
  | fork (r : ForkRec)
deriving DecidableEq, Repr

/-- A BARRIERS record. -/
inductive BarItem where
  | barrier (r : BarrierRec)
  | member (r : MemberRec)
  | node (r : NodeRec)
deriving DecidableEq, Repr

/-- A REGION_MAP region record (Table 4). -/
def regionRec (i : Nat) (w : Nat) : Except Reject RegionRec := do
  judge 1 i [(0, 25), (32, 14), (48, 14), (64, 14), (80, 14)] w [] [] (bits w 0 9 < 400 && bits w 11 2 != 3) true
  return {
    region := bits w 0 9
    state := bits w 9 2
    role := bits w 11 2
    stagger := bits w 13 4
    startSlot := bits w 17 8
    stackedTop := [bits w 32 14, bits w 48 14, bits w 64 14, bits w 80 14] }

/-- A remote-target entry from its 128 bits (Table 5 of "Optical Ports"). -/
def remoteEntry (e : Nat) : RemoteTarget where
  localBase := bits e 0 48
  length := bits e 48 16
  vc := bits e 64 2
  route := bits e 66 8
  farRoute := bits e 74 8
  egress := bits e 82 2
  tag := bits e 84 12

/-- A receive-table entry from its 192 bits (Table 6 of "Optical Ports"). -/
def rxEntry (e : Nat) : RxEntry where
  base := bits e 0 48
  glazeBase := bits e 48 48
  length := bits e 96 16
  vc := bits e 112 2
  forward := e.testBit 114
  route := bits e 115 8
  nextFarRoute := bits e 123 8
  egress := bits e 131 2

/-- A ROUTES record (Table 5). -/
def routeItem (i w : Nat) : Except Reject RouteItem :=
  match bits w 0 8 with
  | 1 => do
    judge 2 i [(0, 37)] w [] [rrefAt w 8] (bits w 34 3 ≤ 6) true
    return .route ⟨rrefAt w 8, bits w 24 8, bits w 32 2, bits w 34 3⟩
  | 2 => do
    judge 2 i [(0, 41)] w [crefAt w 8] [rrefAt w 25] true true
    return .entry ⟨crefAt w 8, rrefAt w 25⟩
  | 3 => do
    let e := remoteEntry (bits w 128 128)
    judge 2 i [(0, 29), (128, 96)] w [crefAt w 8] []
      (e.vc != 3 && e.egress != 3 && (e.egress = 0 || e.vc = 1) && e.localBase % 2048 = 0) true
    return .remote ⟨crefAt w 8, bits w 25 4, e⟩
  | 4 => do
    let e := rxEntry (bits w 64 192)
    judge 2 i [(0, 24), (64, 133)] w [] []
      (bits w 8 8 < 160 && e.vc != 3 && e.egress != 3 && e.base % 64 = 0) true
    return .receive ⟨bits w 8 8, bits w 16 8, e⟩
  | 5 => do
    judge 2 i [(0, 39)] w [] [] (bits w 8 8 < 160 && bits w 31 6 < 40) true
    return .port ⟨bits w 8 8, w.testBit 16, bits w 17 14, bits w 31 6, bits w 37 2⟩
  | _ => .error (0x0A, 2, i)

/-- A VC_TABLES record. -/
def sourceRec (i w : Nat) : Except Reject SourceRec := do
  let k := bits w 19 2
  let top := if k = 0 then 1599 else if k = 1 then 17 else if k = 2 then 159 else 0
  judge 3 i [(0, 48)] w [crefAt w 0] [] (bits w 17 2 != 0 && bits w 21 11 ≤ top) true
  return ⟨crefAt w 0, bits w 17 2, k, bits w 21 11, bits w 32 8, bits w 40 8⟩

/-- An MCAST_TREES record (Table 6). -/
def treeItem (i w : Nat) : Except Reject TreeItem :=
  match bits w 0 8 with
  | 1 => do
    judge 4 i [(0, 49)] w [crefAt w 16] [] true (bits w 33 16 != 0)
    return .tree ⟨bits w 8 8, crefAt w 16, bits w 33 16⟩
  | 2 => do
    judge 4 i [(0, 38)] w [] [rrefAt w 16] true true
    return .fork ⟨bits w 8 8, rrefAt w 16, bits w 32 6⟩
  | _ => .error (0x0A, 4, i)

/-- A BARRIERS record (Table 6). -/
def barItem (i w : Nat) : Except Reject BarItem :=
  let id := bits w 8 8
  let sys := w.testBit 16
  let idOk : Bool := !sys || id < 64
  match bits w 0 8 with
  | 1 => do
    judge 5 i [(0, 49)] w [] [rrefAt w 17] idOk (bits w 33 16 != 0)
    return .barrier ⟨id, sys, rrefAt w 17, bits w 33 16⟩
  | 2 => do
    judge 5 i [(0, 35)] w [crefAt w 17] [] idOk true
    return .member ⟨id, sys, crefAt w 17, w.testBit 34⟩
  | 3 => do
    judge 5 i [(0, 50)] w [] [rrefAt w 17] (idOk && bits w 40 3 ≤ 6) true
    return .node ⟨id, sys, rrefAt w 17, bits w 33 7, bits w 40 3, bits w 43 7⟩
  | _ => .error (0x0A, 5, i)

/-- 16-byte bundles of a list of bytes. -/
def bundlesOf : Nat → List Byte → List (BitVec 128)
  | 0, _ => []
  | n + 1, bs => BitVec.ofNat 128 (leNat (bs.take 16)) :: bundlesOf n (bs.drop 16)

/-- A PROGRAMS core block (Table 7). -/
def programRec (i : Nat) (r : RawRec) : Except Reject ProgramRec := do
  let n := bits r.word 17 13
  judge 6 i [(0, 45)] r.word [crefAt r.word 0] [] (1 ≤ n && n ≤ 4096) true
  return ⟨crefAt r.word 0, bits r.word 30 15, bundlesOf n r.data⟩

/-- Alignment of a PRELOAD block's LENGTH by TARGET. -/
def preloadUnit (t : Nat) : Nat := if t ≤ 1 then 32 else if t = 4 then 64 else 8

/-- A PRELOAD block (Table 7). -/
def preloadRec (i : Nat) (r : RawRec) : Except Reject PreloadRec := do
  let t := bits r.word 0 4
  let c := crefAt r.word 4
  let a := bits r.word 64 64
  let n := bits r.word 128 64
  judge 7 i [(0, 21), (64, 128)] r.word [c] [] (t ≤ 4 && n % preloadUnit t = 0 && (t ≤ 1 || a % preloadUnit t = 0) &&
    (t != 3 || c.core = 0) && (t != 4 || c = ⟨0, 0, 0⟩) && (r.data.drop n).all (· = 0)) true
  return ⟨t, c, a, r.data.take n⟩

/-- The NUMERICS module record (Table 7). -/
def numericsRec (w : Nat) : Except Reject NumericsRec := do
  judge 8 0 [(0, 100)] w [] [] true true
  return {
    nanMode := w.testBit 0
    lsEn := w.testBit 1
    initExp := bits w 2 5
    cleanSteps := bits w 7 16
    skipLimit := bits w 23 8
    monStop := w.testBit 31
    area := bits w 32 48
    page := bits w 80 20 }

/-- A NUMERICS FTZ record. -/
def ftzRec (i w : Nat) : Except Reject Cref := do
  judge 8 i [(0, 17)] w [crefAt w 0] [] true true
  return crefAt w 0

/-- A LAYER_TAGS record (Table 7). -/
def tagRec (i w : Nat) : Except Reject TagRec := do
  let lo := signed (bits w 20 8) 8
  let hi := signed (bits w 28 8) 8
  judge 9 i [(0, 36), (64, 96)] w [] [] (-64 ≤ lo && hi ≤ 63) true
  return {
    tag := bits w 0 12
    update := w.testBit 12
    expEn := w.testBit 13
    monEn := w.testBit 14
    mode := w.testBit 15
    f := bits w 16 4
    sMin := lo
    sMax := hi
    raise := bits w 64 32
    lo := BitVec.ofNat 32 (bits w 96 32)
    hi := BitVec.ofNat 32 (bits w 128 32) }

/-- The STEP_PLAN header (Table 8); its entries are added by `stepEntry`. -/
def stepHeader (w : Nat) : Except Reject StepPlan := do
  judge 10 0 [(0, 10), (32, 57), (128, 17), (160, 17), (192, 17), (224, 17)] w [] [] true true
  return {
    u := bits w 0 9
    overlap := w.testBit 9
    gate := bits w 32 8
    fwdEnd := bits w 40 8
    bwdEnd := bits w 48 8
    egressEnd := bits w 56 8
    reduceEnd := bits w 64 8
    updateEnd := bits w 72 8
    swapEnd := bits w 80 8
    egressValid := w.testBit 88
    drains := (List.range 4).map (fun d => ⟨bits w (128 + 32 * d) 8, bits w (136 + 32 * d) 8, w.testBit (144 + 32 * d)⟩)
    entries := [] }

/-- A step-table entry (Table 3 of "The Training Step"). -/
def stepEntry (i w : Nat) : Except Reject StepEntry := do
  judge 10 i [(0, 2), (8, 116)] w [] [] true true
  return ⟨bits w 0 2, bits w 8 36, bits w 44 36, bits w 80 28, bits w 108 8, bits w 116 8⟩

/-- A SLACK record. -/
def slackRec (i w : Nat) : Except Reject SlackRec := do
  judge 11 i [(0, 9), (16, 9), (32, 64)] w [] []
    ((!w.testBit 8 || bits w 0 8 < 64) && (!w.testBit 24 || bits w 16 8 < 64)) true
  return ⟨bits w 0 8, w.testBit 8, bits w 16 8, w.testBit 24, bits w 32 32, bits w 64 32⟩

/-- The TENDER header (Table 8). -/
def tenderHeader (w : Nat) : Except Reject Tender := do
  judge 12 0 [(0, 14), (32, 80)] w [] [] true true
  return {
    mode := bits w 0 2
    k := bits w 2 9
    b := bits w 11 3
    vocab := bits w 32 32
    temp := BitVec.ofNat 32 (bits w 64 32)
    ready := bits w 96 8
    free := bits w 104 8
    frozen := [] }

/-- The records of a list, judged in file order from record i on. -/
def recsFrom {α : Type} (f : Nat → RawRec → Except Reject α) : Nat → List RawRec → Except Reject (List α)
  | _, [] => .ok []
  | i, r :: rs => do
    let x ← f i r
    let xs ← recsFrom f (i + 1) rs
    return x :: xs

/-- An image in file order: the sections of several record kinds keep their records as they came. -/
structure Parsed where
  im : Image
  routeItems : List RouteItem
  treeItems : List TreeItem
  barItems : List BarItem
deriving DecidableEq, Repr

/-- An image with no record. -/
def Image.blank (h : Header) : Image where
  kind := h.kind
  signer := h.signer
  arb := h.arb
  length := h.length
  digest := h.digest
  baseDigest := h.baseDigest
  ringTop := 0
  plannedW := 0
  partnerId := 0
  partnerValid := false
  regions := []
  routes := []
  entries := []
  remotes := []
  receives := []
  ports := []
  sources := []
  trees := []
  forks := []
  barriers := []
  members := []
  nodes := []
  programs := []
  preloads := []
  numerics := ⟨false, false, 0, 0, 0, false, 0, 0⟩
  ftz := []
  tags := []
  stepPlan := none
  slack := []
  tender := none

/-- The image's lists by kind from its records in file order. -/
def Parsed.sorted (p : Parsed) : Parsed :=
  { p with im := { p.im with
      routes := p.routeItems.filterMap (fun x => match x with
        | .route r => some r
        | _ => none)
      entries := p.routeItems.filterMap (fun x => match x with
        | .entry r => some r
        | _ => none)
      remotes := p.routeItems.filterMap (fun x => match x with
        | .remote r => some r
        | _ => none)
      receives := p.routeItems.filterMap (fun x => match x with
        | .receive r => some r
        | _ => none)
      ports := p.routeItems.filterMap (fun x => match x with
        | .port r => some r
        | _ => none)
      trees := p.treeItems.filterMap (fun x => match x with
        | .tree r => some r
        | _ => none)
      forks := p.treeItems.filterMap (fun x => match x with
        | .fork r => some r
        | _ => none)
      barriers := p.barItems.filterMap (fun x => match x with
        | .barrier r => some r
        | _ => none)
      members := p.barItems.filterMap (fun x => match x with
        | .member r => some r
        | _ => none)
      nodes := p.barItems.filterMap (fun x => match x with
        | .node r => some r
        | _ => none) } }

/-- An image's records as if in file order, kind by kind: the whole image that a region patch makes (log entry 37). -/
def Image.parsed (im : Image) : Parsed where
  im := im
  routeItems := im.routes.map .route ++ (im.entries.map .entry ++ (im.remotes.map .remote ++
    (im.receives.map .receive ++ im.ports.map .port)))
  treeItems := im.trees.map .tree ++ im.forks.map .fork
  barItems := im.barriers.map .barrier ++ (im.members.map .member ++ im.nodes.map .node)

/-- One section's records join the image. -/
def Parsed.section (p : Parsed) (s : RawSec) : Except Reject Parsed := do
  demand (clean [(0, 8), (32, 64)] s.head) (0x0A, s.type, 0)
  let first := (s.recs.head?.map (·.word)).getD 0
  let rest := s.recs.drop 1
  let word {α : Type} (f : Nat → Nat → Except Reject α) : Nat → RawRec → Except Reject α := fun i r => f i r.word
  match s.type with
  | 1 => do
    judge 1 0 [(0, 63)] first [] [] (p.im.kind = 0 || first = 0) true
    let rs ← recsFrom (word regionRec) 1 rest
    return { p with im := { p.im with
      ringTop := bits first 0 32 * 4096
      plannedW := bits first 32 16
      partnerId := bits first 48 14
      partnerValid := first.testBit 62
      regions := rs } }
  | 2 => do
    let rs ← recsFrom (word routeItem) 0 s.recs
    return { p with routeItems := rs }
  | 3 => do
    let rs ← recsFrom (word sourceRec) 0 s.recs
    return { p with im := { p.im with sources := rs } }
  | 4 => do
    let rs ← recsFrom (word treeItem) 0 s.recs
    return { p with treeItems := rs }
  | 5 => do
    let rs ← recsFrom (word barItem) 0 s.recs
    return { p with barItems := rs }
  | 6 => do
    let rs ← recsFrom programRec 0 s.recs
    return { p with im := { p.im with programs := rs } }
  | 7 => do
    let rs ← recsFrom preloadRec 0 s.recs
    return { p with im := { p.im with preloads := rs } }
  | 8 => do
    let m ← numericsRec first
    let rs ← recsFrom (word ftzRec) 1 rest
    return { p with im := { p.im with numerics := m, ftz := rs } }
  | 9 => do
    let rs ← recsFrom (word tagRec) 0 s.recs
    return { p with im := { p.im with tags := rs } }
  | 10 => do
    let h ← stepHeader first
    let rs ← recsFrom (word stepEntry) 1 rest
    return { p with im := { p.im with stepPlan := some { h with entries := rs } } }
  | 11 => do
    let rs ← recsFrom (word slackRec) 0 s.recs
    return { p with im := { p.im with slack := rs } }
  | _ => do
    let h ← tenderHeader first
    return { p with im := { p.im with tender := some { h with
      frozen := rest.map (fun r => (bits r.word 0 64, bits r.word 64 64)) } } }

/-- Every section's records, in ascending TYPE. -/
def Parsed.sections : Parsed → List RawSec → Except Reject Parsed
  | p, [] => .ok p
  | p, s :: ss => do
    let q ← p.section s
    q.sections ss

/-- Stages 4 and 5 of a body. -/
def parseBody (h : Header) (body : List Byte) : Except Reject Parsed := do
  let secs ← sections h.kind h.sections body
  let p ← Parsed.sections ⟨.blank h, [], [], []⟩ secs
  return p.sorted

end Sys2Proof.Machine
end

