-- ==== Sys2Proof/Machine/LoadChecks.lean ====
section
/-!
DEFINITION. Stages 6 to 8 of the load checks (Table 9 of "The Layout Image and Transactions"): resources, the defect map
and ports, timing and deadlock. A check answers the failing section and record, none where it passes.
-/
namespace Sys2Proof.Machine

/-- Where a check fails: IMG_ITEM.SECTION and RECORD. -/
abbrev Spot := Option (Nat × Nat)

/-- The first record of a section, counted from i, that is bad. -/
def spotIn {α : Type} (sec i : Nat) (xs : List α) (bad : α → Bool) : Spot := (xs.findIdx? bad).map (fun n => (sec, n + i))

/-- The earlier of two spots, in ascending TYPE and file order. -/
def spotMin (a b : Spot) : Spot :=
  match a, b with
  | some x, some y => if x.1 < y.1 || (x.1 = y.1 && x.2 ≤ y.2) then a else b
  | none, _ => b
  | _, none => a

/-- The earliest of several spots. -/
def spotFirst (xs : List Spot) : Spot := xs.foldl spotMin none

/-- The first code whose check fails. -/
def firstCode (xs : List (Nat × Spot)) : Option Reject := xs.findSome? (fun x => x.2.map (fun p => (x.1, p.1, p.2)))

/-- Two ranges given as (start, length) share a unit; an empty one shares none. -/
def overlaps (a b : Nat × Nat) : Bool := a.2 != 0 && b.2 != 0 && a.1 < b.1 + b.2 && b.1 < a.1 + a.2

/-! ### What the records name -/

def RegionRec.run (r : RegionRec) : Bool := r.state = 3

/-- The STATE an image gives a region. -/
def Image.stateOf (im : Image) (reg : Nat) : Nat := ((im.regions.find? (·.region = reg)).map (·.state)).getD 0

/-- The ROLE an image gives a region. -/
def Image.roleOf (im : Image) (reg : Nat) : Nat := ((im.regions.find? (·.region = reg)).map (·.role)).getD 0

/-- The number of a core reference's cluster and region. -/
def Cref.clusterNo (c : Cref) : Nat := Machine.clusterNo c.tile c.cluster
def Cref.region (c : Cref) : Nat := clusterRegion c.clusterNo

/-- The router of a reference. -/
def Rref.router (r : Rref) : Nat := gridRouter r.x r.y

/-- A cluster's number q within its region, as debug pages count (R368). -/
def clusterQuad (c : Nat) : Nat := c % 40 / 10 % 2 * 2 + c % 40 % 10 % 2

/-- The stacked-SRAM allocation of a cluster in bytes (R368). -/
def Image.stackedBytes (im : Image) (c : Nat) : Nat :=
  match im.regions.find? (·.region = clusterRegion c) with
  | some r => r.stackedTop.getD (clusterQuad c) 0 * 4096
  | none => 0

/-- The block of a core in PROGRAMS. -/
def Image.block (im : Image) (c : Cref) : Option ProgramRec := im.programs.find? (·.core = c)

/-- A barrier is defined. -/
def Image.hasBarrier (im : Image) (sys : Bool) (id : Nat) : Bool := im.barriers.any (fun b => b.sys = sys && b.id = id)

/-- Every used core is a posting member of a wafer barrier. -/
def Image.allPost (im : Image) (id : Nat) : Bool :=
  im.programs.all (fun p => im.members.any (fun m => !m.sys && m.id = id && m.core = p.core && !m.waitOnly))

/-! ### Stage 6: table capacities and duplicates (0x1D) -/

/-- A key that two records of a table may not share, and the table it fills. -/
abbrev TableKey := Nat × Nat × Nat

/-- The first record that shares its key with a later one. -/
def firstTwin : Nat → List (Option TableKey) → Option Nat
  | _, [] => none
  | i, k :: ks => if k.isSome && ks.contains k then some i else firstTwin (i + 1) ks

/-- The first record of a table that holds more than its entries. -/
def firstCrowd (limit : Nat) (ks : List (Option Nat)) : Option Nat :=
  ks.findIdx? (fun k => k.isSome && decide (limit < ks.count k))

/-- The spot of the duplicates and full tables of one section. -/
def crowdSpot (sec limit : Nat) (twins : List (Option TableKey)) (tables : List (Option Nat)) : Spot :=
  spotMin ((firstTwin 0 twins).map (fun i => (sec, i))) ((firstCrowd limit tables).map (fun i => (sec, i)))

/-- A core reference as a number. -/
def Cref.no (c : Cref) : Nat := coreNo c.tile c.cluster c.core

def RouteItem.key : RouteItem → Option TableKey
  | .route r => some (1, r.at'.router, r.route * 4 + r.vc)
  | .entry r => some (2, r.core.no, 0)
  | .remote r => some (3, r.core.no, r.index)
  | .receive r => some (4, r.port, r.index)
  | .port r => some (5, r.port, 0)

def RouteItem.table : RouteItem → Option Nat
  | .route r => some r.at'.router
  | _ => none

def TreeItem.key : TreeItem → Option TableKey
  | .tree r => some (1, r.tree, 0)
  | .fork r => some (2, r.at'.router, r.tree)

def TreeItem.table : TreeItem → Option Nat
  | .fork r => some r.at'.router
  | .tree _ => none

/-- A barrier's number: its ID, 256 more for a system barrier. -/
def barKey (sys : Bool) (id : Nat) : Nat := id + if sys then 256 else 0

def BarItem.key : BarItem → Option TableKey
  | .barrier r => some (1, barKey r.sys r.id, 0)
  | .member r => some (2, barKey r.sys r.id, r.core.no)
  | .node r => some (3, barKey r.sys r.id, r.at'.router)

def BarItem.table : BarItem → Option Nat
  | .node r => some r.at'.router
  | _ => none

/-- Capacities and duplicates (R241, R251, R258, R369). -/
def Parsed.capacity (p : Parsed) : Spot :=
  spotFirst [
    (firstTwin 0 (p.im.regions.map (fun r => some (0, r.region, 0)))).map (fun i => (1, i + 1)),
    crowdSpot 2 256 (p.routeItems.map (·.key)) (p.routeItems.map (·.table)),
    crowdSpot 3 256 (p.im.sources.map (fun x => some (x.core.no, x.destKind, x.dest * 4 + x.vc)))
      (p.im.sources.map (fun x => some x.core.no)),
    crowdSpot 4 64 (p.treeItems.map (·.key)) (p.treeItems.map (·.table)),
    crowdSpot 5 64 (p.barItems.map (·.key)) (p.barItems.map (·.table)),
    (firstTwin 0 (p.im.programs.map (fun x => some (0, x.core.no, 0)))).map (fun i => (6, i))]

/-! ### Stage 6: allocations (0x12), PRELOAD (0x2C) -/

/-- SRAM allocations above capacity, and stacked SRAM outside Run (R33, R368). -/
def Image.sramSpot (im : Image) : Spot :=
  spotMin (spotIn 1 1 im.regions (fun r => r.stackedTop.any (fun t => 12288 < t || (!r.run && t != 0))))
    (spotIn 6 0 im.programs (fun p => 16384 < p.nearTop))

/-- A PRELOAD block lies inside its target and its allocation (R368, R371). -/
def Image.preloadOk (im : Image) (p : PreloadRec) : Bool :=
  let n := p.data.length
  if p.target ≤ 1 then (im.block p.core).isSome && p.address + n / 32 ≤ (if p.target = 0 then 64 else 256)
  else if p.target = 2 then
    match im.block p.core with
    | some b =>
      let base := stackedSize + p.core.core * nearSize
      base ≤ p.address && p.address + n ≤ base + b.nearTop * 64
    | none => false
  else if p.target = 3 then p.address + n ≤ im.stackedBytes p.core.clusterNo
  else p.address + n ≤ im.ringTop

/-- The units a PRELOAD block writes. -/
def PreloadRec.span (p : PreloadRec) : Nat × Nat :=
  (p.address, if p.target ≤ 1 then p.data.length / 32 else p.data.length)

/-- Two PRELOAD blocks write one place. -/
def PreloadRec.clashes (a b : PreloadRec) : Bool := a.target = b.target && a.core = b.core && overlaps a.span b.span

/-- The first bad PRELOAD block, from record i on. -/
def Image.preloadFrom (im : Image) : Nat → List PreloadRec → Spot
  | _, [] => none
  | i, p :: ps => if !im.preloadOk p || ps.any p.clashes then some (7, i) else im.preloadFrom (i + 1) ps

/-! ### Stage 6: the step table (0x28) -/

/-- The ring ranges of a step-table entry in 4 KiB units (R309). -/
def StepEntry.ranges (e : StepEntry) : List (Nat × Nat) :=
  if e.kind = 1 then [(e.base, e.length), (e.base2, e.length)]
  else if e.kind = 2 then [(e.base, e.length * e.slots * e.depth)]
  else if e.kind = 3 then [(e.base, e.length)]
  else []

/-- The STEP_PLAN header (R299, R301, R372, R495). -/
def Image.planOk (im : Image) (p : StepPlan) : Bool :=
  let ids := [p.gate, p.fwdEnd, p.bwdEnd, p.reduceEnd, p.updateEnd, p.swapEnd] ++ if p.egressValid then [p.egressEnd] else []
  1 ≤ p.u && p.u ≤ 256 && (p.egressValid != p.overlap) && ids.eraseDups.length = ids.length &&
    ids.all (im.hasBarrier false) && im.allPost p.gate && im.allPost p.swapEnd &&
    p.drains.all (fun d => !d.valid || (im.hasBarrier false d.closing &&
      (d.opening = p.gate || d.opening = p.fwdEnd || d.opening = p.bwdEnd || (p.egressValid && d.opening = p.egressEnd))))

/-- One step-table entry by itself: fields that its KIND leaves 0, lengths, the ring allocation (R309, R368). DESIGN CHOICE
(log entry 158): of an unused entry, KIND 0, no other field is looked at; and a PAIR whose own two halves overlap is
rejected as two entries that overlap are. -/
def Image.stepEntryOk (im : Image) (e : StepEntry) : Bool :=
  e.kind = 0 || (1 ≤ e.length && (e.kind = 1 || e.base2 = 0) &&
    (if e.kind = 2 then 1 ≤ e.slots && 2 ≤ e.depth else e.slots = 0 && e.depth = 0) &&
    e.ranges.all (fun r => (r.1 + r.2) * 4096 ≤ im.ringTop) &&
    (e.kind != 1 || !overlaps (e.base, e.length) (e.base2, e.length)))

/-- Two entries share ring space. -/
def StepEntry.clashes (a b : StepEntry) : Bool := a.ranges.any (fun x => b.ranges.any (overlaps x))

/-- The first bad step-table entry, from record i on, with the number of INPUT entries before it. -/
def Image.stepFrom (im : Image) : Nat → Nat → List StepEntry → Spot
  | _, _, [] => none
  | i, n, e :: es =>
    let n' := if e.kind = 2 then n + 1 else n
    if !im.stepEntryOk e || es.any e.clashes || 8 < n' then some (10, i) else im.stepFrom (i + 1) n' es

/-- The step table. -/
def Image.stepSpot (im : Image) : Spot :=
  match im.stepPlan with
  | none => none
  | some p => if !im.planOk p then some (10, 0) else im.stepFrom 1 0 p.entries

/-! ### Stage 6: NUMERICS and LAYER_TAGS (0x29) -/

/-- FP32 −0. -/
def negZero : Word := 0x80000000

/-- An FP32 word that is neither negative nor NaN (R325). -/
def boundOk (w : Word) : Bool := w = negZero || w.toNat ≤ 0x7F800000

/-- 0 ≤ LO ≤ HI, neither NaN (R324, R325). -/
def windowOk (lo hi : Word) : Bool :=
  let v (w : Word) : Nat := if w = negZero then 0 else w.toNat
  boundOk lo && boundOk hi && v lo ≤ v hi

/-- The limits of R325 on one tag's settings. -/
def tagOk (sMin sMax : Int) (lo hi : Word) (mode : Bool) (f : Nat) : Bool :=
  sMin ≤ 0 && 0 ≤ sMax && windowOk lo hi && !(mode && f = 0)

/-- The first bad LAYER_TAGS record, from record i on; two records for one tag clash (R371). -/
def tagsFrom : Nat → List TagRec → Spot
  | _, [] => none
  | i, t :: ts =>
    if !tagOk t.sMin t.sMax t.lo t.hi t.mode t.f || ts.any (fun u => u.tag = t.tag) then some (9, i) else tagsFrom (i + 1) ts

/-- The NUMERICS module record of an image (R325): the scale; with a STEP_PLAN the area, the page, the members. -/
def Image.numericsOk (im : Image) : Bool :=
  let n := im.numerics
  n.initExp ≤ 24 && (match im.stepPlan with
    | none => true
    | some p => n.area % 4096 = 0 && n.page % 64 = 0 && (!n.lsEn || im.allPost p.reduceEnd) &&
        p.entries.any (fun e => e.kind = 3 && e.base * 4096 ≤ n.area && n.area + areaBytes ≤ (e.base + e.length) * 4096))

/-- NUMERICS and LAYER_TAGS (R325). A page inside a core's near-SRAM allocation names that core's block. -/
def Image.numericsSpot (im : Image) : Spot :=
  spotFirst [
    if im.stepPlan.isSome then spotIn 6 0 im.programs (fun p => im.numerics.page < p.nearTop * 64) else none,
    if im.numericsOk then none else some (8, 0),
    tagsFrom 0 im.tags]

/-! ### Stage 6: TENDER (0x2A) and SLACK (0x2B) -/

/-- The roles of the members of a tender barrier, with their WAIT_ONLY marks. -/
def Image.tenderMembers (im : Image) (sys : Bool) (id : Nat) : List (Nat × Bool) :=
  (im.members.filter (fun m => m.sys = sys && m.id = id)).map (fun m => (im.roleOf m.core.region, m.waitOnly))

/-- READY or FREE (R349, R356): defined, no wait-only member, a teacher and a student among its members; the off-module
side of MODE 2 and MODE 3 counts as the missing role. -/
def Image.tenderBarOk (im : Image) (t : Tender) (id : Nat) : Bool :=
  let ms := im.tenderMembers (t.mode != 1) id
  im.hasBarrier (t.mode != 1) id && ms.all (fun m => !m.2) &&
    (t.mode = 2 || ms.any (·.1 = 1)) && (t.mode = 3 || ms.any (·.1 = 2))

/-- The TENDER header (R348, R349, R355, R356). -/
def Image.tenderOk (im : Image) (t : Tender) : Bool :=
  let teacher := im.regions.any (·.role = 1)
  let student := im.regions.any (·.role = 2)
  (t.mode = 1 || t.mode = 2 || t.mode = 3) && teacher = (t.mode != 2) && student = (t.mode != 3) &&
    1 ≤ t.k && t.k ≤ 256 && 1 ≤ t.vocab && t.k ≤ t.vocab && 1 ≤ t.b && t.b ≤ 4 &&
    t.temp != 0 && t.temp.toNat < 0x7F800000 && im.tenderBarOk t t.ready && im.tenderBarOk t t.free &&
    (t.mode != 2 || im.receives.any (fun r => r.entry.vc = 0)) && (t.mode != 3 || im.remotes.any (fun r => r.entry.vc = 0))

/-- The first bad frozen range, from record i on (R349, R350). -/
def Image.frozenFrom (im : Image) : Nat → List (Nat × Nat) → Spot
  | _, [] => none
  | i, f :: fs =>
    if f.2 != 0 && ((im.ringTop < (f.1 + f.2) * 4096) || fs.any (fun g => g.2 != 0 && overlaps f g)) then some (12, i)
    else im.frozenFrom (i + 1) fs

/-- Step-table entries that a frozen range overlaps (R350). -/
def Image.frozenClash (im : Image) (t : Tender) : Spot :=
  match im.stepPlan with
  | none => none
  | some p => spotIn 10 1 p.entries (fun e => e.ranges.any (fun x => t.frozen.any (fun f => f.2 != 0 && overlaps x f)))

/-- Region roles and the TENDER section (R347 to R350, R355, R356). -/
def Image.tenderSpot (im : Image) : Spot :=
  let roles := spotIn 1 1 im.regions (fun r => (r.role != 0) != (im.tender.isSome && r.run))
  match im.tender with
  | none => roles
  | some t => spotFirst [roles, im.frozenClash t, if im.tenderOk t then none else some (12, 0), im.frozenFrom 1 t.frozen]

/-- Everything reachable from a list within a number of steps. -/
def reach (next : Nat → List Nat) : Nat → List Nat → List Nat → List Nat
  | 0, _, seen => seen
  | n + 1, front, seen =>
    let new := ((front.flatMap next).filter (fun x => !seen.contains x)).eraseDups
    if new.isEmpty then seen else reach next n new (seen ++ new)

/-- The routers that a mask of outputs leads to. -/
def maskRouters (r mask : Nat) : List Nat :=
  ((List.range 4).filter (Nat.testBit mask)).filterMap (fun o => match joint r o with
    | .router q _ => some q
    | _ => none)

/-- The routers that a barrier's release reaches. -/
def Image.releaseReach (im : Image) (bar : Nat) : List Nat :=
  match im.barriers.find? (fun b => barKey b.sys b.id = bar) with
  | none => []
  | some b =>
    let next (r : Nat) : List Nat :=
      (im.nodes.filter (fun n => barKey n.sys n.id = bar && n.at'.router = r)).flatMap (fun n => maskRouters r n.release)
    reach next im.nodes.length [b.root.router] [b.root.router]

/-- SLACK records whose predecessor's release does not reach the measured barrier's root (R264, R372). -/
def Image.slackSpot (im : Image) : Spot :=
  spotIn 11 0 im.slack (fun x =>
    match im.barriers.find? (fun b => barKey b.sys b.id = barKey x.sys x.id) with
    | none => true
    | some b => !(im.releaseReach (barKey x.predSys x.pred)).contains b.root.router)

/-- Stage 6 of an image staged at an address; a region patch is staged anywhere. -/
def State.stage6 (s : State) (p : Parsed) (staged : Option Nat) : Option Reject :=
  let im := p.im
  let spot (b : Bool) (sec : Nat) : Spot := if b then some (sec, 0) else none
  firstCode [
    (0x10, spot (s.ringTop < im.ringTop) 1),
    (0x11, spot (im.ringTop != 0 && s.lostStacks != 0) 1),
    (0x12, im.sramSpot),
    (0x1D, p.capacity),
    (0x33, spot (staged.any (· < im.ringTop)) 15),
    (0x2C, im.preloadFrom 0 im.preloads),
    (0x28, im.stepSpot),
    (0x29, im.numericsSpot),
    (0x2A, im.tenderSpot),
    (0x2B, im.slackSpot)]

/-! ### Stage 7 -/

/-- A router that a record names, the outputs by which traffic leaves it, and its channel. -/
structure Use where
  r : Nat
  outs : List Nat
  vc : Nat
deriving DecidableEq, Repr

/-- The outputs of a mask. -/
def maskOuts (n mask : Nat) : List Nat := (List.range n).filter (Nat.testBit mask)

/-- The routers a use stands at or leads to. -/
def Use.routers (u : Use) : List Nat :=
  u.r :: u.outs.filterMap (fun o => match joint u.r o with
    | .router q _ => some q
    | _ => none)

/-- The traffic ends at the router. -/
def Use.ends (u : Use) : Bool := u.outs.any (fun o => o = 4 || o = 5)

/-- The ports a use leaves by. -/
def Use.ports (u : Use) : List Nat := u.outs.filterMap (fun o => match joint u.r o with
  | .port n => some n
  | _ => none)

/-- An output by which traffic of the channel leaves is unconnected; the host bridge takes MAINT only (R236, R267). -/
def Use.loose (u : Use) : Bool := u.outs.any (fun o => match joint u.r o with
  | .nothing => true
  | .host => u.vc != 3
  | _ => false)

/-- The use of a route, fork, barrier or node record. -/
def RouteItem.use : RouteItem → Option Use
  | .route r => some ⟨r.at'.router, [r.out], r.vc⟩
  | _ => none

def TreeItem.use : TreeItem → Option Use
  | .fork r => some ⟨r.at'.router, maskOuts 6 r.out, 1⟩
  | .tree _ => none

/-- A barrier's arrivals end at its root; a system barrier's root exchanges them with other modules by its port (R256,
R291). A node that is not the root sends towards it. A node whose IN names the local
core or the spine has traffic that ends there, and one whose IN names the port link uses that port. -/
def Image.barUse (im : Image) : BarItem → Option Use
  | .barrier r => some ⟨r.root.router, if r.sys then [4, 6] else [4], 0⟩
  | .node r =>
    let root := (im.barriers.find? (fun b => b.sys = r.sys && b.id = r.id)).any (fun b => b.root = r.at')
    some ⟨r.at'.router, maskOuts 7 r.release ++ (if root then [] else [r.parent]) ++
      (if r.inputs.testBit 4 || r.inputs.testBit 5 then [4] else []) ++ (if r.inputs.testBit 6 then [6] else []), 0⟩
  | .member _ => none

/-- The first record of ROUTES, MCAST_TREES or BARRIERS whose use is bad. -/
def Parsed.useSpot (p : Parsed) (bad : Use → Bool) : Spot :=
  spotFirst [
    spotIn 2 0 p.routeItems (fun x => x.use.any bad),
    spotIn 4 0 p.treeItems (fun x => x.use.any bad),
    spotIn 5 0 p.barItems (fun x => (p.im.barUse x).any bad)]

/-- Logical cores and lost clusters (0x14; R43 to R47). -/
def Parsed.lostSpot (p : Parsed) (m : List Word) : Spot :=
  let lost (c : Cref) : Bool := clusterLost m c.clusterNo
  spotFirst [
    p.useSpot (fun u => u.ends && clusterLost m (routerCore u.r / 17)),
    spotIn 1 1 p.im.regions (fun r => ((regionClusters r.region).filter (fun c => r.stackedTop.getD (clusterQuad c) 0 != 0)).any
      (clusterLost m)),
    spotIn 2 0 p.routeItems (fun x => match x with
      | .entry r => lost r.core
      | .remote r => lost r.core
      | _ => false),
    spotIn 3 0 p.im.sources (fun x => lost x.core || (x.destKind = 0 && clusterLost m x.dest)),
    spotIn 4 0 p.treeItems (fun x => match x with
      | .tree r => lost r.root
      | .fork _ => false),
    spotIn 5 0 p.barItems (fun x => match x with
      | .member r => lost r.core
      | _ => false),
    spotIn 6 0 p.im.programs (fun x => lost x.core),
    spotIn 7 0 p.im.preloads (fun x => x.target ≤ 3 && lost x.core)]

/-- Entry routers: healthy, and of the same cluster (R44). -/
def entryBad (m : List Word) : RouteItem → Bool
  | .entry r => routerBad m (routerCore r.at'.router) || routerCore r.at'.router / 17 != r.core.clusterNo ||
      !posExists r.at'.x r.at'.y
  | _ => false

/-- A port an image may not use: not fitted, a PORT entry, an attach region barred or stopped (0x18; R3, R54, R55). -/
def State.portBad (s : State) (im : Image) (n : Nat) : Bool :=
  let m := s.defectMap
  !s.portFitted n || m.any (fun d => defKind d = 6 && defLoc d % 256 = n) || regionBarred m (portRegion n) ||
    im.stateOf (portRegion n) < 2

/-- Whether a port meets a port record's expectation (R281). -/
def State.peerMeets (s : State) (r : PortRec) : Bool :=
  !r.expect || r.meets (s.get .OPT_PORT_PEER_MODULE_ID r.port) (s.get .OPT_PORT_PEER_TILE r.port) (s.get .OPT_PORT_PEER_PORT r.port)

/-- A condition on port records. -/
def portWhere (f : PortRec → Bool) : RouteItem → Bool
  | .port r => f r
  | _ => false

/-- Stage 7, against the defect map and the port states in force. -/
def State.stage7 (s : State) (p : Parsed) : Option Reject :=
  let m := s.defectMap
  let im := p.im
  firstCode [
    (0x14, p.lostSpot m),
    (0x15, spotMin (p.useSpot (fun u => u.routers.any (fun r => routerBad m (routerCore r)))) (spotIn 2 0 p.routeItems (entryBad m))),
    (0x16, spotFirst [
      spotIn 1 1 im.regions (fun r => 2 ≤ r.state && regionBarred m r.region),
      p.useSpot (fun u => u.routers.any (fun r => regionBarred m (routerRegion r))),
      spotIn 6 0 im.programs (fun x => regionBarred m x.core.region)]),
    (0x17, spotMin (p.useSpot (fun u => u.routers.any (fun r => decide (im.stateOf (routerRegion r) < 2))))
      (spotIn 6 0 im.programs (fun x => im.stateOf x.core.region != 3))),
    (0x1B, p.useSpot Use.loose),
    (0x18, spotFirst [
      p.useSpot (fun u => u.ports.any (s.portBad im)),
      spotIn 2 0 p.routeItems (fun x => match x with
        | .receive r => s.portBad im r.port
        | .port r => s.portBad im r.port
        | _ => false),
      spotIn 3 0 im.sources (fun x => x.destKind = 2 && s.portBad im x.dest)]),
    (0x19, spotIn 2 0 p.routeItems (portWhere (fun r => !s.on .RES_MODULE_ID_ASSIGNED || s.get .OPT_PORT_STATE_STATE r.port != 4))),
    (0x1C, spotIn 2 0 p.routeItems (portWhere (fun r => r.expect && r.moduleId = s.get .RES_MODULE_ID_MODULE_ID))),
    (0x1A, spotIn 2 0 p.routeItems (portWhere (fun r => !s.peerMeets r)))]

/-! ### Stage 8: the cost of paths (R248, R249, R254, R290, R291) -/

/-- Whether two routers lie in different tiles. -/
def tileOf (r : Nat) : Nat := posTile (r % 320) (r / 320)

/-- A link's part of h + br + 2 × bt (R248). -/
def linkCost (a b : Nat) : Nat :=
  1 + (if routerRegion a = routerRegion b then 0 else 1) + (if tileOf a = tileOf b then 0 else 2)

/-- A walk along a route: cost without the fixed 6 fc, the ROUTES records it uses, the router where it ends, whether
it ends at a port, and what the bridge or port link there costs; none where it never ends or meets no entry. -/
structure Walk where
  cost : Nat
  recs : List Nat
  last : Nat
  port : Bool
  link : Nat
deriving DecidableEq, Repr

/-- The ROUTES record of a route and channel at a router. -/
def Parsed.routeAt (p : Parsed) (r route vc : Nat) : Option (Nat × Nat) :=
  let hit : RouteItem → Option Nat
    | .route e => if e.at'.router = r && e.route = route && e.vc = vc then some e.out else none
    | _ => none
  ((p.routeItems.mapIdx (fun i x => (hit x).map (fun o => (i, o)))).findSome? id)

/-- Walks a route from a router; an edge-bridge, host-bridge or port link counts as a link and a region boundary (R248,
R271). -/
def Parsed.walk (p : Parsed) (route vc : Nat) : Nat → Nat → Option Walk
  | 0, _ => none
  | fuel + 1, r =>
    match p.routeAt r route vc with
    | none => none
    | some (i, out) =>
      match joint r out with
      | .here => some ⟨0, [i], r, false, 0⟩
      | .bridge _ => some ⟨2, [i], r, false, 2⟩
      | .host => some ⟨2, [i], r, false, 2⟩
      | .port _ => some ⟨2, [i], r, true, 2⟩
      | .nothing => none
      | .router q _ => (p.walk route vc fuel q).map (fun w => { w with cost := w.cost + linkCost r q, recs := i :: w.recs })

/-- A route that the loader times: the record it belongs to, its cost by R248, whether it is a leg of a port. -/
structure Leg where
  spot : Spot
  cost : Nat
  port : Bool
deriving DecidableEq, Repr

/-- A leg from a router. -/
def Parsed.leg (p : Parsed) (sec i start route vc extra : Nat) (port : Bool) : Option (Leg × Walk) :=
  (p.walk route vc (p.routeItems.length + 1) start).map (fun w =>
    (⟨spotFirst ((some (sec, i)) :: w.recs.map (fun k => some (2, k))), 6 + extra + w.cost, port || w.port⟩, w))

/-- The router at which a logical core's traffic enters the mesh (R44). -/
def entryRouter (im : Image) (m : List Word) (c : Cref) : Nat :=
  let home := coreRouter c.no
  if routerBad m c.no then
    match im.entries.find? (·.core = c) with
    | some e => e.at'.router
    | none => home
  else home

/-- The PLAN legs of the image that a core or a port begins: routes of source entries with their acknowledgements, which come
back by the bridge or port where the route ends, of remote targets, of receive entries. -/
def Parsed.planLegs (p : Parsed) (m : List Word) : List Leg :=
  let src := (p.im.sources.mapIdx (fun i x => (i, x))).filter (fun x => x.2.vc = 1)
  let fromSource := src.flatMap (fun x => match p.leg 3 x.1 (entryRouter p.im m x.2.core) x.2.route 1 0 false with
    | some (l, w) => [l] ++ ((p.leg 3 x.1 w.last x.2.ackRoute 1 w.link w.port).map (·.1)).toList
    | none => [])
  let fromRoutes := (p.routeItems.mapIdx (fun i x => (i, x))).filterMap (fun x => match x.2 with
    | .remote r => if r.entry.vc = 0 then (p.leg 2 x.1 (entryRouter p.im m r.core) r.entry.route 1 0 true).map (·.1) else none
    | .receive r => if r.entry.vc = 0 then (p.leg 2 x.1 (portRouter r.port) r.entry.route 1 2 true).map (·.1) else none
    | _ => none)
  fromSource ++ fromRoutes

/-- A route record that no other record of its route and channel leads to. -/
def Parsed.headRoute (p : Parsed) (e : RouteRec) : Bool :=
  !p.routeItems.any (fun x => match x with
    | .route d => d.route = e.route && d.vc = e.vc && (match joint d.at'.router d.out with
      | .router q _ => q = e.at'.router
      | _ => false)
    | _ => false)

/-- Every SYNC and PLAN route, from where it begins (R249). -/
def Parsed.headLegs (p : Parsed) : List Leg :=
  (p.routeItems.mapIdx (fun i x => (i, x))).filterMap (fun x => match x.2 with
    | .route e => if e.vc ≤ 1 && p.headRoute e then (p.leg 2 x.1 e.at'.router e.route e.vc 0 false).map (·.1) else none
    | _ => none)

/-- The node of a barrier at a router. -/
def Image.node (im : Image) (bar r : Nat) : Option NodeRec :=
  im.nodes.find? (fun n => barKey n.sys n.id = bar && n.at'.router = r)

/-- A port link's part of h + br + 2 × bt (R271). -/
def portLink : Nat := 2

/-- The larger by its first number, then by its second. -/
def pairMax (a b : Nat × Nat) : Nat × Nat := if a.1 < b.1 || (a.1 = b.1 && a.2 < b.2) then b else a

/-- The longest gather path from a router's subtree to it, the link of a child module's port among them: its cost and the
combining routers on it; a router combines where it has two inputs or more (R254, R291). -/
def Image.gather (im : Image) (bar : Nat) : Nat → Nat → Nat × Nat
  | 0, _ => (0, 0)
  | fuel + 1, r =>
    match im.node bar r with
    | none => (0, 0)
    | some n =>
      let j := if 2 ≤ ((List.range 7).filter (Nat.testBit n.inputs)).length then 1 else 0
      let paths := (maskRouters r n.inputs).map (fun q =>
        let (g, k) := im.gather bar fuel q
        (g + linkCost r q, k))
      let best := (paths ++ if n.inputs.testBit 6 then [(portLink, 0)] else []).foldl pairMax (0, 0)
      (best.1, best.2 + j)

/-- The longest release path below a router, the links to child modules' ports among them. -/
def Image.releaseCost (im : Image) (bar : Nat) : Nat → Nat → Nat
  | 0, _ => 0
  | fuel + 1, r =>
    match im.node bar r with
    | none => 0
    | some n => ((maskRouters r n.release).map (fun q => im.releaseCost bar fuel q + linkCost r q)).foldl max
        (if n.release.testBit 6 then portLink else 0)

/-- The longest path of a barrier's tree between a router and a port below it, by the mask of its nodes that the tree
follows; none where no port is below (R290). -/
def Image.portPath (im : Image) (bar : Nat) (mask : NodeRec → Nat) : Nat → Nat → Option Nat
  | 0, _ => none
  | fuel + 1, r =>
    match im.node bar r with
    | none => none
    | some n => ((maskRouters r (mask n)).map (fun q => (im.portPath bar mask fuel q).map (· + linkCost r q))).foldl max
        (if (mask n).testBit 6 then some portLink else none)

/-- The wafer legs of a system barrier's arrivals and releases (R290): those of child modules' ports, and, where the root
lies on another module, every path between a member and the root's own port. -/
def Image.barLegs (im : Image) (b : BarrierRec) : List Nat :=
  if !b.sys then []
  else
    let bar := barKey b.sys b.id
    let fuel := im.nodes.length + 1
    let r := b.root.router
    let remote := !(im.node bar r).any (fun n => n.inputs.testBit 6)
    let ends := if remote then [(im.gather bar fuel r).1 + portLink, im.releaseCost bar fuel r + portLink] else []
    (ends ++ (im.portPath bar (·.inputs) fuel r).toList ++ (im.portPath bar (·.release) fuel r).toList).map (6 + ·)

/-- The barrier time of R254. -/
def Image.barTime (im : Image) (b : BarrierRec) : Nat :=
  let bar := barKey b.sys b.id
  let g := im.gather bar (im.nodes.length + 1) b.root.router
  g.1 + g.2 + im.releaseCost bar (im.nodes.length + 1) b.root.router + 8

/-- The first record of a barrier. -/
def Parsed.barSpot (p : Parsed) (bar : Nat) : Spot :=
  spotIn 5 0 p.barItems (fun x => match x with
    | .barrier r => barKey r.sys r.id = bar
    | .member r => barKey r.sys r.id = bar
    | .node r => barKey r.sys r.id = bar)

/-! ### Stage 8: cycles of waits (R243) -/

/-- A router input by channel, sender and receiver. -/
def waitNode (vc a b : Nat) : Nat := vc * 2 ^ 40 + a * 2 ^ 20 + b

/-- A wait: the input that waits, the one it waits for, the earlier of the records that make it. -/
structure Wait where
  a : Nat
  b : Nat
  spot : Spot
deriving DecidableEq, Repr

/-- The waits of the routes: a flit of a route at one router's input waits for the next router's. -/
def Parsed.routeWaits (p : Parsed) : List Wait :=
  (p.routeItems.mapIdx (fun i x => (i, x))).flatMap (fun x => match x.2 with
    | .route e =>
      (match joint e.at'.router e.out with
      | .router q _ => (match p.routeAt q e.route e.vc with
        | some (j, out) => (match joint q out with
          | .router t _ => [⟨waitNode e.vc e.at'.router q, waitNode e.vc q t, some (2, min x.1 j)⟩]
          | _ => [])
        | none => [])
      | _ => [])
    | _ => [])

/-- The waits of the multicast trees, and of the acknowledgements that come back along them (R258, R261). -/
def Parsed.treeWaits (p : Parsed) : List Wait :=
  let forks := (p.treeItems.mapIdx (fun i x => (i, x))).filterMap (fun x => match x.2 with
    | .fork e => some (x.1, e)
    | .tree _ => none)
  forks.flatMap (fun x => (maskRouters x.2.at'.router x.2.out).flatMap (fun q =>
    (forks.filter (fun y => y.2.tree = x.2.tree && y.2.at'.router = q)).flatMap (fun y =>
      (maskRouters q y.2.out).flatMap (fun t =>
        let a := x.2.at'.router
        let sp : Spot := some (4, min x.1 y.1)
        [⟨waitNode 1 a q, waitNode 1 q t, sp⟩, ⟨waitNode 1 t q, waitNode 1 q a, sp⟩]))))

/-- The first record of a cycle of waits. -/
def Parsed.cycleSpot (p : Parsed) : Spot :=
  let ws := p.routeWaits ++ p.treeWaits
  let next (n : Nat) : List Nat := (ws.filter (fun w => w.a = n)).map (·.b)
  spotFirst ((ws.filter (fun w => (reach next ws.length [w.b] [w.b]).contains w.a)).map (·.spot))

/-- Stage 8. -/
def State.stage8 (s : State) (p : Parsed) : Option Reject :=
  let legs := p.planLegs s.defectMap ++ p.headLegs
  let spots (f : Leg → Bool) : Spot := spotFirst ((legs.filter f).map (·.spot))
  let barSpots (f : BarrierRec → Bool) : Spot := spotFirst ((p.im.barriers.filter f).map (fun b => p.barSpot (barKey b.sys b.id)))
  firstCode [
    (0x23, p.cycleSpot),
    (0x20, spots (fun l => 490 < l.cost)),
    (0x21, barSpots (fun b => decide (980 < p.im.barTime b))),
    (0x22, spotMin (spots (fun l => l.port && 480 < l.cost)) (barSpots (fun b => (p.im.barLegs b).any (480 < ·))))]

/-- Stages 6 to 8. -/
def State.stages (s : State) (p : Parsed) (staged : Option Nat) : Option Reject :=
  (s.stage6 p staged).orElse fun _ => (s.stage7 p).orElse fun _ => s.stage8 p

end Sys2Proof.Machine
end

