-- ==== Sys2Proof/Machine/LoadOps.lean ====
section
/-!
DEFINITION. The loader (R373 to R378): what is judged before an image is accepted, the reading and checking of a staged
image, and the apply of R375 with everything that earlier chapters clear or set at LOAD_IMAGE.
-/
namespace Sys2Proof.Machine

/-! ### Reading and judging a staged image (Table 9) -/

/-- Whether a slot may sign an image in a lifecycle state (R365). -/
def slotAllowed (lifecycle signer : Nat) : Bool :=
  (lifecycle = 1 && signer = 0) || (lifecycle = 2 && 1 ≤ signer && signer ≤ 3)

/-- The signer's key matches its slot, its exponent is 65,537 (code 0x05), and the signature verifies (0x06). -/
def State.keySigned (s : State) (h : Header) (key : List Byte) (allowed : Bool) : Except Reject Unit := do
  demand (allowed && s.shadowBank.slot h.signer = some (digest key) && h.exponent = 65537) (0x05, 0, 0)
  demand (pssVerify h.modulus h.signature h.raw) (0x06, 0, 0)

/-- A firmware package verifies: the layout of R363 with MAGIC "PLFW" and SIGNER 0, slot 0 in VENDOR, OWNED or RETIRED, key
hash, exponent, signature, DIGEST, and an ARB not below the firmware count (R461; log entry 140 for the header). -/
def State.firmwareGood (s : State) (package : List Byte) : Bool :=
  let h := parseHeader package
  h.plain 0x57464C50 s.shadowBank.orderCode.toNat && h.signer = 0 && s.shadowBank.fwCount.toNat ≤ h.arb && h.arb ≤ 127 &&
    digest (package.drop 0x700) = h.digest && h.length = package.length &&
    (match s.keySigned h ((package.drop 0x300).take 0x204) (1 ≤ s.shadowBank.lifecycle.toNat) with
      | .ok () => true
      | .error _ => false)

/-- Stage 2: signer, signature and anti-rollback count (R365). -/
def State.trust (s : State) (h : Header) (key : List Byte) : Except Reject Unit := do
  s.keySigned h key (slotAllowed s.shadowBank.lifecycle.toNat h.signer)
  demand (s.shadowBank.imageCount.toNat ≤ h.arb && h.arb ≤ 127) (0x07, 0, 0)

/-- Stages 1 to 5 of a staged image or patch (R374, R378): an uncorrectable error met anywhere gives code 0x34. -/
def State.inspect (s : State) (kind addr : Nat) : State × Except Reject (Header × Parsed) :=
  match s.readPhys addr 0x700 with
  | (s, none) => (s, .error (0x34, 15, 0))
  | (s, some hd) =>
    let h := parseHeader hd
    match (do
      h.check kind s.shadowBank.orderCode.toNat addr s.ringTop
      s.trust h ((hd.drop 0x300).take 0x204)) with
    | .error e => (s, .error e)
    | .ok () =>
      match s.readPhys (addr + 0x700) (h.length - 0x700) with
      | (s, none) => (s, .error (0x34, 15, 0))
      | (s, some body) => (s, do
          demand (digest body = h.digest) (0x08, 0, 0)
          let p ← parseBody h body
          return (h, p))

/-! ### Unloading and rejection (R374) -/

/-- What an accepted LOAD_IMAGE does first. -/
def State.unload (s : State) : State :=
  let s := s.dropImage
  let s := (s.put .IMG_STATE_STATE 1).clears 0 [.IMG_STATE_PATCHES, .IMG_ARB_ARB]
  let s := s.each (List.range 16) (fun s w => s.put .IMG_DIGEST_WORD 0 w)
  [0, 2].foldl (fun s sc => s.rollBack sc 6) { s with faulted := false, patchChain := 0 }

/-- IMG_RESULT and IMG_ITEM of a load, with its event (Table 9 of "Faults, Partners and Securing State"). -/
def State.loadResult (s : State) (r : Reject) : State :=
  let s := s.puts 0 [(.IMG_RESULT_CODE, r.1), (.IMG_RESULT_PATCH, 0), (.IMG_ITEM_SECTION, r.2.1), (.IMG_ITEM_RECORD, r.2.2)]
  s.event 0x0701 clsNone r.2.1 r.1 r.2.2

/-- Completes a LOAD_IMAGE. -/
def State.loadEnd (s : State) (c : Option Ctx) (status detail : Nat) : State :=
  match c with
  | some c => s.complete c 0x0001 status detail 0 0
  | none => s

/-- A rejection: IMG_STATE NONE, the code and item, status 0x06. -/
def State.rejectLoad (s : State) (c : Option Ctx) (r : Reject) : State :=
  ((s.put .IMG_STATE_STATE 0).loadResult r).loadEnd c 0x06 r.1

/-- Ports whose peer differs from what an image names enter REFUSED with cause 1 and keep the expectation (R281). -/
def State.refusePorts (s : State) (im : Image) : State :=
  s.each (im.ports.filter (fun r => !s.peerMeets r)) (fun s r =>
    (s.setPort r.port { s.port r.port with expect := some r }).setPort' r.port 5 1)

/-! ### The apply (R375) -/

/-- The regions that an image sets to Run or Poise. -/
def Image.raised (im : Image) : List Nat := (im.regions.filter (fun r => 2 ≤ r.state)).map (·.region)

/-- Step 2: every such region goes to at least Poise, and a trip clears where its junction has cooled (R433, R451). -/
def State.raiseRegions (s : State) (im : Image) : State :=
  s.each im.raised (fun s r =>
    let s := s.clearTrip r
    if s.get .PWR_REGION_STATE r ≤ 1 then s else s.moveRegion r 1)

/-- Returns every instance of some fields to the Reset entry. -/
def State.wipe (s : State) (fs : List Field) : State := fs.foldl State.clearField s

/-- Fields of the core pages that LOAD_IMAGE clears (R68, R117, R195), and of the first-NaN latch (R195). -/
def loadCleared1 : List Field :=
  [.CORE_STATUS_STATE, .CORE_STATUS_STALLED, .CORE_STATUS_IN_BWAIT, .CORE_PC_PC, .CORE_TRAP_CAUSE, .CORE_TRAP_SLOT,
   .CORE_TRAP_INFO, .CORE_TRAP_PC_PC, .CORE_CFG_FTZ, .CORE_ISSUED_COUNT, .CORE_STALLS_COUNT, .CORE_FLAGS_OVF16]

def nanFields : List Field :=
  [.CORE_NAN_VALID, .CORE_NAN_UNIT, .CORE_NAN_DESC, .CORE_NAN_LAYER_TAG, .CORE_NAN_TAG_VALID, .CORE_NAN_PC_PC,
   .CORE_NAN_PC_SLOT, .CORE_NAN_STEP_STEP]

def latchFields : List Field :=
  [.NUM_NAN_LOC_TILE, .NUM_NAN_LOC_CLUSTER, .NUM_NAN_LOC_CORE, .NUM_NAN_LOC_SLOT, .NUM_NAN_LOC_UNIT, .NUM_NAN_LOC_VALID,
   .NUM_NAN_PC_PC, .NUM_NAN_PC_DESC, .NUM_NAN_TAG_LAYER_TAG, .NUM_NAN_TAG_TAG_VALID, .NUM_NAN_STEP_STEP, .NUM_NAN_TIME_AC]

/-- Fields of the mesh blocks and ports that LOAD_IMAGE clears (R269, R298). -/
def loadCleared2 : List Field :=
  [.MESH_SLIP_COUNT_COUNT, .MESH_SLIP_LAST_KIND, .MESH_SLIP_LAST_SYS, .MESH_SLIP_LAST_ID, .MESH_SLIP_LAST_SLOT,
   .MESH_SLIP_LAST_PORT, .MESH_SLIP_LAST_EXCESS, .MESH_DROP_COUNT, .MESH_DROP_SLOT, .MESH_DROP_CAUSE, .MESH_HOLD_MAX_FC,
   .MESH_HOLD_MAX_TREE, .MESH_RTR_FLITS_COUNT, .MESH_RTR_STALL_COUNT, .MESH_BAR_STATE_RELEASES, .MESH_BAR_LAST_FC,
   .OPT_PORT_CTRL_DROP_CAUSE, .OPT_PORT_CTRL_RX_DROPS, .OPT_PORT_FEC_BAD_REPLAYS, .OPT_PORT_TX_FLITS, .OPT_PORT_RX_FLITS,
   .ARR_SKEW_SLOT, .ARR_SKEW_EN]

/-- Step, input-ring, fault and pairing fields that LOAD_IMAGE clears or fills anew (R323, R514). -/
def loadCleared3 : List Field :=
  [.RES_STEP_LO_COUNT, .RES_STEP_HI_COUNT, .RES_STEP_STATE_PHASE, .RES_STEP_STATE_MICRO, .RES_STEP_STATE_BUF_SEL,
   .RES_STEP_STATE_STABLE, .RES_STEP_STATE_SKIPPED, .RES_STEP_STATE_STOPPED, .RES_STEP_QP_LAST_FC, .RES_STEP_HOLDS_INPUT,
   .RES_STEP_HOLDS_SECURE, .MEM_IN_CFG_SLOTS, .MEM_IN_CFG_DEPTH, .MEM_IN_CFG_VALID, .MEM_IN_SLOT_UNITS, .MEM_IN_BASE_LO_ADDR,
   .MEM_IN_BASE_HI_ADDR, .MEM_IN_PROD_STEP, .MEM_IN_STAT_STARVED, .MEM_IN_STAT_OVERRUNS, .RES_FAULT_CAUSE, .RES_FAULT_PHASE,
   .RES_FAULT_LOCAL_VALID, .RES_FAULT_BUF_SEL, .RES_FAULT_REGION, .RES_FAULT_STEP_STEP, .RES_PAIR_PARTNER_ID,
   .RES_PAIR_IN_EFFECT, .RES_PAIR_VERIFIED, .RES_PAIR_SHARED, .RES_PAIR_REFUSAL]

/-- Numerics and pairing-section fields that LOAD_IMAGE clears or sets from the image (R324, R345, R346, R362). -/
def loadCleared4 : List Field :=
  [.NUM_LS_STAT_SKIPS, .NUM_LS_STAT_CONSEC, .NUM_LS_STAT_LAST_OVF, .NUM_LS_STAT_FLOOR, .NUM_EXP_S, .NUM_EXP_EN,
   .NUM_EXP_UPDATE, .NUM_EXP_LAST_UP, .NUM_EXP_LAST_DOWN, .NUM_EXP_LIM_S_MIN, .NUM_EXP_LIM_S_MAX, .NUM_EXP_THR_RAISE_THRESH,
   .NUM_EXP_MOVES_RAISES, .NUM_EXP_MOVES_LOWERS, .NUM_MON_STAT_EVENTS, .NUM_MON_STAT_MISSING, .NUM_MON_LAST_TAG,
   .NUM_MON_LAST_LOW, .NUM_MON_LAST_HIGH, .NUM_MON_LAST_VALID, .NUM_MON_LAST_STEP_STEP, .NUM_MON_FLAGS_FLAGS, .NUM_LS_EXP,
   .NUM_LS_CLEAN, .NUM_MON_SETTLE_LEFT, .NUM_NAN_COUNT_COUNT, .RES_DISTIL_CFG_MODE, .RES_DISTIL_CFG_K,
   .RES_DISTIL_CFG_BUFFERS, .RES_DISTIL_CFG_FROZEN, .RES_DISTIL_TEMP_T, .RES_DISTIL_VOCAB_SIZE, .RES_DISTIL_REGIONS_TEACHER,
   .RES_DISTIL_REGIONS_STUDENT, .RES_DISTIL_BAR_READY_ID, .RES_DISTIL_BAR_READY_SYS, .RES_DISTIL_BAR_FREE_ID,
   .RES_DISTIL_BAR_FREE_SYS, .RES_DISTIL_ROLE_ROLE, .RES_DISTIL_FROZEN_BASE_UNITS, .RES_DISTIL_FROZEN_LEN_UNITS]

/-- Every clearing of registers and views that LOAD_IMAGE brings (log entry 42); the apply makes it with step 6, so that a
load that ends before has changed none of them (R375). -/
def State.loadClear (s : State) : State :=
  let s := ((((s.wipe loadCleared1).wipe nanFields).wipe latchFields).wipe loadCleared2)
  let s := (s.wipe loadCleared3).wipe loadCleared4
  { s with
    counts := []
    nans := []
    runView := []
    stepView := []
    sinceQuiet := []
    tags := []
    units := (s.units.map (fun x => (x.1, { x.2 with merge := 0 }))).filter (fun x => x.2 != {})
    v := false
    skip := false
    ran := false
    quiet := none
    dirty := []
    uniqueBad := false
    redrain := false
    lastDrain := none
    scheduled := false
    partnerTags := none }

/-- Step 1: the mapping of logical cores, and the defect map in force (R42, R43). -/
def State.mapCores (s : State) : State :=
  let m := s.defectMap
  let cs := (m.filter (fun d => defKind d ≤ 3)).map defCluster
  { s with
    loadedDefects := m
    carried := cs.foldl (fun c k => mset 0 c k (carriedIn m k)) [] }

/-- The descriptor-table entries of a PRELOAD block. -/
def entriesOf : Nat → List Byte → List (BitVec 256)
  | 0, _ => []
  | n + 1, bs => if bs.isEmpty then [] else BitVec.ofNat 256 (leNat (bs.take 32)) :: entriesOf n (bs.drop 32)

/-- One PRELOAD block (R371). -/
def State.preload (s : State) (b : PreloadRec) : State :=
  let p := s.crefCore b.core
  let c := s.core p
  let es := entriesOf b.data.length b.data
  if b.target = 0 then s.setCore p { c with adesc := msetRange 0 c.adesc b.address es }
  else if b.target = 1 then s.setCore p { c with sdesc := msetRange 0 c.sdesc b.address es }
  else if b.target = 2 then s.store (nearAddr p ((b.address - stackedSize) % nearSize)) b.data
  else if b.target = 3 then s.store (stackedAddr b.core.clusterNo b.address) b.data
  else s.store b.address b.data

/-- The pairs that a PRELOAD writes into: both halves read as overwritten (R506). -/
def State.overwritePairs (s : State) (im : Image) : State :=
  let hits := im.preloads.filter (fun b => b.target = 4)
  let pairs := (s.tables.mapIdx (fun i e => (i, e))).filter (fun x => x.2.kind = 1 && x.2.ranges.any (fun r =>
    hits.any (fun b => spansMeet (r.1 * 4096, r.2 * 4096) (b.address, b.data.length))))
  { s with pairs := pairs.foldl (fun m x => mset {} (mset {} m (2 * x.1) {}) (2 * x.1 + 1) {}) s.pairs }

/-- The instruction stores and the remote tables of an image's cores, in those that `mine` names. -/
def State.loadCores (s : State) (im : Image) (mine : Nat → Bool) : State :=
  let s := s.each im.programs (fun s b =>
    let p := s.crefCore b.core
    if mine p then s.setCore p { s.core p with istore := mcells 0 0 b.bundles } else s)
  s.each im.remotes (fun s r =>
    let p := s.crefCore r.core
    let c := s.core p
    if mine p then s.setCore p { c with remotes := mset ⟨0, 0, 0, 0, 0, 0, 0⟩ c.remotes r.index r.entry } else s)

/-- The receive tables of an image's ports. -/
def State.loadReceives (s : State) (im : Image) (mine : Nat → Bool) : State :=
  s.each (im.receives.filter (fun r => mine r.port)) (fun s r =>
    let p := s.port r.port
    s.setPort r.port { p with rx := mset ⟨0, 0, 0, 0, false, 0, 0, 0⟩ p.rx r.index r.entry })

/-- Step 3: stores and tables, with nothing of an earlier image left in the cores. -/
def State.loadTables (s : State) (im : Image) : State :=
  let s : State := { s with
    cores := []
    image := some im
    left := none
    tables := (im.stepPlan.map (·.entries)).getD [] }
  (s.loadCores im (fun _ => true)).loadReceives im (fun _ => true)

/-- A region's registers and state from its record (R157, R368, R438); in one set to Doze or Retain the loader writes
nothing (R375). -/
def State.loadRegion (s : State) (r : RegionRec) : State :=
  let s := s.put .RES_DISTIL_ROLE_ROLE r.role r.region
  let s := if r.state ≤ 1 then s else s.put .ARR_RAMP_STAGGER r.stagger r.region
  s.setRegion r.region { s.region r.region with
    startSlot := r.startSlot
    stackedTop := r.stackedTop
    lastRampFc := none }

/-- The input rings of the step table (R323, Table 6 of "The Training Step"). -/
def State.loadRings (s : State) : State :=
  let rings := (s.tables.filter (fun e => e.kind = 2)).mapIdx (fun i e => (i, e))
  s.each rings (fun s x =>
    s.puts x.1 [(.MEM_IN_CFG_SLOTS, x.2.slots), (.MEM_IN_CFG_DEPTH, x.2.depth), (.MEM_IN_CFG_VALID, 1),
      (.MEM_IN_SLOT_UNITS, x.2.length), (.MEM_IN_BASE_LO_ADDR, x.2.base * 4096), (.MEM_IN_BASE_HI_ADDR, x.2.base * 4096 / 2 ^ 32)])

/-- The numerics settings of an image (R324, R345). -/
def State.loadNumerics (s : State) (im : Image) : State :=
  let n := im.numerics
  let b (x : Bool) : Nat := if x then 1 else 0
  let area := if im.stepPlan.isSome then n.area else 0
  let s := s.puts 0 [(.NUM_CFG_NAN_MODE, b n.nanMode), (.NUM_LS_EN, b n.lsEn), (.NUM_LS_CFG_INIT_EXP, n.initExp),
    (.NUM_LS_CFG_CLEAN_STEPS, n.cleanSteps), (.NUM_LS_CFG_SKIP_LIMIT, n.skipLimit), (.NUM_MON_STOP_EN, b n.monStop),
    (.NUM_AREA_LO_ADDR, area), (.NUM_AREA_HI_ADDR, area / 2 ^ 32), (.NUM_PAGE_ADDR, if im.stepPlan.isSome then n.page else 0)]
  let s := s.each im.ftz (fun s c => s.put .CORE_CFG_FTZ 1 (s.crefCore c))
  s.each im.tags (fun s t =>
    let s := s.puts t.tag [(.NUM_EXP_UPDATE, b t.update), (.NUM_EXP_EN, b t.expEn),
      (.NUM_EXP_LIM_S_MIN, (BitVec.ofInt 8 t.sMin).toNat), (.NUM_EXP_LIM_S_MAX, (BitVec.ofInt 8 t.sMax).toNat),
      (.NUM_EXP_THR_RAISE_THRESH, t.raise)]
    s.setTag t.tag ({
      monEn := t.monEn
      mode := t.mode
      f := t.f
      setLo := t.lo
      setHi := t.hi } : TagState).rewindow)

/-- The TENDER registers (R361, R362). -/
def State.loadTender (s : State) (im : Image) : State :=
  match im.tender with
  | none => s
  | some t =>
    let sys := if t.mode = 1 then 0 else 1
    let s := s.puts 0 [(.RES_DISTIL_CFG_MODE, t.mode), (.RES_DISTIL_CFG_K, t.k), (.RES_DISTIL_CFG_BUFFERS, t.b),
      (.RES_DISTIL_CFG_FROZEN, (t.frozen.filter (fun f => f.2 != 0)).length), (.RES_DISTIL_TEMP_T, t.temp.toNat),
      (.RES_DISTIL_VOCAB_SIZE, t.vocab), (.RES_DISTIL_REGIONS_TEACHER, (im.regions.filter (·.role = 1)).length),
      (.RES_DISTIL_REGIONS_STUDENT, (im.regions.filter (·.role = 2)).length), (.RES_DISTIL_BAR_READY_ID, t.ready),
      (.RES_DISTIL_BAR_READY_SYS, sys), (.RES_DISTIL_BAR_FREE_ID, t.free), (.RES_DISTIL_BAR_FREE_SYS, sys)]
    s.each (t.frozen.mapIdx (fun i f => (i, f))) (fun s x =>
      s.puts x.1 [(.RES_DISTIL_FROZEN_BASE_UNITS, x.2.1), (.RES_DISTIL_FROZEN_LEN_UNITS, x.2.2)])

/-- The image's own registers. -/
def State.loadIdentity (s : State) (im : Image) : State :=
  let s := s.puts 0 [(.IMG_ARB_ARB, im.arb), (.IMG_STATE_STATE, 2), (.IMG_STATE_PATCHES, 0), (.PWR_PLAN_PLANNED_W, im.plannedW),
    (.RES_PAIR_PARTNER_ID, if im.partnerValid then im.partnerId else 0)]
  let s := s.each (List.range 16) (fun s w => s.put .IMG_DIGEST_WORD (bits im.digest.toNat (32 * w) 32) w)
  { s with patchChain := 0 }

/-- A port that the image uses: ENABLED, with the neighbour it expects; ACTIVE once its peer has enabled too (R289). -/
def State.enablePort (s : State) (r : PortRec) : State :=
  let n := r.port
  let s := s.setPort n { s.port n with expect := some r }
  let s := s.puts n [(.OPT_PORT_STATE_ENABLED, 1), (.OPT_PORT_STATE_EXPECTED, if r.expect then 1 else 0)]
  if s.get .OPT_PORT_STATE_STATE n = 4 then s.setPort' n (if s.on .OPT_PORT_STATE_PEER_ENABLED n then 7 else 6) 0 else s

/-- Whether the staged image still reads as it did: the second digest (R375). -/
def State.rereads (s : State) (addr : Nat) (im : Image) : State × Option Reject :=
  let r := s.readPhys (addr + 0x700) (im.length - 0x700)
  (r.1, r.2.elim (some (0x34, 15, 0)) (fun body => if digest body = im.digest then none else some (0x31, 15, 0)))

/-- Steps 5 to 8, and what goes with a loaded image. -/
def State.finishLoad (s : State) (im : Image) : State :=
  let s := s.loadClear
  let s := s.each im.regions (fun s r =>
    (if r.state = 0 then s else s.clearTrip r.region).moveRegion r.region (ladderOf r.state))
  let s := s.each im.regions State.loadRegion
  let s := ((s.loadRings.loadNumerics im).loadTender im).loadIdentity im
  let s := if im.stepPlan.isSome then s.initArea else s
  let s := s.each im.ports State.enablePort
  s.loadResult (0, 0, 0)

/-- The apply. Where the second reading fails, what steps 3 and 4 wrote stays written and nothing of steps 5 to 8 happens
(R375). -/
def State.applyLoad (s : State) (j : LoadJob) : State :=
  let im := j.image
  let s := s.each (s.replies ++ s.drain.toList) (fun s _ => s.endDrain 1)
  let s := s.dropDeferred.mapCores
  let s := (s.loadTables im)
  let s := (s.each im.preloads State.preload).overwritePairs im
  let s : State := { s with loading := none }
  let x := s.rereads j.addr im
  x.2.elim ((x.1.finishLoad im).loadEnd j.ctx 0 0) (fun r => { x.1 with image := none, left := some im }.rejectLoad j.ctx r)

/-- Every region that the image raises has its clock running. -/
def State.clocksRun (s : State) (im : Image) : Bool := im.raised.all (fun r => s.on .PWR_REGION_CLK r)

/-! ### Before acceptance (R373, R409, R431, R460, R492) -/

/-- RING_TOP, in bytes, as the staged image holds it, unchecked; 0 where the first section is no REGION_MAP or cannot be
read. -/
def State.peekTop (s : State) (addr : Nat) : Nat :=
  match (s.readPhys (addr + 0x700) 20).2 with
  | some bs => if bs.headD 0 = 1 then fieldAt bs 16 4 * 4096 else 0
  | none => 0

/-- A long allocation at ring address 0 covers an enabled command ring or the hosted area. -/
def State.topCovers (s : State) (top : Nat) : Bool := (s.hostedSpan :: s.enabledSpans).any (spansMeet (0, top))

/-- The status with which LOAD_IMAGE ends before the image is accepted; none where it is accepted. -/
def State.loadBar (s : State) (addr : Nat) : Option Nat :=
  if addr % 4096 != 0 || s.ringTop ≤ addr then some 0x02
  else if s.get .PWR_LADDER_MODULE != 0 then some 0x04
  else if s.ringAsleep then some 0x09
  else if s.on .FUSE_REQ_CTRL_BUSY then some 0x03
  else if !s.noJob then some 0x06
  else if s.topCovers (s.peekTop addr) then some 0x05
  else none

/-- LOAD_IMAGE: refused, rejected, or on its way to LOAD_IMAGE_DONE. -/
def State.loadImage (s : State) (c : Ctx) (addr : Nat) : State :=
  match s.loadBar addr with
  | some 0x06 => (s.loadResult (0x30, 15, 0)).loadEnd (some c) 0x06 0x30
  | some st => s.loadEnd (some c) st 0
  | none =>
    match s.unload.inspect 0 addr with
    | (s, .error r) => s.rejectLoad (some c) r
    | (s, .ok (_, p)) =>
      match s.stages p (some addr) with
      | some r =>
        let s := if r.1 = 0x1A then s.refusePorts p.im else s
        s.rejectLoad (some c) r
      | none => { s.raiseRegions p.im with loading := some ⟨some c, addr, p.im⟩ }

end Sys2Proof.Machine
end

