-- ==== Sys2Proof/Machine/TxnOps.lean ====
section
/-!
DEFINITION. Transactions (R379 to R387) beyond their apply: the checks of a commit, region patches (R388 to R390), and the
resets of a requester (R386).
-/
namespace Sys2Proof.Machine

/-- TXN_STATE.REQUESTER of a source (Table 15). -/
def requesterOf : CmdSource → Nat
  | .ring _ => 0
  | .mailbox => 0
  | .oobSmbus => 1
  | .oobPcie => 2

/-! ### The checks of a commit (R380 to R383) -/

/-- The numerics items that are per tag (Table 11). -/
def perTag (item : Nat) : Bool := item = 0x14 || (0x20 ≤ item && item ≤ 0x28)

/-- The largest value of a numerics item by itself; the two's-complement limits have their own check. -/
def numLimit (item : Nat) : Nat :=
  match item with
  | 0x0001 => 24
  | 0x0002 => 65535
  | 0x0003 => 255
  | 0x0023 => 2 ^ 32 - 1
  | 0x0026 => 2 ^ 32 - 1
  | 0x0027 => 2 ^ 32 - 1
  | 0x0028 => 15
  | _ => 1

/-- An update-exponent limit, a 64-bit value in two's complement, from lo to hi (log entry 43). -/
def limitOk (v : Nat) (lo hi : Int) : Bool := lo ≤ signed v 64 && signed v 64 ≤ hi

/-- The range of a numerics item (R324). -/
def numRangeOk (item v : Nat) : Bool :=
  if item = 0x21 then limitOk v (-64) 0
  else if item = 0x22 then limitOk v 0 63
  else if item = 0x26 || item = 0x27 then v ≤ numLimit item && boundOk (BitVec.ofNat 32 v)
  else v ≤ numLimit item

/-- The code with which a staged item fails by itself (R381, R387); none where it passes. -/
def State.itemCode (s : State) (sc : Nat) (k : Word) (v : Nat) : Option Nat :=
  let item := keyItem k
  if keyScope k != sc || (keyIndex k != 0 && !(sc = 2 && perTag item)) then some 1
  else
    match sc with
    | 0 => if item != 1 then some 1 else if v % 4096 != 0 || s.ringTop ≤ v then some 2 else none
    | 1 =>
      if item = 1 then (if 2 < v then some 2 else none)
      else if item = 2 then
        if 1 < v then some 2 else if v = 1 && 2 ≤ s.shadowBank.orderCode.toNat then some 4 else none
      else some 1
    | 2 =>
      if (0x10 ≤ item && item ≤ 0x14) || (0x40 ≤ item && item ≤ 0x47) then some 3
      else if (1 ≤ item && item ≤ 4) || (0x20 ≤ item && item ≤ 0x28) then (if numRangeOk item v then none else some 2)
      else some 1
    | _ => if item = 1 then (if 16383 < v then some 2 else none) else if item = 2 then (if 65535 < v then some 2 else none) else some 1

/-- The settings of a tag as a transaction would leave them. -/
def State.tagAfter (s : State) (t : Txn) (tag : Nat) : TagState :=
  t.items.foldl (fun (x : TagState) (kv : Word × BitVec 64) =>
    let w := BitVec.ofNat 32 kv.2.toNat
    if keyIndex kv.1 != tag then x
    else match keyItem kv.1 with
      | 0x25 => { x with mode := kv.2.toNat != 0 }
      | 0x26 => { x with setLo := w }
      | 0x27 => { x with setHi := w }
      | 0x28 => { x with f := kv.2.toNat }
      | _ => x) (s.tag tag)

/-- A staged item takes part in a resulting setting of its tag that breaks R325: a window with LO above HI, or MODE 1 with
F 0. -/
def State.itemClashes (s : State) (t : Txn) (k : Word) : Bool :=
  let x := s.tagAfter t (keyIndex k)
  match keyItem k with
  | 0x25 => x.mode && x.f = 0
  | 0x28 => x.mode && x.f = 0
  | 0x26 => !windowOk x.setLo x.setHi
  | 0x27 => !windowOk x.setLo x.setHi
  | _ => false

/-- The first failing item of a commit, with its code (R380, R382). -/
def State.commitBad (s : State) (sc : Nat) : Option (Nat × Nat) :=
  let t := s.txn sc
  let items := t.items.mapIdx (fun i kv => (i, kv))
  match items.findSome? (fun x => (s.itemCode sc x.2.1 x.2.2.toNat).map (fun c => (c, x.1))) with
  | some r => some r
  | none =>
    if sc = 0 && (t.find 1).isNone then some (2, 0)
    else if sc = 2 then (items.find? (fun x => s.itemClashes t x.2.1)).map (fun x => (2, x.1))
    else none

/-- Admission of a commit (R383, Table 12): the code with which it fails, in the order 0x09, 0x07, 0x06. -/
def State.commitBar (s : State) (sc : Nat) (quiet : Bool) : Option Nat :=
  if s.get .TXN_STATE_STATE sc != 1 then some 9
  else if (sc = 0 || sc = 2) && s.get .IMG_STATE_STATE != 2 then some 7
  else if sc = 0 && (quiet || !s.noJob) then some 6
  else if sc = 3 && !quiet && s.on .RES_STEP_STATE_PHASE then some 6
  else none

/-! ### Region patches (R388 to R390) -/

/-- A region of the transaction's set. -/
def inSet (set : RegionSet) (r : Nat) : Bool := set.getLsbD r

/-- The regions that records of each kind belong to (R389); a ring block of PRELOAD names no core and belongs to none. -/
def RouteItem.regionOf : RouteItem → Nat
  | .route r => routerRegion r.at'.router
  | .entry r => routerRegion r.at'.router
  | .remote r => r.core.region
  | .receive r => portRegion r.port
  | .port r => portRegion r.port
def TreeItem.regionOf : TreeItem → Nat
  | .tree r => r.root.region
  | .fork r => routerRegion r.at'.router
def BarItem.regionOf : BarItem → Nat
  | .barrier r => routerRegion r.root.router
  | .member r => r.core.region
  | .node r => routerRegion r.at'.router
def PreloadRec.outside (set : RegionSet) (b : PreloadRec) : Bool := b.target = 4 || !inSet set b.core.region

/-- The first record of a patch outside the region set, or a REGION_MAP that is not the set (code 0x32). -/
def Parsed.patchSpot (p : Parsed) (set : RegionSet) : Spot :=
  let named : RegionSet := p.im.regions.foldl (fun n r => n ||| BitVec.ofNat 400 (2 ^ r.region)) 0
  spotFirst [
    if named = set then none else some (1, 0),
    spotIn 2 0 p.routeItems (fun x => !inSet set x.regionOf),
    spotIn 3 0 p.im.sources (fun x => !inSet set x.core.region),
    spotIn 4 0 p.treeItems (fun x => !inSet set x.regionOf),
    spotIn 5 0 p.barItems (fun x => !inSet set x.regionOf),
    spotIn 6 0 p.im.programs (fun x => !inSet set x.core.region),
    spotIn 7 0 p.im.preloads (·.outside set)]

/-- The whole image that a patch makes of the loaded one (R390): the tables within the set are the patch's, and a port keeps
its record unless the patch has one for it. -/
def Image.patched (old new : Image) (set : RegionSet) : Image :=
  let keep {α : Type} (reg : α → Nat) (xs ys : List α) : List α := xs.filter (fun x => !inSet set (reg x)) ++ ys
  { old with
    regions := keep (·.region) old.regions new.regions
    routes := keep (fun r => routerRegion r.at'.router) old.routes new.routes
    entries := keep (fun r => routerRegion r.at'.router) old.entries new.entries
    remotes := keep (·.core.region) old.remotes new.remotes
    receives := keep (fun r => portRegion r.port) old.receives new.receives
    ports := old.ports.filter (fun r => !new.ports.any (·.port = r.port)) ++ new.ports
    sources := keep (·.core.region) old.sources new.sources
    trees := keep (·.root.region) old.trees new.trees
    forks := keep (fun r => routerRegion r.at'.router) old.forks new.forks
    barriers := keep (fun r => routerRegion r.root.router) old.barriers new.barriers
    members := keep (·.core.region) old.members new.members
    nodes := keep (fun r => routerRegion r.at'.router) old.nodes new.nodes
    programs := keep (·.core.region) old.programs new.programs
    preloads := old.preloads.filter (·.outside set) ++ new.preloads
    slack := old.slack ++ new.slack }

/-- The state in which a patch's ports are judged: a link that the loaded image has enabled counts as TRAINED, since the
apply disables and enables it again (R390). -/
def State.portsTrained (s : State) : State :=
  s.each (s.fittedPorts.filter (fun n => 6 ≤ s.get .OPT_PORT_STATE_STATE n && s.get .OPT_PORT_STATE_STATE n ≤ 7))
    (fun s n => s.put .OPT_PORT_STATE_STATE 4 n)

/-- What a staged patch comes to: the resulting whole image, with the patch's own records and digest, or the reject
code. -/
def State.judgePatch (s : State) (addr : Nat) (set : RegionSet) : State × Except Reject (Image × Image × BitVec 512) :=
  match s.inspect 1 addr, s.image with
  | (s, .error e), _ => (s, .error e)
  | (s, .ok _), none => (s, .error (0x32, 0, 0))
  | (s, .ok (h, p)), some old =>
    if h.baseDigest != old.digest then (s, .error (0x32, 0, 0))
    else
      match p.patchSpot set with
      | some (sec, rec) => (s, .error (0x32, sec, rec))
      | none =>
        let whole := old.patched p.im set
        match s.portsTrained.stages whole.parsed (some addr) with
        | some r => (s, .error r)
        | none => (s, .ok (whole, p.im, h.digest))

/-- The apply of a patch (R390). Every port of the resulting image that is attached within the set is enabled again. -/
def State.applyPatch (s : State) (whole new : Image) (digest : BitVec 512) (set : RegionSet) : State :=
  let mine (p : Nat) : Bool := inSet set (coreRegion p)
  let ports := s.fittedPorts.filter (fun n => inSet set (portRegion n))
  let s := s.each ports (fun s n =>
    let p := s.port n
    let s := s.setPort n { p with
      tx := []
      rx := []
      relays := []
      expect := none }
    let st := s.get .OPT_PORT_STATE_STATE n
    let s := s.puts n [(.OPT_PORT_STATE_ENABLED, 0), (.OPT_PORT_STATE_EXPECTED, 0)]
    if st = 6 || st = 7 then s.setPort' n 4 0 else s)
  let m := s.defectMap
  let clusters := (List.range 1600).filter (fun c => inSet set (clusterRegion c))
  let s : State := { s with
    carried := clusters.foldl (fun x c => mset 0 x c (carriedIn m c)) s.carried
    loadedDefects := s.loadedDefects.filter (fun d => !(defKind d ≤ 3 && inSet set (defRegion d))) ++
      m.filter (fun d => defKind d ≤ 3 && inSet set (defRegion d))
    image := some whole
    cores := (s.cores.map (fun e => if mine e.1 then (e.1, { e.2 with
      istore := []
      adesc := []
      sdesc := []
      remotes := [] }) else e)).filter (fun e => e.2 != {}) }
  let s := (s.loadCores new mine).loadReceives new (fun _ => true)
  let s := s.each new.preloads State.preload
  let s := s.each (whole.ftz.filter (fun c => inSet set c.region)) (fun s c => s.put .CORE_CFG_FTZ 1 (s.crefCore c))
  let s := s.each new.regions (fun s r => (s.moveRegion r.region (ladderOf r.state)).loadRegion r)
  let s := if whole.tender.isSome then
      s.puts 0 [(.RES_DISTIL_REGIONS_TEACHER, (whole.regions.filter (·.role = 1)).length),
        (.RES_DISTIL_REGIONS_STUDENT, (whole.regions.filter (·.role = 2)).length)]
    else s
  let s := s.each (whole.ports.filter (fun r => inSet set (portRegion r.port))) State.enablePort
  let s := s.bump .IMG_STATE_PATCHES
  { s with patchChain := Machine.digest (leBytes 64 s.patchChain.toNat ++ leBytes 64 digest.toNat) }

/-- IMG_RESULT and IMG_ITEM of a patch, with its event. -/
def State.patchResult (s : State) (r : Reject) : State :=
  let s := s.puts 0 [(.IMG_RESULT_CODE, r.1), (.IMG_RESULT_PATCH, 1), (.IMG_ITEM_SECTION, r.2.1), (.IMG_ITEM_RECORD, r.2.2)]
  s.event 0x0702 clsNone r.2.1 r.1 r.2.2

/-! ### The commands -/

/-- Completes a transaction command. -/
def State.txnDone (s : State) (c : Ctx) (op code r0 : Nat) : State :=
  s.complete c op (if code = 0 then 0 else 0x06) code r0 0

/-- TXN_BEGIN (R379, Table 5 of "Host Attachment"). -/
def State.txnBegin (s : State) (c : Ctx) (sc : Nat) (set : RegionSet) : State :=
  if (sc = 0) = (set = 0) then s.complete c 0x0010 0x02 0 0 0
  else if s.on .TXN_STATE_STATE sc then s.txnDone c 0x0010 9 0
  else
    let s := (s.puts sc [(.TXN_STATE_STATE, 1), (.TXN_STATE_REQUESTER, requesterOf c.src), (.TXN_STATE_ITEMS, 0),
      (.TXN_COND_VALID, 0), (.TXN_COND_OUTLET, 0), (.TXN_COND_REGION, 0)]).count .TXN_AGE_SEQ 1 sc
    let s := s.setTxn sc {
      regions := set
      timeout := s.get .TXN_TIMEOUT_SECONDS
      startFc := s.fc }
    s.txnDone c 0x0010 0 (s.get .TXN_AGE_SEQ sc)

/-- The place of a key among the staged items, and the items with it staged (R380). -/
def stageItem (items : List (Word × BitVec 64)) (k : Word) (v : BitVec 64) : Nat × List (Word × BitVec 64) :=
  match items.findIdx? (·.1 = k) with
  | some i => (i, items.map (fun e => if e.1 = k then (k, v) else e))
  | none => (items.length, items ++ [(k, v)])

/-- TXN_WRITE (R380). -/
def State.txnWrite (s : State) (c : Ctx) (k : Word) (v : BitVec 64) : State :=
  let sc := keyScope k
  if 4 ≤ sc || s.get .TXN_STATE_STATE sc != 1 then s.txnDone c 0x0011 9 0
  else
    let t := s.txn sc
    if 4096 ≤ t.items.length then s.complete c 0x0011 0x03 0 0 0
    else
      let (i, items) := stageItem t.items k v
      ((s.setTxn sc { t with items }).put .TXN_STATE_ITEMS items.length sc).txnDone c 0x0011 0 i

/-- An immediate apply of scopes 1 to 3: the command ends with the transaction's code, or waits for a pairing exchange. -/
def State.commitNow (s : State) (c : Ctx) (sc : Nat) : State :=
  let s := s.applyTxn sc
  if s.get .TXN_STATE_STATE sc = 3 then
    { s with pairing := s.pairing.map (fun j => { j with ctx := some c }) }
  else s.txnDone c 0x0012 (s.get .TXN_RESULT_CODE sc) 0

/-- A region-set commit, its checks passed: the patch is judged and applied, once every region it raises has its clock
(R390). -/
def State.commitPatch (s : State) (c : Ctx) : State :=
  let t := s.txn 0
  let (item, addr) := (t.find 1).getD (0, 0)
  match s.judgePatch addr t.regions with
  | (s, .error r) => ((s.patchResult r).endTxn 0 2 5 item).txnDone c 0x0012 5 0
  | (s', .ok (whole, new, d)) =>
    let up := s'.raiseRegions new
    if !up.clocksRun new then s
    else (((up.applyPatch whole new d t.regions).patchResult (0, 0, 0)).endTxn 0 1 0 0).txnDone c 0x0012 0 0

/-- TXN_COMMIT (R382 to R385, R460). -/
def State.txnCommit (s : State) (c : Ctx) (sc : Nat) (quiet : Bool) : State :=
  match s.commitBar sc quiet with
  | some 9 => s.txnDone c 0x0012 9 0
  | some code => (s.endTxn sc 2 code 0).txnDone c 0x0012 code 0
  | none =>
    if sc = 0 && s.on .FUSE_REQ_CTRL_BUSY then s.complete c 0x0012 0x03 0 0 0
    else
      match s.commitBad sc with
      | some (code, item) => (s.endTxn sc 2 code item).txnDone c 0x0012 code 0
      | none =>
        if sc = 0 then s.commitPatch c
        else if quiet && s.on .RES_STEP_STATE_PHASE then (s.put .TXN_STATE_STATE 2 sc).txnDone c 0x0012 0 1
        else if sc = 3 && s.pairing.isSome then s
        else s.commitNow c sc

/-- TXN_ROLLBACK (R386). -/
def State.txnRollback (s : State) (c : Ctx) (sc : Nat) : State :=
  let st := s.get .TXN_STATE_STATE sc
  if st = 1 || st = 2 then (s.endTxn sc 3 0 0).txnDone c 0x0013 0 0 else s.txnDone c 0x0013 9 0

/-- The reset of a requester: its transactions that are open, or pending and not locked, are rolled back (R386). -/
def State.requesterReset (s : State) (who : Nat) : State :=
  s.each [0, 1, 2, 3] (fun s sc =>
    let st := s.get .TXN_STATE_STATE sc
    if (st = 1 || st = 2) && s.get .TXN_STATE_REQUESTER sc = who then (s.endTxn sc 5 0 0).raise 8 else s)

end Sys2Proof.Machine
end

