-- ==== Sys2Proof/Machine/JobOps.lean ====
section
/-!
DEFINITION. RUN and HALT (R70, R306, R343), LADDER (R431, R432), and the pairing exchange (R488 to R493).
-/
namespace Sys2Proof.Machine

/-! ### RUN: the numerics area is read (R343) -/

/-- A value limited to a range, with event 0x0606 where it lay outside. -/
def State.limited (s : State) (tag : Nat) (v lo hi : Int) : State × Int :=
  if v < lo then (s.event 0x0606 clsNone tag 0 (BitVec.ofInt 32 v).toNat, lo)
  else if hi < v then (s.event 0x0606 clsNone tag 0 (BitVec.ofInt 32 v).toNat, hi)
  else (s, v)

/-- The header's values: L, CLEAN, CONSEC, SETTLE_LEFT. -/
def State.takeHeader (s : State) (bs : List Byte) : State :=
  let at' (o : Nat) : Int := signed (leNat ((bs.drop o).take 4)) 32
  let (s, l) := if s.on .NUM_LS_EN then s.limited 0 (at' 0) 0 24 else (s, 0)
  let (s, clean) := s.limited 0 (at' 12) 0 65535
  let (s, consec) := s.limited 0 (at' 16) 0 255
  let (s, settle) := s.limited 0 (leNat ((bs.drop 20).take 4) % 16 : Nat) 0 8
  s.puts 0 [(.NUM_LS_EXP, l.toNat), (.NUM_LS_CLEAN, clean.toNat), (.NUM_LS_STAT_CONSEC, consec.toNat),
    (.NUM_MON_SETTLE_LEFT, settle.toNat)]

/-- A table line whose entry the area holds otherwise than the module is written by the next apply (R340, R346). -/
def State.markIf (s : State) (differs : Bool) (i : Nat) : State := if differs then s.mark i else s

/-- A tag's exponent, reference and count, from its two table entries of 16 bytes. -/
def State.takeTag (s : State) (t : Nat) (e w : List Byte) : State :=
  let v := signed (leNat (e.take 4)) 32
  let (s, v) := s.limited t v (signed (s.get .NUM_EXP_LIM_S_MIN t) 8) (signed (s.get .NUM_EXP_LIM_S_MAX t) 8)
  let s := if v = s.tagExp t then s else s.putExp t v
  let x := s.tag t
  let s := s.setTag t ({ x with
    ref := BitVec.ofNat 32 (leNat ((w.drop 8).take 4))
    n := BitVec.ofNat 32 (leNat ((w.drop 12).take 4)) } : TagState).rewindow
  (s.markIf (s.expEntry t != e) (expLine t)).markIf (s.windowEntry t != w) (windowLine t)

/-- Every tag's entries, tag by tag. -/
def takeTags : Nat → Nat → List Byte → List Byte → State → State
  | 0, _, _, _, s => s
  | k + 1, t, es, ws, s => takeTags k (t + 1) (es.drop 16) (ws.drop 16) (s.takeTag t (es.take 16) (ws.take 16))

/-- RUN reads the area: false where an uncorrectable error is met (R534). -/
def State.readArea (s : State) : State × Bool :=
  match ({ s with dirty := [] } : State).readPhys s.areaBase 64 with
  | (s, none) => (s, false)
  | (s, some h) => (match s.readPhys (s.areaBase + 0x1000) 0x10000 with
    | (s, none) => (s, false)
    | (s, some es) => (match s.readPhys (s.areaBase + 0x11000) 0x10000 with
      | (s, none) => (s, false)
      | (s, some ws) => (takeTags 4096 0 es ws (s.takeHeader h), true)))

/-! ### RUN: the release -/

/-- A used core as RUN leaves it (R70, R305). -/
def CoreState.atRun (c : CoreState) (step : BitVec 64) (buf : Bool) : CoreState :=
  { c with
    sregs := []
    preds := 1
    loops := []
    active := []
    vregs := []
    posted := false
    ready := []
    sfuUntil := 0
    posts := []
    releases := []
    arr := { c.arr with ended := false }
    step
    bufSel := buf
    mayWriteUnique := false }

/-- Fields that RUN clears (R117, R195, R269, R298, R304, R329, R338, R345, R451, R514). -/
def runCleared : List Field :=
  [.CORE_TRAP_CAUSE, .CORE_TRAP_SLOT, .CORE_TRAP_INFO, .CORE_TRAP_PC_PC, .CORE_ISSUED_COUNT, .CORE_STALLS_COUNT, .CORE_FLAGS_OVF16,
   .MESH_RTR_FLITS_COUNT, .MESH_RTR_STALL_COUNT, .MESH_HOLD_MAX_FC, .MESH_HOLD_MAX_TREE, .MESH_BAR_STATE_RELEASES,
   .OPT_PORT_TX_FLITS, .OPT_PORT_RX_FLITS, .PWR_PLAN_PEAK_W, .PWR_REGION_SKIP_UNITS, .THERM_REGION_PEAK_TJ,
   .RES_FAULT_CAUSE, .RES_FAULT_PHASE, .RES_FAULT_LOCAL_VALID, .RES_FAULT_BUF_SEL, .RES_FAULT_REGION, .RES_FAULT_STEP_STEP,
   .RES_RESTORE_DONE, .RES_STEP_STATE_STOPPED, .NUM_MON_RATIO_STOP, .NUM_RESTART_DONE]

/-- The first quiet point of a run (R306). -/
def State.firstQuiet (s : State) : State :=
  { (s.put .RES_STEP_STATE_PHASE 7) with quiet := some {
      first := true
      startFc := s.fc
      stopAt := false
      ratioStop := false
      applied := false
      committed := false
      starved := false
      starvedRings := []
      secureCounted := false } }.checkStarved

/-- What RUN clears, and the cores at their start. -/
def State.runReset (s : State) : State :=
  let s := ((s.wipe runCleared).wipe nanFields).wipe latchFields
  let s := s.setStep s.startStep
  let buf := s.on .RES_STEP_CTRL_START_BUF
  let s := (s.flag .RES_STEP_STATE_BUF_SEL buf).puts 0 [(.RES_STEP_STATE_MICRO, 0), (.RES_STEP_STATE_STABLE, 0)]
  let s : State := { s with
    barriers := []
    arrivals := []
    ports := (s.ports.map (fun e => (e.1, { e.2 with logged := false }))).filter (fun e => e.2 != {})
    regions := (s.regions.map (fun e => (e.1, { e.2 with lastRampFc := none, skipped := 0 }))).filter (fun e => e.2 != {})
    v := false
    skip := false
    ran := true
    faulted := false
    uniqueBad := false
    redrain := false
    lastDrain := none
    scheduled := false
    lastGateFc := none }
  s.each s.usedCores (fun s p =>
    (s.setCore p ((s.core p).atRun (BitVec.ofNat 64 s.stepCount) buf)).puts p [(.CORE_PC_PC, 0), (.CORE_STATUS_STALLED, 0),
      (.CORE_STATUS_IN_BWAIT, 0)])

/-- Planned power above the cap of the active profile is recorded at RUN (R28). -/
def State.plannedEvent (s : State) : State :=
  let w := s.get .PWR_PLAN_PLANNED_W
  let cap := profileCap (s.get .PWR_CAP_PROFILE)
  if cap < w then s.event 0x0105 clsNone 0 cap w else s

/-- The cores are released. -/
def State.release' (s : State) : State :=
  let s := s.each s.usedCores (fun s p => s.put .CORE_STATUS_STATE 1 p)
  let s : State := { s with
    job := true
    runFc := s.fc }
  if s.usedCores.isEmpty then s.checkComplete else s

/-- Why RUN does not run: status and DETAIL (Table 5 of "Host Attachment", R344, R431, R477, R480; log entry 46 for a
region of the image that cannot be brought to its state). DESIGN CHOICE (log entry 152): driven scan chains go before the
coolant check, which goes before the rest. -/
def State.runBar (s : State) : Option (Nat × Nat) :=
  if s.scanDriven then some (0x08, 0)
  else if s.get .RES_COOL_CHECK_STATE != 2 then some (0x04, 0x10)
  else if s.get .IMG_STATE_STATE != 2 || s.job || !s.noJob || s.get .PWR_LADDER_MODULE != 0 then some (0x04, 0)
  else if s.on .NUM_RESTART_BUSY then some (0x03, 0)
  else if s.image.any (fun im => im.raised.any s.regionStuck) then some (0x04, 0)
  else none

/-- RUN (R70). -/
def State.runJob (s : State) (c : Ctx) : State :=
  match s.runBar, s.image with
  | some (st, d), _ => s.complete c 0x0020 st d 0 0
  | none, none => s.complete c 0x0020 0x04 0 0 0
  | none, some im =>
    let s := s.each im.regions (fun s r => s.moveRegion r.region (ladderOf r.state))
    let plan := s.hasPlan
    match (if plan then s.readArea else (s, true)) with
    | (s, false) => s.complete c 0x0020 0x0A 0 0 0
    | (s, true) =>
      let s := s.runReset.plannedEvent
      let s := if plan then
          (s.firstQuiet.recommend.writePages s.usedCores false).flag .RES_RESTORE_PAIRS_INTACT
            (s.pairsIntact s.startStep (s.on .RES_STEP_CTRL_START_BUF))
        else s
      s.release'.complete c 0x0020 0 0 0 0

/-- A HALT completes once no pending commit is left: one of a partner waits for its pairing exchange (R411). -/
def State.finishHalt (s : State) : State :=
  match s.halting with
  | some c =>
    if 2 ≤ s.get .TXN_STATE_STATE 3 then s
    else ({ s with halting := none } : State).complete c 0x0021 0 0 0 0
  | none => s

/-- HALT (R70, R257, R411): the job's cores and watchdogs stop, and its pending commits are applied before it completes. -/
def State.haltJob (s : State) (c : Ctx) : State :=
  if s.job then ({ s.stopJob.dropDeferred with halting := some c } : State).finishHalt
  else s.complete c 0x0021 0 1 0 0

/-! ### LADDER (R431, R432) -/

/-- The regions of a set. -/
def setRegions (set : RegionSet) : List Nat := (List.range 400).filter (fun r => set.getLsbD r)

/-- The lowest DETAIL whose condition holds (R432). -/
def State.ladderDetail (s : State) (target : Nat) (isSet : Bool) (set : RegionSet) : Option Nat :=
  let busy := !s.noJob
  if !isSet then (if target != 0 && busy then some 1 else none)
  else
    let rs := setRegions set
    let engaged := rs.any s.engaged
    let m := s.defectMap
    if busy && (target ≤ 1 || (target ≤ 3 && engaged)) then some 1
    else if rs.any (fun r => regionBarred m r || s.regionStuck r) then some 2
    else if target < s.get .PWR_LADDER_MODULE then some 3
    else if target = 4 && engaged then some 4
    else none

/-- LADDER. -/
def State.ladder (s : State) (c : Ctx) (target : Nat) (isSet : Bool) (set : RegionSet) : State :=
  if 4 < target || (isSet && set = 0) then s.complete c 0x0040 0x02 0 0 0
  else
    match s.ladderDetail target isSet set with
    | some d => s.complete c 0x0040 0x04 d 0 0
    | none => { s with laddering := some ⟨c, target, isSet, set, s.fc⟩ }

/-- The transition of a ladder request ends: below Poise only once the coolant check has (R477). -/
def State.ladderDone (s : State) : State :=
  match s.laddering with
  | none => s
  | some j =>
    if s.coolChecking && 2 ≤ j.target then s
    else
      let s : State := { s with laddering := none }
      let s := if j.isSet then s.each (setRegions j.regions) (fun s r => s.moveRegion r j.target) else s.moveModule j.target
      s.complete j.ctx 0x0040 0 0 ((s.fc - j.startFc) / fcPerAc) 0

/-! ### The pairing exchange (R488 to R491) -/

/-- Two modules share a feed (R66): an unset site tag equals every other, an unstrapped feed every feed. -/
def sharesFeed (a b : PairTags) : Bool :=
  let eq (x y : BitVec 4) : Bool := x = y || x = 15 || y = 15
  (a.site = b.site || a.site = 0 || b.site = 0) &&
    (eq a.feedA b.feedA || eq a.feedA b.feedB || eq a.feedB b.feedA || eq a.feedB b.feedB)

/-- Bytes of a copy slot of an area of 4 KiB units: half of it, in whole units (R492). -/
def slotBytes (units : Nat) : Nat := units / 2 * 4096

/-- The refusal that a partner's reply brings (Table 3; log entry 45). -/
def State.replyBar (s : State) (r : PairReply) : Option Nat :=
  let own := s.ownTags
  if sharesFeed own r.tags && !s.shadowBank.pairShared then some 2
  else if slotBytes r.hostUnits < 4096 + own.uniqueUnits * 4096 then some 3
  else if r.hosts.any (fun m => m != own.moduleId) then some 4
  else none

/-- A partner takes effect (R488, R491). -/
def State.pairUp (s : State) (m : Nat) (r : PairReply) : State :=
  let shared := sharesFeed s.ownTags r.tags
  let s := s.puts 0 [(.RES_PAIR_PARTNER_ID, m), (.RES_PAIR_IN_EFFECT, 1), (.RES_PAIR_VERIFIED, 1),
    (.RES_PAIR_SHARED, if shared then 1 else 0), (.RES_PAIR_REFUSAL, 0)]
  let s := ({ s with partnerTags := some r.tags }).pairEvent m 0
  if shared then s.event 0x0909 clsNone m 0 0 else s

/-- The end of an exchange that a commit made: its transaction is applied or fails (R385). -/
def State.pairCommitEnd (s : State) (c : Option Ctx) (refusal : Option Nat) : State :=
  let t := s.txn 3
  let item := ((t.find 1).map (·.1)).getD 0
  let s := match refusal with
    | some _ => s.endTxn 3 2 0x0A item
    | none => ((t.find 2).elim s (fun x => s.put .MNT_SEC_SET x.2)).endTxn 3 1 0 0
  match c with
  | some c => s.txnDone c 0x0012 (if refusal.isSome then 0x0A else 0) 0
  | none => s.raise 8

/-- PAIRING_EXCHANGE_END (R490): a reply, or none within 100 ms. -/
def State.pairEnd (s : State) (j : PairJob) (reply : Option PairReply) : State :=
  let refusal := match reply with
    | none => some 5
    | some r => s.replyBar r
  let s : State := { s with pairing := none }
  let s := match refusal, reply with
    | none, some r => s.pairUp j.partner r
    | some d, _ => (s.put .RES_PAIR_REFUSAL d).pairEvent j.partner d
    | none, none => s
  let s :=
    if j.commit then s.pairCommitEnd j.ctx refusal
    else
      let s := match j.ctx with
        | some c => s.complete c 0x0031 (if refusal.isSome then 0x06 else 0) (refusal.getD 0) 0 0
        | none => s
      if s.on .RES_STEP_STATE_PHASE then s.applyWhere s.commitDue else s.applyPending
  s.settleQuiet.finishHalt

/-- PAIR: refused at once, or an exchange begins. -/
def State.pair (s : State) (c : Ctx) (m : Nat) : State :=
  match s.pairBar m with
  | some d => ((s.put .RES_PAIR_REFUSAL d).pairEvent m d).complete c 0x0031 0x06 d 0 0
  | none => if s.pairing.isSome then s else s.beginPairing (some c) m false

/-- What this module replies to a pairing exchange (R490). -/
def State.hostingReply (s : State) : PairReply where
  tags := s.ownTags
  hostUnits := s.get .MNT_HOST_UNITS_UNITS
  hosts := if s.on .MNT_HOST_SRC_VALID then some (BitVec.ofNat 14 (s.get .MNT_HOST_SRC_MODULE_ID)) else none

/-- PAIRING_EXCHANGE_RECEIVED (R490, R492): this module, as partner, takes a source whose copies fit and who shares no
feed without an allowance; one that hosts another source keeps it. It replies with its own tags and its hosting state. -/
def State.pairReceived (s : State) (n : Nat) (src : PairTags) : State :=
  let known := s.portUp n && s.on .OPT_PORT_PEER_VALID n && s.get .OPT_PORT_PEER_MODULE_ID n = src.moduleId.toNat
  let other := s.on .MNT_HOST_SRC_VALID && s.get .MNT_HOST_SRC_MODULE_ID != src.moduleId.toNat
  let room := 4096 + src.uniqueUnits * 4096 ≤ slotBytes (s.get .MNT_HOST_UNITS_UNITS)
  let s := if known && !other && room && (s.shadowBank.pairShared || !sharesFeed s.ownTags src) then
      s.puts 0 [(.MNT_HOST_SRC_MODULE_ID, src.moduleId.toNat), (.MNT_HOST_SRC_VALID, 1)]
    else s
  if known then s.tell src.moduleId.toNat (.reply s.hostingReply) else s

end Sys2Proof.Machine
end

