-- ==== Sys2Proof/Machine/MaintOps.lean ====
section
/-!
DEFINITION. Maintenance activities (R505, R507 to R510): parameters, conditions, the queue, and what each activity does.
-/
namespace Sys2Proof.Machine

/-! ### Parameters (Table 5, R509) -/

/-- Bytes lo to hi − 1 of an activity's parameters (descriptor bytes 16 + lo on). -/
def pfield (p : List Byte) (lo hi : Nat) : Nat := leNat ((p.drop lo).take (hi - lo))

/-- Every parameter byte that no field of ranges (from, to) covers is zero. -/
def pclear (p : List Byte) (fields : List (Nat × Nat)) : Bool :=
  (List.range 48).all (fun i => p.getD i 0 = 0 || fields.any (fun f => f.1 ≤ i && i < f.2))

/-- FIRST and COUNT at a place: 1 to 400 regions that exist. -/
def spanOk (p : List Byte) (lo : Nat) : Bool :=
  let n := pfield p (lo + 2) (lo + 4)
  0 < n && pfield p lo (lo + 2) + n ≤ 400

/-- The regions of FIRST and COUNT. -/
def spanRegions (p : List Byte) (lo : Nat) : List Nat :=
  (List.range (pfield p (lo + 2) (lo + 4))).map (pfield p lo (lo + 2) + ·)

/-- A defect entry that Table 7 admits. -/
def entryOk (d : Word) : Bool :=
  let l := bits d.toNat 0 17
  let cl := bits l 0 6 < 40 && bits l 6 6 < 40
  bits d.toNat 17 7 = 0 && defCause d ≤ 13 && (match defKind d with
    | 1 => cl && bits l 12 5 ≤ 16
    | 2 => cl && bits l 12 5 ≤ 16
    | 3 => cl && bits l 13 4 = 0
    | 4 => decide (l < 400)
    | 5 => decide (l < 36)
    | 6 => decide (l < 160)
    | _ => false)

/-- The parameters are in range, and every byte the activity does not use is zero (R407, R507; log entry 40). -/
def maintParams (code : Nat) (p : List Byte) : Bool :=
  match code with
  | 0 => spanOk p 0 && pclear p [(0, 4)]
  | 1 => (pfield p 0 1 = 1 || (pfield p 0 1 = 0 && spanOk p 2)) && pclear p [(0, 1), (2, 6)]
  | 2 => pclear p []
  | 3 => pclear p []
  | 4 => pclear p []
  | 5 => spanOk p 0 && pclear p [(0, 4)]
  | 6 => pfield p 0 1 ≤ 2 && pclear p [(0, 1), (8, 16)]
  | 7 =>
    let e := BitVec.ofNat 32 (pfield p 4 8)
    pclear p [(0, 1), (4, 8)] && (if pfield p 0 1 = 2 then 1 ≤ defKind e && defKind e ≤ 6 && bits e.toNat 0 29 = 0
      else pfield p 0 1 ≤ 1 && entryOk e)
  | _ => false

/-! ### Conditions (Table 5) and compatibility (Table 6) -/

/-- Whether an activity is allowed now. -/
def State.maintAllowed (s : State) (code : Nat) (p : List Byte) : Bool :=
  match code with
  | 0 => !s.job || (spanRegions p 0).all (fun r => s.imageLadder r != 0)
  | 2 => s.noJob
  | 3 => s.noJob
  | 5 => (spanRegions p 0).all (fun r => s.get .PWR_REGION_STATE r != 0)
  | 6 => s.noJob && (match pfield p 0 1 with
    | 0 => s.on .RES_FAULT_LOCAL_VALID || s.on .RES_STEP_STATE_STOPPED
    | 1 => s.get .IMG_STATE_STATE = 2
    | _ => true)
  | _ => true

/-- Two activities may run together. -/
def mayMeet (a b : Nat) : Bool :=
  a != b && !([(0, 1), (1, 2), (2, 6), (2, 7), (3, 6), (4, 7)].contains (min a b, max a b))

/-! ### The queue (R507, R508) -/

/-- The activities that run. -/
def State.runningNow (s : State) : List Activity := s.activities.filter (·.started)

/-- The codes that run: a drain that a job started counts as DRAIN. -/
def State.runningCodes (s : State) : List Nat :=
  s.runningNow.map (·.code) ++ (if s.drains.any (fun d => !d.activity) then [6] else [])

/-- MNT_QUEUE as the activities stand. -/
def State.showQueue (s : State) : State :=
  let run := (List.range 8).map (fun c => if s.runningNow.any (fun a => a.code = c) then 2 ^ c else 0)
  (s.put .MNT_QUEUE_DEPTH (s.activities.length - s.runningNow.length)).put .MNT_QUEUE_RUNNING run.sum

/-- What the end of an activity leaves: MNT_LAST, the event, source 9 (R508). -/
def State.reportActivity (s : State) (a : Activity) (result : Nat) : State :=
  let s := s.puts 0 [(.MNT_LAST_ACTIVITY, a.code), (.MNT_LAST_RESULT, result), (.MNT_LAST_SEQ, a.seq)]
  (s.event 0x0A03 clsNone a.code result a.seq).raise 9

/-- What the start of an activity does at once: TCAL's sensors read VALID 0, ports train, RINGTRAIN destroys hosted
copies (R492, R507). -/
def State.beginActivity (s : State) (a : Activity) : State :=
  match a.code with
  | 2 => s.dropHosted
  | 3 => s.put .OPT_TRAIN_BUSY 1
  | 5 => s.each (spanRegions a.params 0) (fun s r => s.put .THERM_REGION_VALID 0 r)
  | _ => s

/-- Starts, in order, each queued activity that conflicts with none running and with no earlier one that waits; one whose
condition no longer holds ends with RESULT 15. -/
def State.startNext (s : State) : List Activity → List Nat → State
  | [], _ => s
  | a :: rest, waiting =>
    if a.started then s.startNext rest waiting
    else if (s.runningCodes ++ waiting).any (fun c => !mayMeet a.code c) then s.startNext rest (a.code :: waiting)
    else if !s.maintAllowed a.code a.params then
      (({ s with activities := s.activities.erase a } : State).reportActivity a 15).startNext rest waiting
    else
      let s : State := { s with activities := s.activities.map (fun b => if b = a then { b with started := true, startFc := s.fc } else b) }
      (s.beginActivity a).startNext rest waiting

def State.startQueued (s : State) : State := (s.startNext s.activities []).showQueue

/-- MAINT_START (R507): parameters, condition, room, then the queue. -/
def State.maintStart (s : State) (c : Ctx) (code : Nat) (p : List Byte) : State :=
  if !maintParams code p then s.complete c 0x0050 0x02 0 0 0
  else if !s.maintAllowed code p then s.complete c 0x0050 0x04 0 0 0
  else if 16 ≤ s.activities.length - s.runningNow.length then s.complete c 0x0050 0x03 0 0 0
  else
    let seq := s.get .MNT_QUEUE_NEXT_SEQ
    let s : State := { s with activities := s.activities ++ [⟨seq, code, p, false, 16, 0⟩] }
    ((s.put .MNT_QUEUE_NEXT_SEQ (seq + 1)).startQueued).complete c 0x0050 0 0 seq 0

/-- The running activity of a code whose effect has not run. -/
def State.dueActivity (s : State) (code : Nat) : Option Activity :=
  s.runningNow.find? (fun a => a.code = code && a.result = 16)

/-- The effect of a running activity has run, with a result. -/
def State.setResult (s : State) (a : Activity) (result : Nat) : State :=
  { s with activities := s.activities.map (fun b => if b = a then { b with result } else b) }

/-- The effect of a running activity of a code, once; nothing without one. -/
def State.perform (s : State) (code : Nat) (body : State → Activity → State × Nat) : State :=
  match s.dueActivity code with
  | none => s
  | some a =>
    let r := body s a
    r.1.setResult a r.2

/-- A running activity ends, done as its effect said or failed (R508). -/
def State.endActivity (s : State) (code : Nat) (failed : Bool) : State :=
  match s.runningNow.find? (fun a => a.code = code) with
  | none => s
  | some a =>
    if a.result = 16 && (!failed || code = 6) then s
    else
      let s : State := { s with activities := s.activities.erase a }
      let s := if code = 5 then s.each (spanRegions a.params 0) (fun s r =>
          s.put .THERM_REGION_VALID (if s.get .PWR_REGION_STATE r = 4 then 0 else 1) r)
        else if code = 3 then (s.put .OPT_TRAIN_BUSY 0).putSat .OPT_TRAIN_LAST_MS ((s.fc - a.startFc) / 1400000) else s
      (s.reportActivity a (if failed && code != 6 then 1 else a.result)).startQueued

/-! ### FILL and SCRUB -/

/-- FILL: each region of the range that can be raised to Poise is filled and returns to its state. -/
def State.fillRange (s : State) (p : List Byte) : State :=
  s.each ((spanRegions p 0).filter (fun r => !s.regionStuck r)) State.fillRegion

/-- One unpaced pass of some units over a list of words or lines in error. -/
def State.unpaced (s : State) (units keys : List Nat) : State :=
  s.each units (fun s u => s.setUnit u { s.unit u with passes := (s.unit u).passes + 1 }) |>.each keys State.scrubRead

/-- The lines of the lost stacks. -/
def State.lostLines (s : State) : List Nat :=
  (s.stacksInUse.filter s.stackLost).flatMap (fun st => (List.range (16 * s.channelLines)).map (ringKey st))

/-- SCRUB: one unpaced pass of the SRAM of the range's regions in Run or Poise, or of the ring unless it is in
self-refresh (R223, R224). -/
def State.scrubAll (s : State) (p : List Byte) : State × Nat :=
  let keys := s.bad.map (·.1)
  if pfield p 0 1 = 0 then
    let cs := ((spanRegions p 2).filter (fun r => s.on .PWR_REGION_CLK r)).flatMap regionClusters
    ((s.unpaced cs (keys.filter (fun k => cs.contains (errUnit k).1))).showPasses, 0)
  else if s.ringAsleep then (s, 1)
  else
    let mine := keys.filter (fun k => 2 ^ 42 ≤ k && s.stacksInUse.contains ((k - 2 ^ 42) / 2 ^ 30) && !s.stackLost ((k - 2 ^ 42) / 2 ^ 30))
    ((s.unpaced s.ringUnits (mine ++ s.lostLines)).showPatrol, 0)

/-! ### OPTTRAIN, FUSESENSE -/

/-- The light of a port that the environment says nothing of: none. -/
def darkLight : PortLight := ⟨255, false, false, false, none, 0, 0, 0, false⟩

/-- Optical training adopts NEXT_ID once it has been written (R61, R62). -/
def State.adoptId (s : State) : State :=
  match s.flash.nextId with
  | none => s
  | some m =>
    let s : State := { s with flash := { s.flash with
      moduleId := some m
      nextId := none } }
    s.puts 0 [(.RES_MODULE_ID_MODULE_ID, m.toNat), (.RES_MODULE_ID_ASSIGNED, 1), (.RES_MODULE_ID_PENDING, 0)]

/-- A training pass on every fitted port that can train, with the light each meets. -/
def State.trainAll (s : State) (light : List (PortRef × PortLight)) : State :=
  let look (n : Nat) : PortLight := ((light.find? (fun e => e.1.val = n)).map (·.2)).getD darkLight
  s.each (s.fittedPorts.filter s.trainable) (fun s n => s.train n (look n))

/-- The lifecycle state that the next reset applies, as PENDING_STATE shows it (R458). -/
def State.pendingLifecycle (s : State) : Nat := max (s.get .FUSE_LIFECYCLE_PENDING_STATE) s.shadowBank.lifecycle.toNat

/-- A sense after start-up: it compares the bank with the shadow, the lifecycle that waits for a reset aside (R455). -/
def State.senseAgain (s : State) : State :=
  let s := s.bump .FUSE_SENSE_COUNT
  if s.fuses.read = { s.shadowBank with lifecycle := BitVec.ofNat 2 s.pendingLifecycle } then s
  else (s.put .FUSE_SENSE_MISMATCH 1).event 0x0A04 clsNone 0 0 0

/-! ### DRAIN (R504, R505) -/

/-- The numbers of the source and the step of a copy are this module's and the one asked for. -/
def State.copyMatches (s : State) (c : CopyInfo) (step : Nat) : Bool :=
  c.valid && c.step.toNat = step && c.sourceId.toNat = s.get .RES_MODULE_ID_MODULE_ID && s.on .RES_MODULE_ID_ASSIGNED &&
    c.serial = s.shadowBank.serial

/-- Writes bytes to ranges one after another, 4 KiB at a time; false where a write is discarded. -/
def State.fillRanges (s : State) : List (Nat × Nat) → List Byte → State × Bool
  | [], _ => (s, true)
  | (base, len) :: rest, data =>
    let r := (List.range ((len + 4095) / 4096)).foldl (fun acc i =>
      let w := acc.1.writePhys (base + i * 4096) ((data.drop (i * 4096)).take (min 4096 (len - i * 4096)))
      (w.1, acc.2 && w.2)) (s, true)
    let t := State.fillRanges r.1 rest (data.drop len)
    (t.1, r.2 && t.2)

/-- DRAIN in mode RESTORE: the ranges, then the start values and RES_RESTORE; the event (R505, Table 4). -/
def State.restore (s : State) (step : Nat) (copy : Option CopyInfo) (data : List Byte) : State × Nat :=
  let fail (r : Nat) : State × Nat := (s.event 0x0908 clsNone 0 r 0, r)
  if s.partnerPorts.isEmpty || !s.on .RES_PAIR_IN_EFFECT then fail 1
  else
    match copy with
    | none => fail 8
    | some c =>
      if !s.copyMatches c step then fail 8
      else if c.ranges != s.uniqueRanges.map unitRange then fail 7
      else if data.length != s.uniqueBytes then fail 2
      else
        match s.fillRanges s.uniqueRanges data with
        | (t, false) => (t.event 0x0908 clsNone 0 6 0, 6)
        | (t, true) =>
          let differs := t.image.any (fun im => im.digest != c.digest)
          let t := t.puts 0 [(.RES_STEP_START_LO_COUNT, step), (.RES_STEP_START_HI_COUNT, step / 2 ^ 32),
            (.RES_STEP_CTRL_START_BUF, if c.bufSel then 1 else 0), (.RES_RESTORE_DONE, 1),
            (.RES_RESTORE_PAIRS_INTACT, if t.pairsIntact step c.bufSel then 1 else 0),
            (.RES_RESTORE_DIGEST_DIFFERS, if differs then 1 else 0)]
          (t.event 0x0908 clsNone 0 0 (if differs then 1 else 0), 0)

/-- The FLAGS of MNT_PCOPY_STAT. -/
def copyFlags (c : CopyInfo) : Nat :=
  (if c.valid then 1 else 0) + (if c.bufSel then 2 else 0) + (if c.shared then 4 else 0) + (if c.flagged then 8 else 0)

/-- DRAIN in mode QUERY (R504). -/
def State.query (s : State) (slots : Option (CopyInfo × CopyInfo)) : State × Nat :=
  if s.partnerPorts.isEmpty || !s.on .RES_PAIR_IN_EFFECT then (s, 1)
  else
    match slots with
    | none => (s, 2)
    | some (a, b) =>
      let show' (s : State) (k : Nat) (c : CopyInfo) : State :=
        s.puts k [(.MNT_PCOPY_STEP_STEP, c.step.toNat), (.MNT_PCOPY_STAT_FLAGS, copyFlags c)]
      (show' (show' s 0 a) 1 b, 0)

/-- DRAIN in mode SECURE: the state of the step at the fault, or of the next step after a stop at a quiet point (R304,
R484, R507). -/
def State.secureLocal (s : State) : State :=
  let buf := s.on .RES_STEP_STATE_BUF_SEL
  if s.on .RES_FAULT_LOCAL_VALID then s.startDrain s.stepCount (s.on .RES_FAULT_BUF_SEL) false false false true
  else s.startDrain (s.stepCount + 1) (if s.skip then buf else !buf) false false false true

/-! ### DEFECT-UPDATE (R510) -/

/-- Two entries name the same thing: kind and location, a CLUSTER's mark aside. -/
def sameDefect (a b : Word) : Bool :=
  defKind a = defKind b && (if defKind a = 3 then defCluster a = defCluster b else defLoc a = defLoc b)

/-- Soft entries leave the list, each with its event; a port that no entry names any more leaves FAILED and may train
(R283, R510). -/
def State.softClear (s : State) (gone : List Word) : State :=
  let s : State := { s with flash := { s.flash with softDefects := s.flash.softDefects.filter (fun d => !gone.contains d) } }
  s.each gone (fun s d =>
    let s := s.event 0x0A02 clsNone (defEventLoc d) (defCause d) d.toNat
    let n := defLoc d % 256
    if defKind d = 6 && s.portFitted n && s.get .OPT_PORT_STATE_STATE n = 8 && !s.defectMap.any (fun e => sameDefect e d) then
      if s.on .OPT_PORT_CTRL_DISABLE n then s.setPort' n 9 0
      else
        let s := s.setPort' n 1 0
        -- with the optical engines off every bit of DARK_LANES is set, and nothing trains (R429)
        if 3 ≤ s.get .PWR_LADDER_MODULE then s.put .OPT_PORT_STATE_DARK_LANES 255 n else s.wantTraining n
    else s)

/-- Clears one soft entry: RESULT 1 for a factory entry, 2 where there is none. -/
def State.clearDefect (s : State) (d : Word) : State × Nat :=
  if s.fuses.read.defects.any (fun e => sameDefect e d) then (s, 1)
  else
    let gone := s.flash.softDefects.filter (fun e => sameDefect e d)
    if gone.isEmpty then (s, 2) else (s.softClear gone, 0)

/-- Clears every soft entry of a kind. -/
def State.clearKind (s : State) (k : Nat) : State × Nat :=
  let gone := s.flash.softDefects.filter (fun e => defKind e = k)
  if gone.isEmpty then (s, 2) else (s.softClear gone, 0)

end Sys2Proof.Machine
end

