-- ==== Sys2Proof/Machine/FuseReq.lean ====
section
/-!
DEFINITION. Fuse requests (R456 to R458): the layout, the checks in the order of R457, and the end of a request.
-/
namespace Sys2Proof.Machine

/-- A failed check: RESULT and RECORD of FUSE_REQ_CTRL. -/
abbrev FuseReject := Nat × Nat

/-- Goes on, or fails with a result. -/
def fuseDemand (ok : Bool) (r : FuseReject) : Except FuseReject Unit := if ok then .ok () else .error r

/-- A record of 80 bytes. -/
def fuseRecord (bs : List Byte) : FuseOp := ⟨(bs.headD 0).toNat, (bs.getD 1 0).toNat, bs.drop 16⟩

/-- The layout of a record: a legal OP and ARG (Table 2), and zeros wherever the operation has no data. -/
def fuseLayout (bs : List Byte) : Bool :=
  let o := fuseRecord bs
  let blank := o.data.all (· = 0)
  ((bs.drop 2).take 14).all (· = 0) &&
    (if o.op = 1 then 1 ≤ o.arg && o.arg ≤ 3
     else if o.op = 2 then (o.arg = 2 || o.arg = 3) && blank
     else if o.op = 3 || o.op = 4 then o.arg ≤ 127 && blank
     else if o.op = 5 then 1 ≤ o.arg && o.arg ≤ 7 && blank
     else if o.op = 6 then o.arg = 1 && blank
     else o.op = 7 && 1 ≤ o.arg && o.arg ≤ 3 && o.data.headD 0 < 4 && (o.data.drop 1).all (· = 0))

/-- The records of a request's one section (R456); its header is that of R366, its LENGTH covers the body. -/
def fuseRecords (body : List Byte) : Except FuseReject (List FuseOp) := do
  let w := leNat (body.take 16)
  let n := bits w 64 32
  fuseDemand (bits w 0 8 = 1 && bits w 8 24 = 0 && bits w 96 32 = 0 && bits w 32 32 = body.length && 1 ≤ n && n ≤ 16 &&
    16 + 80 * n ≤ body.length && (body.drop (16 + 80 * n)).all (· = 0)) (1, 0)
  let recs := (List.range n).map (fun i => (body.drop (16 + 80 * i)).take 80)
  match recs.findIdx? (fun r => !fuseLayout r) with
  | some i => .error (1, i)
  | none => .ok (recs.map fuseRecord)

/-- The header of a request (R456): that of an image, but for MAGIC, the serial and what is zero. -/
def Header.fuseOk (h : Header) (bs : List Byte) (variant addr cap : Nat) : Bool :=
  h.plain 0x51464C50 variant && h.arb = 0 && h.sections = 1 && fieldAt bs 0x28 24 = 0 && 0x710 ≤ h.length &&
    addr + h.length ≤ cap

/-- An operation that repeats the value in force (R457): of a slot or the lifecycle state; of the other fields it is
allowed wherever a new value is. -/
def FuseOp.repeats (o : FuseOp) (b : FuseBank) : Bool :=
  (o.op = 1 && b.slot o.arg = some o.hash) || (o.op = 2 && o.arg = b.lifecycle.toNat)

/-- Whether an operation is allowed in the lifecycle state of a bank, and under FREEZE (Table 2, R457). -/
def FuseOp.allowed (o : FuseOp) (b : FuseBank) : Bool :=
  let life := b.lifecycle.toNat
  (o.repeats b ||
    (if o.op = 1 then (life = 1 && o.arg = 1) || (life = 2 && 2 ≤ o.arg)
     else if o.op = 2 then (life = 1 && o.arg = 2) || (life = 2 && o.arg = 3)
     else if o.op = 7 then life = 2
     else life = 1 || life = 2)) &&
  (!b.lockFreeze || o.op = 3 || o.op = 4 || (o.op = 2 && o.arg = 3))

/-- A count would fall, a slot already set would change, one blown in part would lose a bit, POLICY is set and named again, or OWNED is named while
slot 1 is not set, by a bank on which the records before it are applied (R457). -/
def FuseOp.clashes (o : FuseOp) (b : FuseBank) : Bool :=
  if o.op = 1 then (b.slot o.arg).any (fun h => if b.whole.getLsbD o.arg then h != o.hash else h &&& ~~~o.hash != 0)
  else if o.op = 2 then o.arg = 2 && b.slot1.isNone
  else if o.op = 3 then o.arg < b.fwCount.toNat
  else if o.op = 4 then o.arg < b.imageCount.toNat
  else o.op = 7 && o.arg % 2 = 1 && b.lockPolicy

/-- The first record that clashes. -/
def fuseClash : Nat → List FuseOp → FuseBank → Option Nat
  | _, [], _ => none
  | i, o :: ops, b =>
    if o.clashes b || (o.op = 2 && !ops.isEmpty) then some i else fuseClash (i + 1) ops (o.blow (BitVec.allOnes 512) b)

/-- The module is busy for fuse requests (R457). -/
def State.fuseBusy (s : State) : Bool :=
  s.job || s.on .RES_STEP_STATE_PHASE || s.get .IMG_STATE_STATE = 1 || s.get .IMG_STATE_STATE = 3 ||
    s.activities.any (fun a => a.code = 4)

/-- The checks of a whole request, in the order of R457. -/
def State.fuseChecks (s : State) (addr : Nat) (hd body : List Byte) : Except FuseReject (List FuseOp) := do
  let h := parseHeader hd
  let b := s.shadowBank
  let life := b.lifecycle.toNat
  fuseDemand (h.fuseOk hd b.orderCode.toNat addr s.ringTop) (1, 0)
  let ops ← fuseRecords body
  match s.keySigned h ((hd.drop 0x300).take 0x204) ((life = 1 && h.signer = 0) || (life = 2 && h.signer = 1)) with
  | .error _ => .error (2, 0)
  | .ok () =>
    fuseDemand (digest body = h.digest) (2, 0)
    fuseDemand (fieldAt hd 0x20 8 = b.serial.toNat) (3, 0)
    match ops.findIdx? (fun o => !o.allowed b) with
    | some i => .error (4, i)
    | none =>
      match fuseClash 0 ops b with
      | some i => .error (5, i)
      | none =>
        fuseDemand (!s.fuseBusy) (6, 0)
        return ops

/-- Reads and checks the request at FUSE_REQ; an uncorrectable line makes its header or records unreadable, as a broken
layout. -/
def State.fuseRead (s : State) (addr : Nat) : State × Except FuseReject (List FuseOp) :=
  if addr % 4096 != 0 || s.ringTop ≤ addr then (s, .error (8, 0))
  else
    match s.readPhys addr 0x700 with
    | (s, none) => (s, .error (1, 0))
    | (s, some hd) =>
      let h := parseHeader hd
      if !h.fuseOk hd s.shadowBank.orderCode.toNat addr s.ringTop then (s, .error (1, 0))
      else
        match s.readPhys (addr + 0x700) (h.length - 0x700) with
        | (s, none) => (s, .error (1, 0))
        | (s, some body) => (s, s.fuseChecks addr hd body)

/-- GO (R457): a request that passes its checks runs; one that does not blows nothing. -/
def State.fuseGo (s : State) : State :=
  if s.on .FUSE_REQ_CTRL_BUSY then s
  else
    match s.fuseRead (s.get .FUSE_REQ_LO_ADDR + 2 ^ 32 * s.get .FUSE_REQ_HI_ADDR) with
    | (s, .error (r, i)) => s.puts 0 [(.FUSE_REQ_CTRL_RESULT, r), (.FUSE_REQ_CTRL_RECORD, i)]
    | (s, .ok ops) =>
      ({ s with fuseOps := ops }).puts 0 [(.FUSE_REQ_CTRL_RESULT, 0), (.FUSE_REQ_CTRL_RECORD, 0), (.FUSE_REQ_CTRL_BUSY, 1)]

/-- The shadow takes the values of completed records; the lifecycle waits for the next reset (R458). -/
def State.fuseShadow (s : State) (ops : List FuseOp) : State :=
  let b := blowAll ops s.shadowBank
  let pending := max s.pendingLifecycle b.lifecycle.toNat
  ({ s with shadowBank := { b with lifecycle := s.shadowBank.lifecycle } }).put .FUSE_LIFECYCLE_PENDING_STATE pending

/-- The end of a request: every record blown, or a bit that failed its read-back (R458). -/
def State.fuseEnd (s : State) (readback : FuseReadback) : State :=
  let ops := s.fuseOps
  let s := s.put .FUSE_REQ_CTRL_BUSY 0
  match readback with
  | .good => ({ s with fuses := s.fuses.blow (blowAll ops) (blowAll ops), fuseOps := [] }).fuseShadow ops
  | .failed k =>
    let s := s.blowPart k
    let (code, s) := s.fresh Config.fuseEvent
    let s := ({ s with fuseOps := [] }).fuseShadow (ops.take k)
    (s.puts 0 [(.FUSE_REQ_CTRL_RESULT, 7), (.FUSE_REQ_CTRL_RECORD, k)]).event code.toNat clsNone 0 7 k

/-- FUSE_REQUEST_DONE (R458): while a request runs; the record of a failed read-back is one of it. -/
def execFuseRequestDone (readback : FuseReadback) (s : State) : Host.Outcome State Fault Refusal :=
  if !s.on .FUSE_REQ_CTRL_BUSY then .next s
  else
    match readback with
    | .good => .next (s.fuseEnd .good)
    | .failed k => if k < s.fuseOps.length then .next (s.fuseEnd (.failed k)) else .next s

end Sys2Proof.Machine
end

