-- ==== Sys2Proof/Machine/Secure.lean ====
section
/-!
DEFINITION. The rows of securing state: drains, hosted copies, secure requests by pin and motion, feed tags, the fault
history (R63, R315, R493 to R505, R522).
-/
namespace Sys2Proof.Machine

/-! ### Drains -/

/-- The earliest-opening slot has opened in this step; with no valid slot the drain starts at the gate release (R496). -/
def State.slotReached (s : State) : Bool :=
  match s.drainSlots with
  | [] => true
  | d :: _ => 0 < (s.barrier d.opening).inStep

/-- DRAIN_START (R496). -/
def execDrainStart (s : State) : Host.Outcome State Fault Refusal :=
  if s.scheduled && s.job && s.on .RES_STEP_STATE_STABLE && s.slotReached then
    .next (s.startDrain s.stepCount (s.on .RES_STEP_STATE_BUF_SEL) false false false false)
  else .next s

/-- DEFERRED_DRAIN_START (R316, R341, R502): at the quiet point, after the apply and the commits. -/
def execDeferredDrainStart (s : State) : Host.Outcome State Fault Refusal :=
  if s.quiet.any (fun q => q.first || s.applyDone q) && !s.commitWaits then .next s.startDeferred else .next s

/-- What follows the end of a drain: activities that waited (R508). -/
def State.afterDrain (s : State) : State := s.startQueued

/-- DRAIN_READ_DONE (R315); where the drain ends instead, activities that waited start (R508). -/
def execDrainReadDone (s : State) : Host.Outcome State Fault Refusal :=
  let t := s.drainRead
  .next (if t.drains.length < s.drains.length then t.afterDrain else t)

/-- The code of Table 4 for an answer of the partner. -/
def DrainReply.result : DrainReply → Nat
  | .complete => 0
  | .unavailable => 2
  | .slotTooSmall => 3
  | .otherSource => 4
  | .portsLost => 5

/-- DRAIN_END (R498): the oldest drain ends; it completes only once it has read its last byte. -/
def execDrainEnd (reply : DrainReply) (s : State) : Host.Outcome State Fault Refusal :=
  match s.oldestDrain with
  | none => .next s
  | some d => if reply = .complete && !d.readDone then .next s else .next (s.endDrain (DrainReply.result reply)).afterDrain

/-- DRAIN_PARTNER_TIMEOUT (R498). -/
def execDrainPartnerTimeout (s : State) : Host.Outcome State Fault Refusal :=
  if s.oldestDrain.isSome then .next (s.endDrain 2).afterDrain else .next s

/-! ### Hosted copies (R487, R492, R497, R504, R505) -/

/-- A copy slot of the hosted area: its ring address and size. -/
def State.copySlot (s : State) (k : Nat) : Nat × Nat :=
  let n := slotBytes (s.get .MNT_HOST_UNITS_UNITS)
  (s.hostedSpan.1 + k * n, n)

/-- The copy that a hosted slot holds. -/
def State.hostedCopy (s : State) (k : Nat) : Option CopyInfo := (s.hosted.find? (fun e => e.1 = k)).map (·.2)

/-- The slot that does not hold the newest complete copy, told by the source's always-on counter. -/
def State.staleSlot (s : State) : Nat :=
  match s.hostedCopy 0, s.hostedCopy 1 with
  | some a, some b => if b.counter.toNat < a.counter.toNat then 1 else 0
  | some _, none => 1
  | _, _ => 0

/-- A slot's copy and its registers. -/
def State.setHosted (s : State) (k : Nat) (c : Option CopyInfo) : State :=
  match c with
  | none => ({ s with hosted := s.hosted.filter (fun e => e.1 != k) } : State).clears k
      [.MNT_HCOPY_STEP_STEP, .MNT_HCOPY_STAT_VALID, .MNT_HCOPY_STAT_BUF_SEL, .MNT_HCOPY_STAT_SHARED, .MNT_HCOPY_STAT_FLAGGED]
  | some c => ({ s with hosted := (s.hosted.filter (fun e => e.1 < k)) ++ ((k, c) :: s.hosted.filter (fun e => k < e.1)) } : State).puts k
      [(.MNT_HCOPY_STEP_STEP, c.step.toNat), (.MNT_HCOPY_STAT_VALID, 1), (.MNT_HCOPY_STAT_BUF_SEL, if c.bufSel then 1 else 0),
       (.MNT_HCOPY_STAT_SHARED, if c.shared then 1 else 0), (.MNT_HCOPY_STAT_FLAGGED, if c.flagged then 1 else 0)]

/-- Bytes of range data that a header names. -/
def copyBytes (c : CopyInfo) : Nat := (c.ranges.map (fun r => r.2 * 4096)).sum

/-- Why a copy is refused (Table 4): another source is hosted, the ring is asleep, or the slot is too small. -/
def State.copyBar (s : State) (c : CopyInfo) : Option DrainReply :=
  if !s.on .MNT_HOST_SRC_VALID || s.get .MNT_HOST_SRC_MODULE_ID != c.sourceId.toNat then some .otherSource
  else if s.ringAsleep then some .unavailable
  else if (s.copySlot 0).2 < 4096 + copyBytes c then some .slotTooSmall
  else none

/-- Writes a copy into a slot: VALID goes, then data, then header; complete only when all the data that the header names has
come and every write has landed (R497). -/
def State.writeCopy (s : State) (k : Nat) (c : CopyInfo) (data : List Byte) : State × Bool :=
  let base := (s.copySlot k).1
  let data := data.take (copyBytes c)
  let s := s.setHosted k none
  match s.fillRanges [(base + 4096, data.length)] data with
  | (s, false) => (s, false)
  | (s, true) =>
    if data.length < copyBytes c then (s, false)
    else (match s.writePhys base (copyHeader c data.length) with
    | (s, false) => (s, false)
    | (s, true) => (s.setHosted k (some c), true))

/-- HOSTED_COPY_WRITE (R497): the source hears that its copy is complete, or why it is refused; it hears nothing of one that
broke off. -/
def execHostedCopyWrite (copy : CopyInfo) (data : List Byte) (s : State) : Host.Outcome State Fault Refusal :=
  let tell (s : State) (r : DrainReply) : State := s.tell copy.sourceId.toNat (.copied copy.step r)
  match s.copyBar copy with
  | some why => .next (tell s why)
  | none =>
    match s.writeCopy s.staleSlot copy data with
    | (s, true) => .next (tell s .complete)
    | (s, false) => .next s

/-- Reads a slot's header, or a whole copy, for the partner. -/
def State.readSlot (s : State) (k n : Nat) : State × List Byte :=
  match s.readPhys (s.copySlot k).1 n with
  | (s, some bs) => (s, bs)
  | (s, none) => (s, [])

/-- What a QUERY or RESTORE request is answered with goes out on the ports to the source (R489). -/
def State.answerSource (s : State) (bs : List Byte) : State :=
  ({ s with hostedReply := bs } : State).sendCopy (s.portsTo (s.get .MNT_HOST_SRC_MODULE_ID)) false bs

/-- HOSTED_COPY_REQUEST (R504, R505): the two slot headers for QUERY, the copy of a step for RESTORE. -/
def execHostedCopyRequest (step : Option (BitVec 64)) (s : State) : Host.Outcome State Fault Refusal :=
  if !s.on .MNT_HOST_SRC_VALID || s.ringAsleep then .next { s with hostedReply := [] }
  else
    match step with
    | none =>
      let (s, a) := if (s.hostedCopy 0).isSome then s.readSlot 0 4096 else (s, List.replicate 4096 0)
      let (s, b) := if (s.hostedCopy 1).isSome then s.readSlot 1 4096 else (s, List.replicate 4096 0)
      .next (s.answerSource (a ++ b))
    | some n =>
      match [0, 1].find? (fun k => (s.hostedCopy k).any (fun c => c.step = n)) with
      | none => .next { s with hostedReply := [] }
      | some k =>
        let (s, a) := s.readSlot k (4096 + ((s.hostedCopy k).map copyBytes).getD 0)
        .next (s.answerSource a)

/-! ### Secure requests (R501, R503, R522) -/

/-- A secure request whose outcome nobody waits for. -/
def State.requestSecure (s : State) (source : Nat) : State := (s.secureRequest source).1

/-- Fast-clock cycles in the 100 µs for which the pin must have been deasserted (R501, R522). -/
def pinRest : Nat := 140000

/-- A request of the pin has been raised, and the pin has not been deasserted for 100 µs since (R501, R522). -/
def State.pinSpent (s : State) : Bool := s.sense.pinUsed && s.fc < s.sense.pinFc + pinRest

/-- SECURE_NOW_PIN (R501, R522): the pin, held long enough to count, goes to a level; an assertion raises one request, and
none that follows before the pin has been deasserted for 100 µs. -/
def execSecureNowPin (asserted : Bool) (s : State) : Host.Outcome State Fault Refusal :=
  if asserted = s.sense.pin then .next s
  else if asserted then
    let t := { s with sense := { s.sense with pin := true, pinUsed := true } }.put .RES_MGMT_SECURE_NOW 1
    .next (if s.pinSpent then t else t.requestSecure 1)
  else
    let s : State := { s with sense := { s.sense with pin := false, pinFc := s.fc } }
    .next (s.puts 0 [(.RES_MGMT_SECURE_NOW, 0), (.RES_MGMT_SN_HELD, 0)])

/-- SN_HELD (R522): the pin has stayed asserted for 1 s. -/
def execSnHeld (s : State) : Host.Outcome State Fault Refusal :=
  if s.sense.pin && !s.on .RES_MGMT_SN_HELD then .next (s.puts 0 [(.RES_MGMT_SN_HELD, 1), (.RES_MGMT_SN_HELD_SEEN, 1)]) else .next s

/-- MOTION_SAMPLE (R503): the magnitude of one 1 kHz sample in 1/64 g. -/
def execMotionSample (magnitude : Nat) (s : State) : Host.Outcome State Fault Refusal :=
  let th := s.get .MNT_MOTION_CFG_THRESH
  let s := s.putSat .MNT_MOTION_STAT_PEAK (max (s.get .MNT_MOTION_STAT_PEAK) magnitude)
  let above := if th != 0 && th ≤ magnitude then s.sense.above + 1 else 0
  let quiet := if th = 0 || 2 * magnitude < th then s.sense.quiet + 1 else 0
  if s.sense.episode then
    let done : Bool := decide (1000 ≤ quiet)
    .next { s with sense := { s.sense with above := 0, quiet := if done then 0 else quiet, episode := !done } }
  else if th != 0 && s.get .MNT_MOTION_CFG_SUSTAIN ≤ above then
    let s := { s with sense := { s.sense with above := 0, quiet := 0, episode := true } }.put .MNT_MOTION_STAT_TRIGGERED 1
    .next ((s.event 0x0906 clsNone 0 0 magnitude).requestSecure 2)
  else .next { s with sense := { s.sense with above, quiet := 0 } }

/-! ### Tags and history -/

/-- One feed's tag, sampled after start-up: a change is logged, sets CHANGED, and makes a pairing unverified (R63,
R493). -/
def State.sampleTag (s : State) (feed : Nat) (tag changed : Field) (v : Nat) : State :=
  if s.get tag = v then s else ((((s.put tag v).put changed 1).event 0x0905 clsNone feed 0 v).unverify 1).reportTags

/-- FEED_TAG_SAMPLE (R63): every 1 ms once start-up has sampled the straps, in step 3, also where a later step of it stops. -/
def execFeedTagSample (a b : BitVec 4) (s : State) : Host.Outcome State Fault Refusal :=
  if s.get .RES_START_STATE_STEP < 4 then .next s
  else
    let s := s.sampleTag 0 .RES_FEED_TAGS_FEED_A_TAG .RES_FEED_TAGS_A_CHANGED a.toNat
    .next (s.sampleTag 1 .RES_FEED_TAGS_FEED_B_TAG .RES_FEED_TAGS_B_CHANGED b.toNat)

/-- PARTNER_TAG_REPORT (R493). -/
def execPartnerTagReport (s : State) : Host.Outcome State Fault Refusal :=
  if s.partnerPorts.isEmpty then .next s else .next (s.unverify 2)

/-- H × 2^(−1 ÷ seconds of the half-life), by three terms of the exponential in units of 2^−64 (log entry 33). -/
def decay (h hours : Nat) : Nat :=
  let one := 2 ^ 64
  let x := ln2Units / (max hours 1 * 3600)
  h * (one - x + x * x / (2 * one) - x * x * x / (6 * one * one)) / one

/-- FAULT_HISTORY_UPDATE (R499): H decays every second and is saved to flash every hour. -/
def execFaultHistoryUpdate (s : State) : Host.Outcome State Fault Refusal :=
  let h := decay s.history (s.get .MNT_HALF_LIFE_HOURS)
  if s.historySecs + 1 < 3600 then .next { s with history := h, historySecs := s.historySecs + 1 }
  else .next { s with history := h, historySecs := 0, flash := { s.flash with history := h } }

end Sys2Proof.Machine
end

