-- ==== Sys2Proof/Machine/RegView.lean ====
section
/-!
DEFINITION. What the host reads in BAR0 (R9, R116, R156, R268, R296, R399, R449, R465): which fields lie at an offset,
and the value each shows. Registers that show a part of the state are computed from it; those behind a selector show the
object it names.
-/
namespace Sys2Proof.Machine

/-! ### Where a field lies -/

/-- First offset of the debug windows, and the size of one (R399). -/
def debugBase : Nat := 0x1000000
def debugSize : Nat := 0x8000

/-- The region of a debug window. -/
def debugRegion (off : Nat) : Option Nat :=
  if debugBase ≤ off && off < debugBase + 400 * debugSize then some ((off - debugBase) / debugSize) else none

/-- The instance of a field that lies at an offset outside the debug windows. -/
def Field.fixedAt (off : Nat) (f : Field) : Option Nat :=
  match f.info.kind with
  | .single => if off = f.info.addr then some 0 else none
  | .array stride n =>
    let i := (off - f.info.addr) / stride
    if f.info.addr ≤ off && (off - f.info.addr) % stride = 0 && i < n then some i else none
  | _ => none

/-- The instance of a field that lies at an offset w of the debug window of region r. -/
def Field.windowAt (r w : Nat) (f : Field) : Option Nat :=
  match f.info.kind with
  | .corePage => if w < 0x4400 && w % 0x100 = f.info.addr then some (slotCore r (w / 0x100)) else none
  | .region =>
    if f = .ARR_DBG_DATA_SUM then
      (if 0x4880 ≤ w && w < 0x4900 && w % 4 = 0 then some (r * 32 + (w - 0x4880) / 4) else none)
    else if w = f.info.addr then some r else none
  | _ => none

/-- The fields at an offset, with their instances. -/
def fieldsAt (off : Nat) : List (Field × Nat) :=
  match debugRegion off with
  | some r => Field.all.filterMap (fun f => (f.windowAt r ((off - debugBase) % debugSize)).map (fun i => (f, i)))
  | none => Field.all.filterMap (fun f => (f.fixedAt off).map (fun i => (f, i)))

/-! ### What a field shows -/

/-- A field behind a region selector: nothing beyond region 399. -/
def State.ofRegion (s : State) (sel f : Field) : Nat := if s.get sel < 400 then s.get f (s.get sel) else 0

/-- The counts of the selected tag and view (R198). -/
def State.layerCounts (s : State) : Counts :=
  mget {} (if s.on .NUM_LAYER_SEL_VIEW then s.runView else s.stepView) (s.get .NUM_LAYER_SEL_TAG)

/-- The barrier that MESH_BAR_SEL of a region selects, if its root lies there. -/
def State.shownBarrier (s : State) (r : Nat) : Option Nat :=
  let bar := barKey (s.on .MESH_BAR_SEL_SYS r) (s.get .MESH_BAR_SEL_ID r)
  match s.barRec bar with
  | some b => if routerRegion b.router = r then some bar else none
  | none => none

/-- The router counter that MESH_RTR_SEL of a region selects. -/
def State.shownRouter (s : State) (f : Field) (r : Nat) : Nat :=
  let slot := s.get .MESH_RTR_SEL_SLOT r
  let port := s.get .MESH_RTR_SEL_PORT r
  if slot < 68 && port < 6 then s.get f (coreRouter (slotCore r slot) * 24 + port * 4 + s.get .MESH_RTR_SEL_VC r) else 0

/-- The hottest region among those with VALID = 1, and its temperature; the lowest-numbered where several are. -/
def State.hottest (s : State) : Option (Nat × Nat) :=
  ((List.range 400).filter (fun r => s.on .THERM_REGION_VALID r)).foldl (fun best r =>
    let tj := s.get .THERM_REGION_TJ r
    match best with
    | some (_, t) => if signed t 16 < signed tj 16 then some (r, tj) else best
    | none => some (r, tj)) none

/-- A mask of the truth values of a list, first in bit 0. -/
def maskOf (bs : List Bool) : Nat := bs.foldr (fun b n => 2 * n + if b then 1 else 0) 0

/-- Ports in a state. -/
def State.portsIn (s : State) (states : List Nat) : Nat :=
  s.fittedPorts.countP (fun n => states.contains (s.get .OPT_PORT_STATE_STATE n))

/-- The logical core at a position, while an image is loaded (R43). DESIGN CHOICE (log entry 132): a logical core counts
as one of the loaded image also where the image gives it no program. -/
def State.shownCore (s : State) (p : Nat) : Option Nat := if s.image.isSome then s.logicalCore p else none

/-- What the fuse shadow shows (R465). -/
def State.fuseView (s : State) (f : Field) (i : Nat) : Option Nat :=
  let b := s.shadowBank
  let bit (x : Bool) : Nat := if x then 1 else 0
  match f with
  | .FUSE_PART_ORDER_CODE => some b.orderCode.toNat
  | .FUSE_PART_HOLDUP_FITTED => some (bit b.holdupFitted)
  | .FUSE_PART_HALF_PORTS => some (bit b.halfPorts)
  | .FUSE_SERIAL_LO_SERIAL => some (b.serial.toNat % 2 ^ 32)
  | .FUSE_SERIAL_HI_SERIAL => some (b.serial.toNat / 2 ^ 32)
  | .FUSE_LIFECYCLE_STATE => some b.lifecycle.toNat
  | .FUSE_LIFECYCLE_SLOT_SET => some (maskOf [b.slot0.isSome, b.slot1.isSome, b.slot2.isSome, b.slot3.isSome])
  | .FUSE_LIFECYCLE_PENDING_STATE => some s.pendingLifecycle
  | .FUSE_ARB_FW => some b.fwCount.toNat
  | .FUSE_ARB_IMAGE => some b.imageCount.toNat
  | .FUSE_FEATURE_ENABLE => some b.enables.toNat
  | .FUSE_FEATURE_DISABLE => some b.disables.toNat
  | .FUSE_FEATURE_EFFECTIVE => some (maskOf [s.feature 0, s.feature 1, s.feature 2])
  | .FUSE_FEATURE_PAIR_SHARED => some (bit b.pairShared)
  | .FUSE_FEATURE_LOCK_POLICY => some (bit b.lockPolicy)
  | .FUSE_FEATURE_LOCK_FREEZE => some (bit b.lockFreeze)
  | .FUSE_SLOT_HASH_WORD => some (bits ((b.slot (i / 16)).getD 0).toNat (32 * (i % 16)) 32)
  | .FUSE_POLICY_OOB_ADMIN => some (bit (s.policyBit 0))
  | .FUSE_POLICY_DEBUG_SOFT => some (bit (s.policyBit 1))
  | _ => none

/-- What the core page and the region's blocks show beyond what is stored (R116, R158, R268). -/
def State.windowView (s : State) (f : Field) (i : Nat) : Option Nat :=
  let hide (n : Nat) : Nat := if s.feature 2 then n else 0
  match f with
  | .CORE_STATUS_STREAM_BUSY => some (maskOf ((List.range 4).map (fun ch => !(mget [] (s.core i).chans ch).isEmpty)))
  | .CORE_STATUS_ARRAY_BUSY => some (if (s.arr i).queue.isEmpty then 0 else 1)
  | .CORE_ID_TILE => some (if (s.shownCore i).isSome then i / 17 / 40 else 0)
  | .CORE_ID_CLUSTER => some (if (s.shownCore i).isSome then i / 17 % 40 else 0)
  | .CORE_ID_CORE => some ((s.shownCore i).getD 0)
  | .CORE_ID_VALID => some (if (s.shownCore i).isSome then 1 else 0)
  | .ARR_DBG_SEL_SLOT => some (hide (s.get f i))
  | .ARR_DBG_SEL_BANK => some (hide (s.get f i))
  | .ARR_DBG_SEL_LINE => some (hide (s.get f i))
  | .ARR_DBG_SEL_CAPTURED => some (hide (s.get f i))
  | .ARR_DBG_DATA_SUM => some (hide (s.get f i))
  | .MESH_RTR_FLITS_COUNT => some (s.shownRouter f i)
  | .MESH_RTR_STALL_COUNT => some (s.shownRouter f i)
  | .MESH_BAR_STATE_ROOT => some (if (s.shownBarrier i).isSome then 1 else 0)
  | .MESH_BAR_STATE_OPEN => some (match s.shownBarrier i with
    | some bar => if (s.barMissing bar).1 then 1 else 0
    | none => 0)
  | .MESH_BAR_STATE_PENDING => some (((s.shownBarrier i).map (fun bar => (s.barMissing bar).2)).getD 0)
  | .MESH_BAR_STATE_RELEASES => some (((s.shownBarrier i).map (fun bar => (s.barrier bar).released % 65536)).getD 0)
  | .MESH_BAR_LAST_FC => some (((s.shownBarrier i).map (fun bar => s.get f bar)).getD 0)
  | _ => none

/-- What the module's blocks show beyond what is stored: numerics (R197, R345), resilience (R321, R361). -/
def State.stepView' (s : State) (f : Field) : Option Nat :=
  let ofTag := some (s.get f (s.get .NUM_EXP_SEL_TAG))
  match f with
  | .NUM_LAYER_CRUMBS_COUNT => some s.layerCounts.crumbs
  | .NUM_LAYER_SATS_COUNT => some s.layerCounts.sats
  | .NUM_LAYER_OVF_OVF16 => some s.layerCounts.ovf16
  | .NUM_LAYER_OVF_OTHER => some s.layerCounts.ovfOther
  | .NUM_LAYER_SCALE_RANGE => some s.layerCounts.range
  | .NUM_LAYER_SCALE_UNDER => some s.layerCounts.under
  | .NUM_LAYER_CSB_COUNT => some s.layerCounts.satBlocks
  | .NUM_EXP_S => ofTag
  | .NUM_EXP_EN => ofTag
  | .NUM_EXP_UPDATE => ofTag
  | .NUM_EXP_LAST_UP => ofTag
  | .NUM_EXP_LAST_DOWN => ofTag
  | .NUM_EXP_LIM_S_MIN => ofTag
  | .NUM_EXP_LIM_S_MAX => ofTag
  | .NUM_EXP_THR_RAISE_THRESH => ofTag
  | .NUM_MON_FLAGS_FLAGS => some (s.get f (s.get .NUM_MON_FLAG_SEL_WORD))
  | .RES_STEP_STATE_HOLD => some (maskOf s.gateHolds)
  | .RES_DISTIL_ROLE_ROLE => some (s.ofRegion .RES_DISTIL_ROLE_SEL_REGION f)
  | .RES_DISTIL_FROZEN_BASE_UNITS => some (s.get f (s.get .RES_DISTIL_FROZEN_SEL_INDEX))
  | .RES_DISTIL_FROZEN_LEN_UNITS => some (s.get f (s.get .RES_DISTIL_FROZEN_SEL_INDEX))
  | .RES_PAIR_PORTS => some (if s.on .RES_PAIR_IN_EFFECT then s.partnerPorts.length else 0)
  | .MNT_DRAIN_UNPACED => some (if s.drains.any (fun d => d.unpaced || s.slotOpen) then 1 else 0)
  | .MNT_LOCAL_RATE_RATE => some (min s.localRate (2 ^ 32 - 1))
  | .LOG_NEWEST_SEQ => some ((s.log.head?.map (·.seq.toNat)).getD 0)
  | .LOG_OLDEST_SEQ => some ((s.log.getLast?.map (·.seq.toNat)).getD 0)
  | _ => none

/-- What the power, thermal, optical and transaction blocks show beyond what is stored (R296, R391, R449, R450). -/
def State.powerView (s : State) (f : Field) (i : Nat) : Option Nat :=
  let region := some (s.ofRegion .PWR_REGION_SEL_REGION f)
  let heat := some (s.ofRegion .THERM_SEL_REGION f)
  match f with
  | .PWR_LADDER_BUSY => some (if s.laddering.any (fun j => !j.isSet) then 1 else 0)
  | .PWR_CLK_RUN_REGIONS => some (maskOf ((List.range 32).map (fun b => 32 * i + b < 400 && s.on .PWR_REGION_CLK (32 * i + b))))
  | .PWR_AC_LO_COUNT => some (s.ac % 2 ^ 32)
  | .PWR_REGION_STATE => region
  | .PWR_REGION_CLK => region
  | .PWR_REGION_LOCKED => region
  | .PWR_REGION_SHORT => region
  | .PWR_REGION_TRIPPED => region
  | .PWR_REGION_THERM_LEVEL => region
  | .PWR_REGION_SKIP_LEVEL => some (if s.get .PWR_REGION_SEL_REGION < 400 then s.skipLevel (s.get .PWR_REGION_SEL_REGION) else 0)
  | .PWR_REGION_SKIP_UNITS =>
    let r := s.get .PWR_REGION_SEL_REGION
    some (if r < 400 then (s.region r).skipped / 256 % 2 ^ 32 else 0)
  | .PWR_REGION_EVT_LOCK_LOSS => region
  | .THERM_HOT_TJ => some ((s.hottest.map (·.2)).getD 0)
  | .THERM_HOT_REGION => some ((s.hottest.map (·.1)).getD 0)
  | .THERM_SUM_THROTTLED => some ((List.range 400).countP (fun r => s.on .PWR_REGION_THERM_LEVEL r))
  | .THERM_REGION_TJ => heat
  | .THERM_REGION_LEVEL => heat
  | .THERM_REGION_TRIPPED => heat
  | .THERM_REGION_VALID => heat
  | .THERM_REGION_PEAK_TJ => heat
  | .OPT_SUMMARY_FITTED => some (if s.shadowBank.halfPorts then 80 else 160)
  | .OPT_SUMMARY_ACTIVE => some (s.portsIn [7])
  | .OPT_SUMMARY_NOT_UP => some (s.portsIn [1, 2, 3, 5, 8, 9])
  | .TXN_AGE_SECONDS => some (if s.get .TXN_STATE_STATE i = 1 then (s.fc - (mget {} s.txns i).startFc) / 1400000000 % 65536 else 0)
  | _ => none

/-- The registers of an optical port. -/
def Field.ofPort (f : Field) : Bool := f.info.kind = .array 32 160

/-- The value a field shows to the host (R9, R297): a WO field reads zero; an ABSENT port shows only its STATE. -/
def State.show' (s : State) (f : Field) (i : Nat) : Nat :=
  if f.info.acc = .wo then 0
  else if f.ofPort && !s.portFitted i && f != .OPT_PORT_STATE_STATE then 0
  else
    match s.fuseView f i with
    | some v => v
    | none =>
      match s.windowView f i with
      | some v => v
      | none =>
        match s.stepView' f with
        | some v => v
        | none => (s.powerView f i).getD (s.get f i)

/-! ### The MSI-X table and pending bits (R399) -/

/-- The table of 64 vectors of four words, at the base of its block (PCIe; log entry 60). -/
def msixBase : Nat := 0x100000
/-- The two words of pending bits, behind the table (log entry 60). -/
def pbaBase : Nat := 0x100400

/-- A word of the MSI-X block. -/
def State.msixWord (s : State) (off : Nat) : Option Nat :=
  if msixBase ≤ off && off < pbaBase then
    let k := (off - msixBase) / 4
    some (if k % 4 = 3 then (if s.msixMask.getLsbD (k / 4) then 1 else 0) else (mget 0 s.msixTable k).toNat)
  else if off = pbaBase then some (s.msixPending.toNat % 2 ^ 32)
  else if off = pbaBase + 4 then some (s.msixPending.toNat / 2 ^ 32)
  else none

/-! ### The debug view of a trapped core (R117, R454) -/

/-- Word k of a core's scalar registers, then its vector registers, then its array and its stream descriptors. -/
def CoreState.debugWord (c : CoreState) (k : Nat) : Option Nat :=
  if k < 32 then some (mget 0 c.sregs k).toNat
  else if k < 4128 then some (mget 0 c.vregs (k - 32)).toNat
  else if k < 6176 then some (bits (mget 0 c.adesc ((k - 4128) / 8)).toNat (32 * ((k - 4128) % 8)) 32)
  else if k < 8224 then some (bits (mget 0 c.sdesc ((k - 6176) / 8)).toNat (32 * ((k - 6176) % 8)) 32)
  else none

/-- The word of a trapped core's state at an offset of its page that holds no register, while debug is effective and
DEBUG_SOFT is 1 (R117, R454). Which word a read shows is a free value of its own (log entry 111). -/
def State.debugRead (s : State) (off : Nat) : Option Nat :=
  match debugRegion off with
  | none => none
  | some r =>
    let w := (off - debugBase) % debugSize
    let p := slotCore r (w / 0x100)
    if w < 0x4400 && s.get .CORE_STATUS_STATE p = 3 && s.feature 0 && s.policyBit 1 then
      match Config.debugPlace s.free (w % 0x100) with
      | 0 => none
      | k + 1 => (s.core p).debugWord k
    else none

/-- The 32-bit word at an aligned BAR0 offset, if something lies there (R9, R11). -/
def State.regRead (s : State) (off : Nat) : Option Nat :=
  match s.msixWord off with
  | some v => some v
  | none =>
    let fs := fieldsAt off
    if fs.isEmpty then s.debugRead off else some ((fs.map (fun x => s.show' x.1 x.2 % 2 ^ x.1.info.width * 2 ^ x.1.info.lo)).sum)

end Sys2Proof.Machine
end

