-- ==== Sys2Proof/Machine/Attest.lean ====
section
/-!
DEFINITION. The rows of PLDM and SPDM (R416, R417, R461 to R464): firmware updates, sensors, measurements, the owner's
certificate chain and secured sessions.
-/
namespace Sys2Proof.Machine

/-! ### Firmware (R416, R461, R462) -/

/-- The firmware or, in recovery, the ROM answers over MCTP. -/
def State.answers (s : State) : Bool := s.firmware.isSome || s.on .RES_START_STATE_RECOVERY

/-- Writes a package over the copy that is not running: over A where B runs, or where none does (R462; log entry 61). -/
def State.flashCopy (s : State) (package : List Byte) : State :=
  match s.firmware with
  | some (false, _) => { s with flash := { s.flash with fwB := some package } }
  | _ => { s with flash := { s.flash with fwA := some package } }

/-- PLDM_FIRMWARE_UPDATE (R462): a package that does not verify is answered with the PLDM verify failure and changes
nothing else. -/
def execPldmFirmwareUpdate (package : List Byte) (s : State) : Host.Outcome State Fault Refusal :=
  if !s.answers then .next s
  else if s.firmwareGood package then .next { s.flashCopy package with pldmRefused := false }
  else .next { s with pldmRefused := true }

/-! ### Sensors (R416) -/

/-- What a sensor reads, in the unit of its register. -/
def State.sensorValue (s : State) : Sensor → Int
  | .feedAVolts => signed (s.get .PWR_FEED_A_VOLTS) 16
  | .feedAAmps => s.get .PWR_FEED_A_AMPS
  | .feedBVolts => signed (s.get .PWR_FEED_B_VOLTS) 16
  | .feedBAmps => s.get .PWR_FEED_B_AMPS
  | .inputPower => s.get .PWR_BUS_WATTS
  | .coolantInlet => signed (s.get .THERM_COOL_INLET) 16
  | .coolantOutlet => signed (s.get .THERM_COOL_OUTLET) 16
  | .hottestJunction => signed ((s.hottest.map (·.2)).getD 0) 16

/-- PLDM_SENSOR_READ (R416). -/
def execPldmSensorRead (sensor : Sensor) (s : State) : Host.Outcome State Fault Refusal :=
  if s.firmware.isSome then .next { s with sensor := s.sensorValue sensor } else .next s

/-! ### Attestation (R463, R464) -/

/-- The identity key that the attestation engine unwraps under the device secret; none where that secret is not the one
it was wrapped under (R459, R463). -/
def State.identityKey (s : State) : Option (BitVec 4096) :=
  if s.flash.identity.under = s.fuses.read.secret then some s.flash.identity.key else none

/-- The attestation engine answers beyond GET_VERSION and GET_CAPABILITIES: not in RETIRED (R463). -/
def State.attests (s : State) : Bool := s.firmware.isSome && s.shadowBank.lifecycle != 3

/-- It signs its answer with the identity key. -/
def State.signs (s : State) : Bool := s.attests && s.identityKey.isSome

/-- The bytes of fuse shadow words from an offset on. -/
def State.shadowBytes (s : State) (off words : Nat) : List Byte :=
  (List.range words).flatMap (fun w => leBytes 4 ((s.regRead (0x400000 + off + 4 * w)).getD 0))

/-- The measurement blocks 1 to 6 of one snapshot, in index order (Table 3). -/
def State.measurements (s : State) : List Byte :=
  let (_, arb, dig) := s.firmware.getD (false, 0, 0)
  let img := if s.get .IMG_STATE_STATE = 2 then (List.range 16).flatMap (fun w => leBytes 4 (s.get .IMG_DIGEST_WORD w))
    else List.replicate 64 0
  leBytes 64 Config.romDigest.toNat ++ (leBytes 64 dig.toNat ++ (leBytes 1 arb.toNat ++ (img ++
    (leBytes 64 s.patchChain.toNat ++ (sha512 (s.shadowBytes 0 6 ++ s.shadowBytes 0x40 64) ++
      (s.shadowBytes 0x0C 1 ++ (s.shadowBytes 0x14 1 ++ s.shadowBytes 0x200 1)))))))

/-- SPDM_GET_MEASUREMENTS (R464): a response signed with the identity key. -/
def execSpdmGetMeasurements (s : State) : Host.Outcome State Fault Refusal :=
  if s.signs then .next { s with measured := s.measurements } else .next s

/-- A chain holds the device's public key: a certificate carries its modulus, 512 bytes with the first the most significant
(PRESUMED from X.509; log entry 150). -/
def State.chainNames (s : State) (chain : List Byte) : Bool :=
  let key := (leBytes 512 s.flash.identityPublic.toNat).reverse
  (List.range chain.length).any (fun i => key.isPrefixOf (chain.drop i))

/-- SPDM_SET_CERTIFICATE (R463): one chain in slot 1 in OWNED, whose last certificate certifies a key; it must be the
device's public key, which the chain then holds. -/
def execSpdmSetCertificate (slot : Nat) (chain : List Byte) (certified : BitVec 4096) (s : State) :
    Host.Outcome State Fault Refusal :=
  if s.attests && s.shadowBank.lifecycle = 2 && slot = 1 && certified = s.flash.identityPublic && s.chainNames chain then
    .next { s with flash := { s.flash with cert1 := chain } }
  else .next s

/-- SPDM_KEY_EXCHANGE (R417): a secured session over MCTP, or over the CXL DOE mailbox while the link is up. -/
def execSpdmKeyExchange (doe : Bool) (s : State) : Host.Outcome State Fault Refusal :=
  if s.signs && (!doe || s.hostUp) then .next { s with sessions := s.sessions ||| (if doe then 2 else 1) } else .next s

end Sys2Proof.Machine
end

