-- ==== Sys2Proof/Machine/Control.lean ====
section
/-!
DEFINITION. The control-slot rows (Table 3 of "The Core"): each issues the bundle at its core's pc with its own
operation in the control slot.
-/
namespace Sys2Proof.Machine

/-- NOP (R71): a slot that does nothing; the rest of its bundle issues as it stands. -/
def execNop (p : PCore) (slot : SlotName) (g : Guard) (s : State) : Host.Outcome State Fault Refusal :=
  match slot with
  | .control => .next (s.issueCtl p g .nop)
  | .move => .next (s.issueMove p g .nop)
  | .vector => .next (s.issueVec p g .nop)
  | .array => .next (s.issueArr p g .nop)

/-- ADD (R77). -/
def execAdd (p : PCore) (g : Guard) (d a b : SReg) (s : State) : Host.Outcome State Fault Refusal :=
  .next (s.issueCtl p g (.alu .add d a b))

/-- SUB (R77). -/
def execSub (p : PCore) (g : Guard) (d a b : SReg) (s : State) : Host.Outcome State Fault Refusal :=
  .next (s.issueCtl p g (.alu .sub d a b))

/-- AND (R77). -/
def execAnd (p : PCore) (g : Guard) (d a b : SReg) (s : State) : Host.Outcome State Fault Refusal :=
  .next (s.issueCtl p g (.alu .and d a b))

/-- OR (R77). -/
def execOr (p : PCore) (g : Guard) (d a b : SReg) (s : State) : Host.Outcome State Fault Refusal :=
  .next (s.issueCtl p g (.alu .or d a b))

/-- XOR (R77). -/
def execXor (p : PCore) (g : Guard) (d a b : SReg) (s : State) : Host.Outcome State Fault Refusal :=
  .next (s.issueCtl p g (.alu .xor d a b))

/-- SHL (R77). -/
def execShl (p : PCore) (g : Guard) (d a b : SReg) (s : State) : Host.Outcome State Fault Refusal :=
  .next (s.issueCtl p g (.alu .shl d a b))

/-- SHR (R77). -/
def execShr (p : PCore) (g : Guard) (d a b : SReg) (s : State) : Host.Outcome State Fault Refusal :=
  .next (s.issueCtl p g (.alu .shr d a b))

/-- ADDI (R77). -/
def execAddi (p : PCore) (g : Guard) (d a : SReg) (imm : BitVec 12) (s : State) : Host.Outcome State Fault Refusal :=
  .next (s.issueCtl p g (.addi d a imm))

/-- LI (R77). -/
def execLi (p : PCore) (g : Guard) (d : SReg) (imm : BitVec 16) (s : State) : Host.Outcome State Fault Refusal :=
  .next (s.issueCtl p g (.li d imm))

/-- LUI (R77). -/
def execLui (p : PCore) (g : Guard) (d : SReg) (imm : BitVec 16) (s : State) : Host.Outcome State Fault Refusal :=
  .next (s.issueCtl p g (.lui d imm))

/-- MUL (R77). -/
def execMul (p : PCore) (g : Guard) (d a b : SReg) (s : State) : Host.Outcome State Fault Refusal :=
  .next (s.issueCtl p g (.alu .mul d a b))

/-- SETP (R77). -/
def execSetp (p : PCore) (g : Guard) (cond : BitVec 2) (pd : PReg) (a b : SReg) (s : State) : Host.Outcome State Fault Refusal :=
  .next (s.issueCtl p g (.setp cond pd a b))

/-- PLOG (R77). -/
def execPlog (p : PCore) (g : Guard) (op : BitVec 2) (pd pa pb : PReg) (s : State) : Host.Outcome State Fault Refusal :=
  .next (s.issueCtl p g (.plog op pd pa pb))

/-- BR (R79, R87). -/
def execBr (p : PCore) (g : Guard) (target : BitVec 12) (s : State) : Host.Outcome State Fault Refusal :=
  .next (s.issueCtl p g (.br target))

/-- LOOP (R83 to R86). -/
def execLoop (p : PCore) (g : Guard) (ln : BitVec 2) (src : Bool) (count : BitVec 7) (last : BitVec 12) (s : State) : Host.Outcome State Fault Refusal :=
  .next (s.issueCtl p g (.loop ln src count last))

/-- LDW (R78). -/
def execLdw (p : PCore) (g : Guard) (d a : SReg) (imm : BitVec 12) (s : State) : Host.Outcome State Fault Refusal :=
  .next (s.issueCtl p g (.ldw d a imm))

/-- STW (R78, R327). -/
def execStw (p : PCore) (g : Guard) (src a : SReg) (imm : BitVec 12) (s : State) : Host.Outcome State Fault Refusal :=
  .next (s.issueCtl p g (.stw src a imm))

/-- DWR (R81). -/
def execDwr (p : PCore) (g : Guard) (table : Bool) (index : BitVec 8) (word : BitVec 3) (src : SReg) (s : State) : Host.Outcome State Fault Refusal :=
  .next (s.issueCtl p g (.dwr table index word src))

/-- MOVVS (R77). -/
def execMovvs (p : PCore) (g : Guard) (d : SReg) (va : VReg) (lane : BitVec 7) (s : State) : Host.Outcome State Fault Refusal :=
  .next (s.issueCtl p g (.movvs d va lane))

/-- MOVLS (R77). -/
def execMovls (p : PCore) (g : Guard) (d : SReg) (ln : BitVec 2) (s : State) : Host.Outcome State Fault Refusal :=
  .next (s.issueCtl p g (.movls d ln))

/-- BPOST (R88, R89, R252, R253). -/
def execBpost (p : PCore) (g : Guard) (sys : Bool) (id : BitVec 8) (s : State) : Host.Outcome State Fault Refusal :=
  .next (s.issueCtl p g (.bpost sys id))

/-- BWAIT (R88, R89, R252). -/
def execBwait (p : PCore) (g : Guard) (sys : Bool) (id : BitVec 8) (s : State) : Host.Outcome State Fault Refusal :=
  .next (s.issueCtl p g (.bwait sys id))

/-- BSYNC (R88, R89, R252, R253). -/
def execBsync (p : PCore) (g : Guard) (sys : Bool) (id : BitVec 8) (s : State) : Host.Outcome State Fault Refusal :=
  .next (s.issueCtl p g (.bsync sys id))

/-- WAITS (R77, R111). -/
def execWaits (p : PCore) (g : Guard) (mask : BitVec 4) (s : State) : Host.Outcome State Fault Refusal :=
  .next (s.issueCtl p g (.waits mask))

/-- WAITA (R77, R140). -/
def execWaita (p : PCore) (g : Guard) (s : State) : Host.Outcome State Fault Refusal :=
  .next (s.issueCtl p g .waita)

/-- END (R82, R140). -/
def execEndc (p : PCore) (g : Guard) (s : State) : Host.Outcome State Fault Refusal :=
  .next (s.issueCtl p g .halt)

end Sys2Proof.Machine
end

