-- ==== Sys2Proof/Machine/HostRegs.lean ====
section
/-!
DEFINITION. Writes of BAR0 registers (R9 to R11, R400 to R404) and the ways of an access to BAR0: at once, into a hole,
or waiting on a stopped region clock (R401, R442, R443).
-/
namespace Sys2Proof.Machine

/-! ### What an access code does (R9) -/

/-- A write to one field by its access code; actions of WO fields are their own. The flags behind NUM_MON_FLAG_SEL are
those of the word it selects (R345). -/
def State.fieldWrite (s : State) (v : Nat) (f : Field) (i : Nat) : State :=
  let x := bits v f.info.lo f.info.width
  match f.info.acc with
  | .ro => s
  | .wo => s
  | .rw => s.put f x i
  | .rwf => s.put f x i
  | .w1c =>
    let i := if f = .NUM_MON_FLAGS_FLAGS then s.get .NUM_MON_FLAG_SEL_WORD else i
    s.putWord f (s.word f i &&& ~~~BitVec.ofNat 32 x) i

/-- A write to every field of a register; where there is none, the hole's event (R400). -/
def State.plainWrite (s : State) (off v : Nat) : State :=
  let fs := fieldsAt off
  if fs.isEmpty then s.event 0x0B04 clsNone 0 0 off else s.each fs (fun s x => s.fieldWrite v x.1 x.2)

/-! ### Command rings (R402 to R404) -/

/-- The SQ index moves past the CQ's or the ring's end, or stays in bounds, at a doorbell: the write that stops the ring
has CAUSE 3; an index of a ring that is not enabled is only stored. -/
def State.sqDoorbell (s : State) (r v : Nat) : State :=
  let n := s.ringEntries r
  let idx := bits v 0 12
  let tail := s.get .HOST_SQ_TAIL_INDEX r
  let head := s.get .HOST_SQ_HEAD_INDEX r
  if !s.on .HOST_RING_CFG_EN r then s.put .HOST_SQ_TAIL_INDEX idx r
  else if n ≤ idx || (head + n - tail + n - 1) % n < (idx + n - tail) % n then s.ringFault r 3
  else s.put .HOST_SQ_TAIL_INDEX idx r

def State.cqDoorbell (s : State) (r v : Nat) : State :=
  let n := s.ringEntries r
  let idx := bits v 0 12
  let tail := s.get .HOST_CQ_TAIL_INDEX r
  let head := s.get .HOST_CQ_HEAD_INDEX r
  if !s.on .HOST_RING_CFG_EN r then s.put .HOST_CQ_HEAD_INDEX idx r
  else if n ≤ idx || (tail + n - head) % n < (idx + n - head) % n then s.ringFault r 3
  else s.put .HOST_CQ_HEAD_INDEX idx r

/-- The placement of a ring holds (R402, R403): bases on 4 KiB, below S × C, clear of the image and other enabled
rings; a CQ in host memory is exempt. -/
def State.ringPlaced (s : State) (r : Nat) : Bool :=
  let others := (0, s.imageTop) :: ([0, 1, 2, 3].filter (fun q => q != r && s.on .HOST_RING_CFG_EN q)).flatMap s.ringSpans
  s.sqBase r % 4096 = 0 && (s.on .HOST_RING_CFG_HOST_MEM r || (s.cqBase r % 4096 = 0 && s.cqBase r < 2 ^ 48)) &&
    (s.ringSpans r).all (fun x => x.1 + x.2 ≤ s.ringTop && !others.any (spansMeet x))

/-- A write of HOST_RING_CFG: EN from 0 to 1 checks SIZE and the placement and resets the indices and the phase; with EN
at 1 another SIZE is ignored with an event; EN to 0 stops fetching. -/
def State.ringCfg (s : State) (r v : Nat) : State :=
  let was := s.on .HOST_RING_CFG_EN r
  let en := bits v 4 1 = 1
  let size := bits v 0 4
  let s := s.put .HOST_RING_CFG_HOST_MEM (bits v 5 1) r
  let s := if !was then s.put .HOST_RING_CFG_SIZE size r
    else if size != s.get .HOST_RING_CFG_SIZE r then s.ignoredWrite (0x108 + 0x40 * r) else s
  if !en then s.put .HOST_RING_CFG_EN 0 r
  else if was then s
  else if 9 ≤ size then s.put .HOST_RING_STAT_CAUSE 1 r
  else if !s.ringPlaced r then s.puts r [(.HOST_RING_STAT_FAULT, 1), (.HOST_RING_STAT_CAUSE, 2)]
  else
    let s := s.puts r [(.HOST_RING_CFG_EN, 1), (.HOST_SQ_TAIL_INDEX, 0), (.HOST_SQ_HEAD_INDEX, 0), (.HOST_CQ_TAIL_INDEX, 0),
      (.HOST_CQ_HEAD_INDEX, 0)]
    { s with phase := s.phase ||| BitVec.ofNat 4 (2 ^ r) }

/-- A write to the registers of a ring. -/
def State.ringWrite (s : State) (r w v : Nat) : State :=
  let off := 0x100 + 0x40 * r + w
  if w = 0x08 then s.ringCfg r v
  else if w = 0x0C then s.sqDoorbell r v
  else if w = 0x20 then s.cqDoorbell r v
  else if (w = 0x00 || w = 0x04 || w = 0x14 || w = 0x18) && s.on .HOST_RING_CFG_EN r then s.ignoredWrite off
  else s.plainWrite off v

/-! ### The mailbox (R402, R406) -/

/-- The descriptor that the mailbox holds. -/
def State.mailDescriptor (s : State) : List Byte := (List.range 16).flatMap (fun w => leBytes 4 (s.get .HOST_MBX_CMD_WORD w))

/-- A write of HOST_MBX_CTRL: DONE is cleared by a 1, GO submits unless BUSY. -/
def State.mailCtrl (s : State) (v : Nat) : State :=
  let s := if bits v 2 1 = 1 then s.put .HOST_MBX_CTRL_DONE 0 else s
  if bits v 0 1 = 0 || s.on .HOST_MBX_CTRL_BUSY then s
  else (s.put .HOST_MBX_CTRL_BUSY 1).accept .mailbox s.mailDescriptor

/-- The mailbox and doorbell block. -/
def State.mailWrite (s : State) (off v : Nat) : State :=
  if off < 0x40 && s.on .HOST_MBX_CTRL_BUSY then s.ignoredWrite off
  else if off = 0x40 then s.mailCtrl v
  else if 0x100 ≤ off && off < 0x200 then s.ringWrite ((off - 0x100) / 0x40) ((off - 0x100) % 0x40) v
  else s.plainWrite off v

/-! ### The MSI-X table (R399, R412) -/

/-- A write to the MSI-X block: a vector that is unmasked while pending sends its message. -/
def State.msixWrite (s : State) (off v : Nat) : State :=
  if pbaBase + 8 ≤ off then s.event 0x0B04 clsNone 0 0 off
  else if pbaBase ≤ off then s
  else
    let k := (off - msixBase) / 4
    let bit := BitVec.ofNat 64 (2 ^ (k / 4))
    if k % 4 != 3 then { s with msixTable := mset 0 s.msixTable k (BitVec.ofNat 32 v) }
    else if bits v 0 1 = 1 then { s with msixMask := s.msixMask ||| bit }
    else
      let s : State := { s with msixMask := s.msixMask &&& ~~~bit }
      if s.msixPending.getLsbD (k / 4) then ({ s with msixPending := s.msixPending &&& ~~~bit } : State).msixSend (k / 4) else s

/-! ### Registers with rules of their own -/

/-- A write of MEM_SCRUB_CFG (R223, R224): each field takes a legal value; another is ignored with an event. -/
def State.scrubWrite (s : State) (v : Nat) : State :=
  let p := bits v 0 10
  let h := bits v 16 8
  let s := if 1 ≤ p && p ≤ 1000 then s.put .MEM_SCRUB_CFG_PERIOD_S p else s.ignoredWrite 0x800010
  (if 1 ≤ h then s.put .MEM_SCRUB_CFG_PATROL_H h else s.ignoredWrite 0x800010).setScrub

/-- A write of RES_MODULE_ID (R61): NEXT_ID is saved to flash and PENDING set. -/
def State.nextIdWrite (s : State) (v : Nat) : State :=
  let id := bits v 16 14
  let s : State := { s with flash := { s.flash with nextId := some (BitVec.ofNat 14 id) } }
  s.puts 0 [(.RES_MODULE_ID_NEXT_ID, id), (.RES_MODULE_ID_PENDING, 1)]

/-- A write of RES_SITE_TAG (R61, R493): saved to flash; it makes a pairing in effect unverified, and
a source that this module hosts is told. -/
def State.siteTagWrite (s : State) (v : Nat) : State :=
  let tag := bits v 0 16
  let t : State := { s with flash := { s.flash with siteTag := BitVec.ofNat 16 tag } }
  ((t.put .RES_SITE_TAG_SITE_TAG tag).unverify 1).reportTags

/-- The hosted area may lie where MNT_HOST_BASE and MNT_HOST_UNITS place it (R492). -/
def State.hostedPlaced (s : State) : Bool :=
  let x := s.hostedSpan
  x.1 % 4096 = 0 && (x.2 = 0 || (x.1 + x.2 ≤ s.ringTop && !((0, s.imageTop) :: s.enabledSpans).any (spansMeet x)))

/-- A write of MNT_HOST_BASE or MNT_HOST_UNITS (R492): one that would misplace the area is ignored with an event; copies
in an area that moves are copies no longer. -/
def State.hostedAreaWrite (s : State) (off v : Nat) : State :=
  let t := s.plainWrite off v
  if !t.hostedPlaced then s.ignoredWrite off else if t.hostedSpan = s.hostedSpan then t else t.dropHosted

/-- A write of MNT_HOST_SRC (R492): RELEASE invalidates both slots and forgets the source. -/
def State.hostedRelease (s : State) (v : Nat) : State :=
  if bits v 15 1 = 0 then s else s.dropHosted.puts 0 [(.MNT_HOST_SRC_VALID, 0), (.MNT_HOST_SRC_MODULE_ID, 0)]

/-- A core of the region runs. -/
def State.coreRuns (s : State) (r : Nat) : Bool := (regionCores r).any (fun p => s.get .CORE_STATUS_STATE p = 1)

/-- A write to a debug window (R117, R156 to R158). ARR_SKEW.EN is the controller firmware's: a host write that sets it is
ignored (R479, Table 3; log entry 154). -/
def State.debugWrite (s : State) (r off v : Nat) : State :=
  let w := (off - debugBase) % debugSize
  if w < 0x4400 && w % 0x100 = 0x10 && s.get .CORE_STATUS_STATE (slotCore r (w / 0x100)) = 1 then s.ignoredWrite off
  else if (w = 0x4800 || w = 0x4804) && s.coreRuns r then s.ignoredWrite off
  else if w = 0x4804 && bits v 7 1 = 1 then s.ignoredWrite off
  else if w = 0x4808 then s.writeDbgSel r v
  else if 0x4880 ≤ w && w < 0x4900 && !s.feature 2 then s.ignoredWrite off
  else s.plainWrite off v

/-- The port or ring whose register lies at an offset of an array. -/
def arrayIndex (base stride count off : Nat) : Option Nat :=
  if base ≤ off && (off - base) % stride = 0 && (off - base) / stride < count then some ((off - base) / stride) else none

/-- A write to the blocks from fuses to numerics. -/
def State.blockWrite1 (s : State) (off v : Nat) : State :=
  if off = 0x400200 && s.shadowBank.lockPolicy then s.event 0x0B02 clsNone 0 0 off
  else if off = 0x400218 then (if bits v 0 1 = 1 then s.fuseGo else s)
  else if off = 0x600010 && bits v 0 16 = 0 then s.ignoredWrite off
  else if off = 0x700000 && s.job then s.ignoredWrite off
  else if off = restartOffset then s.writeRestart v
  else s.plainWrite off v

/-- A write of RES_STEP_CTRL (R323): STOP_EN is taken; while steps run another START_BUF is not, with an event. -/
def State.stepCtrlWrite (s : State) (off v : Nat) : State :=
  let s := s.put .RES_STEP_CTRL_STOP_EN (bits v 1 1)
  if bits v 0 1 = s.get .RES_STEP_CTRL_START_BUF then s
  else if s.on .RES_STEP_STATE_PHASE then s.ignoredWrite off
  else s.put .RES_STEP_CTRL_START_BUF (bits v 0 1)

/-- A write to the memory, optical, maintenance and resilience blocks. -/
def State.blockWrite2 (s : State) (off v : Nat) : State :=
  if off = 0x800010 then s.scrubWrite v
  else if off = ceSelOffset then s.writeCeSel v
  else if off = 0xA00024 && bits v 0 16 = 0 then s.ignoredWrite off
  else if off = 0xA00040 && bits v 9 8 = 0 then (s.put .MNT_MOTION_CFG_THRESH (bits v 0 9)).ignoredWrite off
  else if off = 0xA00044 then (if bits v 16 1 = 1 then s.puts 0 [(.MNT_MOTION_STAT_TRIGGERED, 0), (.MNT_MOTION_STAT_PEAK, 0)] else s)
  else if off = 0xA00050 || off = 0xA00054 || off = 0xA00058 then s.hostedAreaWrite off v
  else if off = 0xA0005C then s.hostedRelease v
  else if off = 0xB00000 then s.nextIdWrite v
  else if off = 0xB00008 then s.siteTagWrite v
  else if (off = 0xB00108 || off = 0xB0010C) && s.on .RES_STEP_STATE_PHASE then s.ignoredWrite off
  else if off = 0xB00118 then s.stepCtrlWrite off v
  else
    match arrayIndex (inProdOffset 0) 0x20 8 off, arrayIndex (portCtrlOffset 0) 0x20 160 off with
    | some ring, _ => s.writeInProd ring v
    | none, some n => s.writePortCtrl n v
    | none, none => s.plainWrite off v

/-- A 32-bit write that reaches an aligned BAR0 offset. -/
def State.regWrite (s : State) (off v : Nat) : State :=
  match debugRegion off with
  | some r => s.debugWrite r off v
  | none =>
    if off < msixBase then s.mailWrite off v
    else if off < 0x200000 then s.msixWrite off v
    else if off < 0x800000 then s.blockWrite1 off v
    else s.blockWrite2 off v

/-! ### Reads and their effects -/

/-- What a 32-bit read of an aligned offset does: PWR_AC_LO latches the high half (R439), a hole has its event; a read of
an offset of a debug window that holds no register takes a free value (R454). -/
def State.readTouch (s : State) (off : Nat) : State :=
  let none := (s.regRead off).isNone
  let s := if (debugRegion off).isSome && (fieldsAt off).isEmpty then s.useFree 1 else s
  if none then s.event 0x0B04 clsNone 0 0 off
  else if off = 0x200080 then s.put .PWR_AC_HI_COUNT (s.ac / 2 ^ 32) else s

/-- The bytes that reads of aligned offsets bring, with their effects. -/
def State.readWords (s : State) : List Nat → State × List Byte
  | [] => (s, [])
  | off :: rest =>
    let r := (s.readTouch off).readWords rest
    (r.1, leBytes 4 ((s.regRead off).getD 0) ++ r.2)

/-- The aligned words of an access: one of 4 bytes or two of an aligned 8; none of another size or alignment (R400). -/
def accessWords (off n : Nat) : List Nat :=
  if n = 4 && off % 4 = 0 then [off] else if n = 8 && off % 8 = 0 then [off, off + 4] else []

/-- An access to BAR0 that gets through. -/
def State.bar0Do (s : State) (off : Nat) (op : HostOp) : State :=
  match op with
  | .read n =>
    (match accessWords off n with
    | [] => { s.event 0x0B04 clsNone 0 0 off with rsp := ⟨.ok, List.replicate n 0⟩ }
    | ws =>
      let r := s.readWords ws
      { r.1 with rsp := ⟨.ok, r.2⟩ })
  | .write d =>
    (match accessWords off d.length with
    | [] => s.event 0x0B04 clsNone 0 0 off
    | ws => s.each ws (fun s w => s.regWrite w (leNat ((d.drop (w - off)).take 4))))

/-! ### Waiting (R401, R442, R443) -/

/-- Module address of BAR0 offset 0 (R215). -/
def controlBase : Nat := 0x7F0000000000

/-- A posted write to BAR0 that waits. -/
def Stalled.posted (x : Stalled) : Bool := x.bar0 && controlBase ≤ x.addr && x.op.isWrite

/-- The region whose stopped clock holds an access to BAR0. -/
def State.holds (s : State) (off : Nat) : Option Nat :=
  match debugRegion off with
  | some r => if s.stopped r then some r else none
  | none => none

/-- An access to BAR0 arrives while the host link is up: a write waits behind a posted write that waits; an access to the
window of a stopped region waits for its clock. Region 400 stands for a write that waits only for its turn. -/
def State.bar0Arrive (s : State) (off : Nat) (op : HostOp) : State :=
  if !s.hostUp then s
  else if op.isWrite && s.stalledQ.any Stalled.posted then
    { s with stalledQ := s.stalledQ ++ [⟨(debugRegion off).getD 400, true, controlBase + off, op⟩] }
  else
    match s.holds off with
    | some r => { s with stalledQ := s.stalledQ ++ [⟨r, true, controlBase + off, op⟩], rsp := ⟨.waiting, []⟩ }
    | none => s.bar0Do off op

/-- A 32-bit write of a BAR0 register arrives. -/
def State.bar0Write (s : State) (off : Nat) (v : Word) : State := s.bar0Arrive off (.write (leBytes 4 v.toNat))

/-- A waiting access goes through, or waits for another region; the host discards a late BAR0 completion (R401). -/
def State.resume (s : State) (x : Stalled) : State :=
  if x.addr < controlBase then s.hostClusterArrive x.bar0 x.addr x.op
  else { s.bar0Do (x.addr - controlBase) x.op with rsp := s.rsp }

/-- Posted writes to BAR0 whose turn has come, oldest first. -/
def State.drainPosted : Nat → State → State
  | 0, s => s
  | n + 1, s =>
    match s.stalledQ.find? Stalled.posted with
    | none => s
    | some x =>
      if (s.holds (x.addr - controlBase)).isSome then s
      else State.drainPosted n (({ s with stalledQ := s.stalledQ.erase x } : State).resume x)

/-- The oldest access that waits for a region's clock and whose turn has come. -/
def State.nextStalled (s : State) (r : Nat) : Option Stalled :=
  s.stalledQ.find? (fun x => x.region = r && (!x.posted || s.stalledQ.find? Stalled.posted = some x))

/-- The clock of a region runs again: an access that waited for it completes, and the posted writes behind it follow. -/
def State.stalledDone (s : State) (r : Nat) : State :=
  if s.stopped r then s
  else
    match s.nextStalled r with
    | none => s
    | some x => State.drainPosted s.stalledQ.length (({ s with stalledQ := s.stalledQ.erase x } : State).resume x)

end Sys2Proof.Machine
end

