-- ==== Sys2Proof/Machine/Eloap.lean ====
section
/-!
DEFINITION. The rows of Eloap beside its serial commands: STATE_QUERY and LOG_READ (Tables 5 and 8 of "Host
Attachment"), the fetch of a ring's entry (R405), commands out of band (R413, R414) and the reset of the host interface
(R394).
-/
namespace Sys2Proof.Machine

/-! ### STATE_QUERY -/

/-- RESULT1 of STATE_QUERY (Table 8). -/
def State.queryWord (s : State) : Nat :=
  (s.regRead 0xB00110).getD 0 + 2 ^ 32 * s.get .IMG_STATE_STATE + 2 ^ 34 * s.get .PWR_CAP_PROFILE +
    2 ^ 36 * s.get .PWR_LADDER_MODULE + 2 ^ 39 * maskOf [s.job, s.on .PWR_HOLDUP_ARMED, s.on .RES_PAIR_VERIFIED,
      s.on .PWR_FEED_STAT_A_CARRY, s.on .PWR_FEED_STAT_B_CARRY]

/-- STATE_QUERY (Table 8). -/
def execStateQuery (c : Ctx) (s : State) : Host.Outcome State Fault Refusal :=
  s.command c (.stateQuery c) (fun s => s.complete c 0x0060 0 0 s.stepCount s.queryWord)

/-! ### LOG_READ (R409, R415, R511) -/

/-- The 32 bytes of an entry (Table 8 of "Faults, Partners and Securing State"). -/
def LogEntry.bytes (e : LogEntry) : List Byte :=
  leBytes 4 e.seq.toNat ++ (leBytes 8 e.counter.toNat ++ (leBytes 8 e.step.toNat ++ (leBytes 2 e.code.toNat ++
    (leBytes 1 e.cls.toNat ++ (leBytes 1 0 ++ (leBytes 2 e.location.toNat ++ (leBytes 2 e.detail.toNat ++
      leBytes 4 e.value.toNat)))))))

/-- The entries that a LOG_READ returns, oldest first. -/
def State.logEntries (s : State) (first count : Nat) : List LogEntry :=
  (s.log.reverse.filter (fun e => first ≤ e.seq.toNat)).take count

/-- Writes entries from an address on; stops at one that falls in an uncorrectable line. The entries written. -/
def State.writeLog (s : State) (a : Nat) : List LogEntry → State × List LogEntry
  | [] => (s, [])
  | e :: es =>
    match s.writePhys a e.bytes with
    | (s, false) => (s, [])
    | (s, true) =>
      let r := s.writeLog (a + 32) es
      (r.1, e :: r.2)

/-- A LOG_READ has covered some entries. -/
def State.coverLog (s : State) (es : List LogEntry) : State :=
  { s with
    log := s.log.map (fun e => if es.any (fun x => x.seq = e.seq) then { e with covered := true } else e)
    sinceRead := 0 }

/-- The newest entry's sequence number, 0 while there is none. -/
def State.newestSeq (s : State) : Nat := (s.log.head?.map (·.seq.toNat)).getD 0

/-- LOG_READ: out of band with INLINE the entries follow the completion; else they go to DEST. -/
def State.logRead (s : State) (c : Ctx) (first count dest : Nat) (inline : Bool) : State :=
  let es := s.logEntries first count
  let newest := s.newestSeq
  let span := (dest, 32 * count)
  if 4096 < count || (inline && (!c.src.oob || 4 < count)) || (!inline && dest % 32 != 0) then s.complete c 0x0061 0x02 0 0 0
  else if inline then
    (s.coverLog es).complete c 0x0061 0 0 es.length newest (es.flatMap LogEntry.bytes)
  else if s.ringTop < dest + 32 * count || s.ringAsleep then s.complete c 0x0061 0x09 0 0 0
  else if ((0, s.imageTop) :: s.enabledSpans).any (spansMeet span) then s.complete c 0x0061 0x05 0 0 0
  else
    let r := s.writeLog dest es
    (r.1.coverLog r.2).complete c 0x0061 (if r.2.length = es.length then 0 else 0x0A) 0 r.2.length newest

/-- LOG_READ (R409, R415, R511, R534). -/
def execLogRead (c : Ctx) (first : Word) (count : BitVec 16) (dest : BitVec 64) (inline : Bool) (s : State) :
    Host.Outcome State Fault Refusal :=
  s.command c (.logRead c first count dest inline) (fun s => s.logRead c first.toNat count.toNat dest.toNat inline)

/-! ### Fetching (R405) -/

/-- The next entry of a ring is fetched; one that cannot be read stops the ring (R404). -/
def State.fetchEntry (s : State) (r : Fin 4) : State :=
  let head := s.get .HOST_SQ_HEAD_INDEX r
  match s.readPhys (s.sqBase r + 64 * head) 64 with
  | (s, none) => s.ringFault r 4
  | (s, some d) => (s.put .HOST_SQ_HEAD_INDEX ((head + 1) % s.ringEntries r) r).accept (.ring r) d

/-- A ring has an entry that the module may fetch (R405). -/
def State.canFetch (s : State) (r : Fin 4) : Bool :=
  s.sourceUp (.ring r) && s.get .HOST_SQ_HEAD_INDEX r != s.get .HOST_SQ_TAIL_INDEX r

/-- The ring whose turn it is: the first with an entry to fetch, counting on from `fetchTurn` (R405). -/
def State.fetchNext (s : State) : Option (Fin 4) :=
  ((List.range 4).map (fun i => Fin.ofNat 4 (s.fetchTurn.toNat + i))).find? s.canFetch

/-- SQ_FETCH (R404, R405): the rings are served in turn. -/
def execSqFetch (r : Fin 4) (s : State) : Host.Outcome State Fault Refusal :=
  if s.fetchNext = some r then .next (({ s with fetchTurn := BitVec.ofNat 2 (r.val + 1) } : State).fetchEntry r) else .next s

/-! ### Out of band (R413, R414) -/

/-- A message comes to the module: over PCIe, or at the SMBus address at which the module answers (R413). -/
def State.addressed (s : State) : OobLink → Bool
  | .smbus a => a = s.smbusAddr
  | .pcieVdm => true

/-- MCTP_COMMAND (R413, R414): nothing at another SMBus address; accepted, or completed at once with status 0x03 while the endpoint has a command outstanding. A
message that does not carry 64 bytes holds no descriptor and is dropped (log entry 14). -/
def execMctpCommand (link : OobLink) (descriptor : List Byte) (s : State) : Host.Outcome State Fault Refusal :=
  if !(Instr.mctpCommand link descriptor).wellFormed || !s.addressed link || !s.sourceUp link.source then .next s
  else if s.oobBusy &&& link.bit != 0 then
    let c := descCtx link.source descriptor
    .next { s with oobOut := s.oobOut ++ [1 :: completionBytes c.tag (dfield descriptor 0 2) 0x03 0 5 0 0 0] }
  else
    let s : State := { s with
      oobBusy := s.oobBusy ||| link.bit
      smbusDriving := s.smbusDriving || link.source = .oobSmbus }
    .next (s.accept link.source descriptor)

/-- MCTP_EID_ASSIGNED (R386, R413): the endpoint's transactions are rolled back. DESIGN CHOICE (log entry 151): the row of
the SMBus endpoint carries the address that SMBus ARP has given it, at which it answers from then on. -/
def execMctpEidAssigned (link : OobLink) (s : State) : Host.Outcome State Fault Refusal :=
  match link with
  | .smbus a => .next (({ s with smbusAddr := a } : State).requesterReset 1)
  | .pcieVdm => .next (s.requesterReset 2)

/-! ### The reset of the host interface (R394, R443) -/

/-- Ring configuration, mailbox, BAR2 base and interrupt mask go back to their reset values; waiting accesses and
completions are discarded; commands already fetched run without a completion; transactions begun over CXL are rolled back. -/
def State.hostReset (s : State) : State :=
  let mine := (s.accepted.map (·.1)).filter (fun c => !c.src.oob)
  let s := s.each [0, 1, 2, 3] (fun s r => s.clears r [.HOST_SQ_BASE_LO_ADDR, .HOST_SQ_BASE_HI_ADDR, .HOST_RING_CFG_SIZE,
    .HOST_RING_CFG_EN, .HOST_RING_CFG_HOST_MEM, .HOST_CQ_BASE_LO_ADDR, .HOST_CQ_BASE_HI_ADDR])
  let s := s.each (List.range 16) (fun s w => s.put .HOST_MBX_CMD_WORD 0 w)
  let s := s.each (List.range 8) (fun s w => s.put .HOST_MBX_CPL_WORD 0 w)
  let s := s.clears 0 [.HOST_MBX_CTRL_BUSY, .HOST_MBX_CTRL_DONE, .HOST_BAR2_BASE_GIB, .HOST_IRQ_MASK_SRC]
  ({ s with
    orphans := s.orphans.filter (fun c => c.src.oob) ++ mine
    cqWait := []
    stalledQ := [] } : State).requesterReset 0

/-- HOST_INTERFACE_RESET (R394, R443). -/
def execHostInterfaceReset (kind : HostReset) (s : State) : Host.Outcome State Fault Refusal :=
  match kind with
  | .linkReset => .next s.hostReset
  | .perst true => .next (({ s.hostReset with perst := true } : State).put .RES_MGMT_PERST 1)
  | .perst false => .next (({ s with perst := false } : State).put .RES_MGMT_PERST 0)

end Sys2Proof.Machine
end

