-- ==== Sys2Proof/Machine/Jobs.lean ====
section
/-!
DEFINITION. The rows RUN, HALT, SECURE_NOW, PAIR, LADDER and the ends of the long ones (Table 5 of "Host Attachment").
-/
namespace Sys2Proof.Machine

/-- RUN (R70, R306, R431). -/
def execRun (c : Ctx) (s : State) : Host.Outcome State Fault Refusal := s.command c (.run c) (fun s => s.runJob c)

/-- HALT (R70, R411). -/
def execHalt (c : Ctx) (s : State) : Host.Outcome State Fault Refusal := s.command c (.halt c) (fun s => s.haltJob c)

/-- SECURE_NOW (R316, R501): DETAIL 0 started, 1 deferred; status 0x04 where the request is only logged. -/
def execSecureNow (c : Ctx) (s : State) : Host.Outcome State Fault Refusal :=
  s.command c (.secureNow c) (fun s =>
    match s.secureRequest 4 with
    | (s, .logged) => s.complete c 0x0030 0x04 0 0 0
    | (s, .started) => s.complete c 0x0030 0 0 0 0
    | (s, .deferred) => s.complete c 0x0030 0 1 0 0)

/-- PAIR (R490). -/
def execPair (c : Ctx) (partner : BitVec 14) (s : State) : Host.Outcome State Fault Refusal :=
  s.command c (.pair c partner) (fun s => s.pair c partner.toNat)

/-- PAIRING_EXCHANGE_END (R490, R491). -/
def execPairingExchangeEnd (reply : Option PairReply) (s : State) : Host.Outcome State Fault Refusal :=
  match s.pairing with
  | some j => .next (s.pairEnd j reply)
  | none => .next s

/-- PAIRING_EXCHANGE_RECEIVED (R490, R492). -/
def execPairingExchangeReceived (n : PortRef) (source : PairTags) (s : State) : Host.Outcome State Fault Refusal :=
  .next (s.pairReceived n source)

/-- LADDER (R431, R432). -/
def execLadder (c : Ctx) (target : BitVec 8) (isSet : Bool) (regions : RegionSet) (s : State) :
    Host.Outcome State Fault Refusal :=
  s.command c (.ladder c target isSet regions) (fun s => s.ladder c target.toNat isSet regions)

/-- LADDER_DONE (R429, R430, R477). -/
def execLadderDone (s : State) : Host.Outcome State Fault Refusal := .next s.ladderDone

end Sys2Proof.Machine
end

