-- ==== Sys2Proof/Machine/Load.lean ====
section
/-!
DEFINITION. LOAD_IMAGE and the transaction rows (R373 to R391).
-/
namespace Sys2Proof.Machine

/-- LOAD_IMAGE (R373 to R378): refused, rejected, or accepted and on its way to LOAD_IMAGE_DONE. -/
def execLoadImage (c : Ctx) (addr : BitVec 64) (s : State) : Host.Outcome State Fault Refusal :=
  s.command c (.loadImage c addr) (fun s => s.loadImage c addr.toNat)

/-- LOAD_IMAGE_DONE (R375): the apply, once the clock of every region the image raises runs; till then the loader keeps
trying to raise them (log entry 44). It ends the drains that run, and queued activities that waited for them start (R375,
R508). -/
def execLoadImageDone (s : State) : Host.Outcome State Fault Refusal :=
  match s.loading with
  | none => .next s
  | some j =>
    let up := s.raiseRegions j.image
    if up.clocksRun j.image then .next (up.applyLoad j).startQueued else .next up

/-- TXN_BEGIN (R379). -/
def execTxnBegin (c : Ctx) (sc : Fin 4) (regions : RegionSet) (s : State) : Host.Outcome State Fault Refusal :=
  s.command c (.txnBegin c sc regions) (fun s => s.txnBegin c sc regions)

/-- TXN_WRITE (R380). -/
def execTxnWrite (c : Ctx) (key : Word) (value : BitVec 64) (s : State) : Host.Outcome State Fault Refusal :=
  s.command c (.txnWrite c key value) (fun s => s.txnWrite c key value)

/-- TXN_COMMIT (R382 to R385). -/
def execTxnCommit (c : Ctx) (sc : Fin 4) (quiet : Bool) (s : State) : Host.Outcome State Fault Refusal :=
  s.command c (.txnCommit c sc quiet) (fun s => s.txnCommit c sc quiet)

/-- TXN_ROLLBACK (R386). -/
def execTxnRollback (c : Ctx) (sc : Fin 4) (s : State) : Host.Outcome State Fault Refusal :=
  s.command c (.txnRollback c sc) (fun s => s.txnRollback c sc)

/-- TXN_TIMEOUT (R386): a transaction that is still open once TXN_TIMEOUT seconds, as they stood at its TXN_BEGIN, have
passed since then. -/
def execTxnTimeout (sc : Fin 4) (s : State) : Host.Outcome State Fault Refusal :=
  let t := s.txn sc
  if s.get .TXN_STATE_STATE sc = 1 && t.startFc + 1400000000 * t.timeout ≤ s.fc then .next ((s.endTxn sc 4 0 0).raise 8)
  else .next s

end Sys2Proof.Machine
end

