-- ==== Sys2Proof/Machine/Maint.lean ====
section
/-!
DEFINITION. The maintenance rows: MAINT_START, the effects of the activities, and their end (R504, R505, R507 to R510).
-/
namespace Sys2Proof.Machine

/-- MAINT_START (R507). -/
def execMaintStart (c : Ctx) (activity : BitVec 8) (params : List Byte) (s : State) : Host.Outcome State Fault Refusal :=
  s.command c (.maintStart c activity params) (fun s => s.maintStart c activity.toNat params)

/-- FILL (R221, R507): the effect of the running activity of code 0. -/
def execFill (s : State) : Host.Outcome State Fault Refusal := .next (s.perform 0 (fun s a => (s.fillRange a.params, 0)))

/-- SCRUB (R223, R224, R507). -/
def execScrub (s : State) : Host.Outcome State Fault Refusal := .next (s.perform 1 (fun s a => s.scrubAll a.params))

/-- RINGTRAIN (R213, R492, R507): the stacks are retrained without a fill; their contents stay (log entry 48). One in
use that fails is lost. -/
def execRingtrain (s : State) : Host.Outcome State Fault Refusal :=
  .next (s.perform 2 (fun s _ => (s.trainStacks, 0)))

/-- OPTTRAIN (R62, R277, R507): NEXT_ID is adopted and every fitted port runs a training pass. -/
def execOpttrain (ports : List (PortRef × PortLight)) (s : State) : Host.Outcome State Fault Refusal :=
  .next (s.perform 3 (fun s _ => (s.adoptId.trainAll ports, 0)))

/-- FUSESENSE (R455). -/
def execFusesense (s : State) : Host.Outcome State Fault Refusal := .next (s.perform 4 (fun s _ => (s.senseAgain, 0)))

/-- TCAL (R507): sensors read VALID 0 from its start to its end. -/
def execTcal (s : State) : Host.Outcome State Fault Refusal := .next (s.perform 5 (fun s _ => (s, 0)))

/-- The running DRAIN or DEFECT-UPDATE activity has the mode or operation that a row is for. -/
def State.modeDue (s : State) (code mode : Nat) : Bool := (s.dueActivity code).any (fun a => pfield a.params 0 1 = mode)

/-- DRAIN, mode SECURE (R507): the drain's end gives the result. -/
def execDrainSecure (s : State) : Host.Outcome State Fault Refusal :=
  if s.modeDue 6 0 && s.oldestDrain.isNone then .next s.secureLocal else .next s

/-- DRAIN, mode RESTORE (R505). -/
def execDrainRestore (copy : Option CopyInfo) (data : List Byte) (s : State) : Host.Outcome State Fault Refusal :=
  if s.modeDue 6 1 then .next (s.perform 6 (fun s a => s.restore (pfield a.params 8 16) copy data)) else .next s

/-- DRAIN, mode QUERY (R504). -/
def execDrainQuery (slots : Option (CopyInfo × CopyInfo)) (s : State) : Host.Outcome State Fault Refusal :=
  if s.modeDue 6 2 then .next (s.perform 6 (fun s _ => s.query slots)) else .next s

/-- The ENTRY of a DEFECT-UPDATE. -/
def Activity.entry (a : Activity) : Word := BitVec.ofNat 32 (pfield a.params 4 8)

/-- DEFECT-UPDATE, add (R59, R510): RESULT 2 where there is nothing to do. -/
def execDefectUpdateAdd (s : State) : Host.Outcome State Fault Refusal :=
  if s.modeDue 7 0 then .next (s.perform 7 (fun s a =>
    match s.addDefect a.entry with
    | some t => (t, 0)
    | none => (s, 2)))
  else .next s

/-- DEFECT-UPDATE, clear (R510). -/
def execDefectUpdateClear (s : State) : Host.Outcome State Fault Refusal :=
  if s.modeDue 7 1 then .next (s.perform 7 (fun s a => s.clearDefect a.entry)) else .next s

/-- DEFECT-UPDATE, clear every soft entry of a kind (R510). -/
def execDefectUpdateClearKind (s : State) : Host.Outcome State Fault Refusal :=
  if s.modeDue 7 2 then .next (s.perform 7 (fun s a => s.clearKind (defKind a.entry))) else .next s

/-- MAINT_ACTIVITY_END (R508). -/
def execMaintActivityEnd (activity : Fin 8) (failed : Bool) (s : State) : Host.Outcome State Fault Refusal :=
  .next (s.endActivity activity failed)

end Sys2Proof.Machine
end

