-- ==== Sys2Proof/Machine/Memory.lean ====
section
/-!
DEFINITION. The rows of the memory tiers and of host accesses to memory.
-/
namespace Sys2Proof.Machine

/-- STACKED_READ_REQUEST (R204). -/
def execStackedReadRequest (c : ClusterRef) (port : Fin 17) (line : Fin 393216) (s : State) : Host.Outcome State Fault Refusal :=
  .next (s.stackedRead c.no port line)

/-- MERGE_WINDOW_CLOSE (R204, R206). -/
def execMergeWindowClose (c : ClusterRef) (line : Fin 393216) (s : State) : Host.Outcome State Fault Refusal :=
  .next (s.closeWindow c.no line)

/-- STACKED_BANK_GRANT (R203). -/
def execStackedBankGrant (c : ClusterRef) (bank : Fin 8) (s : State) : Host.Outcome State Fault Refusal :=
  .next (s.grantBank c.no bank)

/-- SCRUB_ACCESS (R201, R203, R223, R225, R230): the engine reads its next word, in which the named bits have gone bad;
while a port requests its stacked-SRAM bank, or a requester its near-SRAM bank as `busy` says, the access waits. -/
def execScrubAccess (c : ClusterRef) (word : ScrubWord) (s : State) : Host.Outcome State Fault Refusal :=
  if !s.scrubRuns c.no then .next s
  else
    let pos := (s.unit c.no).pos
    let k := scrubKey c.no pos
    let s := s.upset k (word.upset.filter (· < 72))
    if (if pos < stackedWords then (s.stack c.no).portsWait (scrubBank pos) else word.busy) then
      .next (s.setUnit c.no { s.unit c.no with waiting := true })
    else .next (s.scrubStep c.no k clusterWords)

/-- SCRUB_FORCED (R201, R203): a scrub access that has waited 1,024 fc takes its bank ahead of every requester. -/
def execScrubForced (c : ClusterRef) (bank : Fin 8) (s : State) : Host.Outcome State Fault Refusal :=
  let u := s.unit c.no
  if s.scrubRuns c.no && u.waiting && scrubBank u.pos = bank then
    .next (s.scrubStep c.no (scrubKey c.no u.pos) clusterWords)
  else .next s

/-- PATROL_READ (R224, R225, R230): the patrol reads the channel's next line, in which the named symbols have gone bad;
while a host request of the channel waits, it waits below it. -/
def execPatrolRead (ch : RingChan) (upset : List Nat) (s : State) : Host.Outcome State Fault Refusal :=
  if !s.patrolRuns ch then .next s
  else
    let u := s.unit (1600 + ch.val)
    let k := patrolKey ch u.pos
    let s := s.upset k (upset.filter (· < 35))
    if s.hostWait.any (fun x => x.1 = ch.val) then .next (s.setUnit (1600 + ch.val) { u with waiting := true })
    else .next (s.scrubStep (1600 + ch.val) k s.channelLines)

/-- PATROL_FORCED (R224): a patrol read that has waited 4 µs is served next. -/
def execPatrolForced (ch : RingChan) (s : State) : Host.Outcome State Fault Refusal :=
  let u := s.unit (1600 + ch.val)
  if s.patrolRuns ch && u.waiting then .next (s.scrubStep (1600 + ch.val) (patrolKey ch u.pos) s.channelLines) else .next s

/-- UE_LOCATION_TEST (R232): after a class J fault, the firmware tests a location in error. -/
def execUeLocationTest (loc : MemLoc) (passes spareRow : Bool) (s : State) : Host.Outcome State Fault Refusal :=
  if s.faulted && 2 ≤ (mget [] s.bad loc.key).length then .next (s.testLocation loc passes spareRow) else .next s

/-- MEM_CE_COPY_DONE (R233). -/
def execMemCeCopyDone (s : State) : Host.Outcome State Fault Refusal :=
  if s.on .MEM_CE_SEL_BUSY then .next s.copyCe else .next s

/-- HOST_RING_ACCESS (R212, R218, R395 to R398); an offset beyond the 64 GiB of BAR2 does not reach the module. -/
def execHostRingAccess (w : HostWindow) (addr : Nat) (op : HostOp) (bankBusy : Bool) (s : State) :
    Host.Outcome State Fault Refusal :=
  if !s.hostUp || (w = .bar2 && 2 ^ 36 ≤ addr) then .next s
  else .next (s.byLine addr op (fun s a op => s.hostRingArrive w a op bankBusy))

/-- HOST_RING_WAIT_TIMEOUT (R397): the oldest request that waits in a channel has waited 2 µs and is served. -/
def execHostRingWaitTimeout (ch : RingChan) (s : State) : Host.Outcome State Fault Refusal :=
  .next (s.serveWaiting ((s.hostWait.filter (fun x => x.1 = ch.val)).take 1))

/-- BACK_INVALIDATION_DONE (R398): the writes and completions that waited for the line proceed; with the last line of the
numerics area the apply of a quiet point is complete (R332, R340, R341). -/
def execBackInvalidationDone (line : Nat) (s : State) : Host.Outcome State Fault Refusal :=
  .next (s.snoopDone line).cqFlush.settleQuiet

/-- HOST_CLUSTER_ACCESS (R219, R220). -/
def execHostClusterAccess (bar0 : Bool) (addr : Nat) (op : HostOp) (s : State) : Host.Outcome State Fault Refusal :=
  if !s.hostUp then .next s else .next (s.byLine addr op (fun s a op => s.hostClusterArrive bar0 a op))

end Sys2Proof.Machine
end

