-- ==== Sys2Proof/Machine/Mesh.lean ====
section
/-!
DEFINITION. The rows of the mesh and its barriers.
-/
namespace Sys2Proof.Machine

/-- FLIT_GRANT (R245, R246, R259, R267): one fc of a router output. -/
def execFlitGrant (r : RouterRef) (out : Dir) (s : State) : Host.Outcome State Fault Refusal :=
  .next (s.grant r.no out.no false)

/-- MAINT_FLOOR_GRANT (R246): a MAINT flit that has been eligible for 63 fc is granted ahead of PLAN and GRAD, in the
first fc that SYNC does not claim. -/
def execMaintFloorGrant (r : RouterRef) (out : Dir) (s : State) : Host.Outcome State Fault Refusal :=
  .next (s.grant r.no out.no true)

/-- CREDIT_RETURN (R238, R260): a flit having left the neighbour's buffer, its credit is back at the output; none comes back
on a channel for which a hold buffer of the neighbour is full. -/
def execCreditReturn (r : RouterRef) (out : Dir) (vc : Vc) (s : State) : Host.Outcome State Fault Refusal :=
  match joint r.no out.no with
  | .router q input =>
    let x := s.router r.no
    let n := x.usedAt out.no vc.no
    if s.holdFull q vc.no then .next s
    else if ((s.router q).input input vc.no).length < n then .next (s.setRouter r.no (x.setUsed out.no vc.no (n - 1))) else .next s
  | _ => .next s

/-- MCAST_HOLD_SLIP (R262): a flit of a tree has stayed in a hold buffer; beyond the tree's limit it raises one slip event
an episode. The longest hold is kept (Table 4). -/
def execMcastHoldSlip (r : RouterRef) (out : Dir) (tree : BitVec 8) (heldFc : Nat) (s : State) : Host.Outcome State Fault Refusal :=
  let x := s.router r.no
  let reg := routerRegion r.no
  if !(x.held out.no 1).any (fun f => f.path == .tree tree.toNat) then .next s
  else
    let s := if s.get .MESH_HOLD_MAX_FC reg < heldFc then
        (s.putSat .MESH_HOLD_MAX_FC heldFc reg).put .MESH_HOLD_MAX_TREE tree.toNat reg else s
    match s.image.bind (fun im => im.trees.find? (fun t => t.tree = tree.toNat)) with
    | none => .next s
    | some t =>
      if heldFc ≤ t.holdLimit || mget false x.slipped (slotKey out.no 1) then .next s
      else
        let s := s.setRouter r.no { x with slipped := mset false x.slipped (slotKey out.no 1) true }
        .next (s.slip reg 2 false tree.toNat (coreSlot (routerCore r.no)) out.no (heldFc - t.holdLimit))

/-- BARRIER_ARRIVAL (R254, R329): an arrival that has reached a router by an input enters its barrier entry. -/
def execBarrierArrival (r : RouterRef) (sys : Bool) (id : BitVec 8) (input : Dir) (ovf : Bool) (s : State) :
    Host.Outcome State Fault Refusal :=
  .next (s.arrive r.no (barNo sys id) input.no ovf)

/-- BARRIER_RELEASE (R254): the root releases a complete generation. -/
def execBarrierRelease (sys : Bool) (id : BitVec 8) (ovf : Bool) (s : State) : Host.Outcome State Fault Refusal :=
  .next (s.release (barNo sys id) ovf)

/-- BARRIER_WATCHDOG (R255, R303): an open generation was not released within its interval: the barrier and the inputs
still missing are recorded, and the job faults. The gate's watchdog does not count while input or a secure request
holds it. DESIGN CHOICE (log entry 138): the record is event 0x0404, with the barrier's number (256 more for a system
barrier) in DETAIL and the count of missing inputs in VALUE. -/
def execBarrierWatchdog (sys : Bool) (id : BitVec 8) (s : State) : Host.Outcome State Fault Refusal :=
  let bar := barNo sys id
  let held := s.gateBar = some bar && (let h := s.gateHolds
    h.getD 3 false || h.getD 4 false)
  match s.barRec bar with
  | none => .next s
  | some b =>
    let (isOpen, missing) := s.barMissing bar
    if s.job && isOpen && !held then
      let reg := routerRegion b.router
      .next ((s.event 0x0404 clsJ reg bar missing).classJ 6 reg)
    else .next s

end Sys2Proof.Machine
end

