-- ==== Sys2Proof/Machine/Move.lean ====
section
/-!
DEFINITION. The move-slot and array-slot rows (Table 4 of "The Core", R98).
-/
namespace Sys2Proof.Machine

/-- STRM (R91, R93). -/
def execStrm (p : PCore) (g : Guard) (d : BitVec 8) (ch : BitVec 2) (sa sb : SReg) (s : State) : Host.Outcome State Fault Refusal :=
  .next (s.issueMove p g (.strm d ch sa sb))

/-- VLD (R92). -/
def execVld (p : PCore) (g : Guard) (vd : VReg) (sa : SReg) (imm : BitVec 11) (s : State) : Host.Outcome State Fault Refusal :=
  .next (s.issueMove p g (.vld vd sa imm))

/-- VST (R92, R327). -/
def execVst (p : PCore) (g : Guard) (vs : VReg) (sa : SReg) (imm : BitVec 11) (s : State) : Host.Outcome State Fault Refusal :=
  .next (s.issueMove p g (.vst vs sa imm))

/-- ARUN (R98). -/
def execArun (p : PCore) (g : Guard) (d : BitVec 6) (sa sb sc : SReg) (s : State) : Host.Outcome State Fault Refusal :=
  .next (s.issueArr p g (.arun d sa sb sc))

end Sys2Proof.Machine
end

