-- ==== Sys2Proof/Machine/Optical.lean ====
section
/-!
DEFINITION. The rows of the optical ports that no register write starts.
-/
namespace Sys2Proof.Machine

/-- PORT_TRANSMIT (R272, R289): an ACTIVE port sends its next flit. -/
def execPortTransmit (n : PortRef) (s : State) : Host.Outcome State Fault Refusal :=
  if s.get .OPT_PORT_STATE_STATE n = 7 then .next (s.transmit n) else .next s

/-- PORT_RECEIVE_PACKET (R286 to R288). -/
def execPortReceivePacket (n : PortRef) (pkt : FibrePacket) (s : State) : Host.Outcome State Fault Refusal :=
  if s.get .OPT_PORT_STATE_STATE n = 7 then .next (s.receive n pkt) else .next s

/-- FEC_REPLAY (R275): an uncorrectable codeword on a trained link. The flits it touches and every later one are discarded
until the first of them comes again: no flit out of sequence is taken in, and the next flit out asks for it. It is counted,
and logged once after RUN; the sixteenth replay of the same flit loses an enabled link. -/
def execFecReplay (n : PortRef) (sameFlit : Bool) (s : State) : Host.Outcome State Fault Refusal :=
  let st := s.get .OPT_PORT_STATE_STATE n
  if st != 4 && st != 6 && st != 7 then .next s
  else
    let s := (s.bump .OPT_PORT_FEC_BAD_UNCORRECTABLE 1 n).bump .OPT_PORT_FEC_BAD_REPLAYS 1 n
    let p := s.port n
    let s := if p.logged then s else s.event 0x0504 clsC n 0 0
    let failed := if sameFlit then p.failed + 1 else 1
    let s := s.setPort n { p with logged := true, failed, asks := true }
    if 16 ≤ failed && st != 4 then .next (s.linkLost n 3 0) else .next s

/-- FEC_RATE_CHECK (Table 8): the codewords corrected in a second, against OPT_FEC_LIMIT. -/
def execFecRateCheck (n : PortRef) (corrected : Nat) (s : State) : Host.Outcome State Fault Refusal :=
  if !s.portFitted n then .next s
  else
    let s := s.count .OPT_PORT_FEC_CW_CORRECTED corrected n
    let lim := s.get .OPT_FEC_LIMIT_LIMIT
    if lim != 0 && lim < corrected then .next (s.optEvent .OPT_EVENTS_FEC_HIGH) else .next s

/-- PORT_TRAINING_PASS (R277 to R282): a pass that was asked for runs. -/
def execPortTrainingPass (n : PortRef) (light : PortLight) (s : State) : Host.Outcome State Fault Refusal :=
  if (s.port n).training && s.trainable n then .next (s.train n light) else .next s

/-- PORT_RETRAIN_TIMER (R277): every 100 ms a pass on a port in DARK, LOCKING, LANES_UP or REFUSED. -/
def execPortRetrainTimer (n : PortRef) (s : State) : Host.Outcome State Fault Refusal :=
  if s.trainable n && [1, 2, 3, 5].contains (s.get .OPT_PORT_STATE_STATE n) then .next (s.wantTraining n) else .next s

/-- PORT_LINK_LOST (R282). -/
def execPortLinkLost (n : PortRef) (why : LinkLoss) (s : State) : Host.Outcome State Fault Refusal :=
  let st := s.get .OPT_PORT_STATE_STATE n
  if st != 6 && st != 7 then .next s
  else
    match why with
    | .dark lanes => .next (s.linkLost n 1 lanes)
    | .lock => .next (s.linkLost n 2 0)
    | .replays => .next (s.linkLost n 3 0)

/-- PORT_PEER_ENABLE (R289). -/
def execPortPeerEnable (n : PortRef) (s : State) : Host.Outcome State Fault Refusal :=
  if !s.portUp n then .next s
  else
    let s := s.put .OPT_PORT_STATE_PEER_ENABLED 1 n
    if s.get .OPT_PORT_STATE_STATE n = 6 then .next (s.setPort' n 7 0) else .next s

/-- OPTICAL_ENGINE_FAULT (R55, R283). -/
def execOpticalEngineFault (tile : Fin 40) (s : State) : Host.Outcome State Fault Refusal := .next (s.engineFault tile)

/-- RECEIVE_LANE_DARK (R278, R493): a port that is not ACTIVE or ACTIVE_WAIT loses light and falls to DARK. -/
def execReceiveLaneDark (n : PortRef) (lanes : BitVec 8) (s : State) : Host.Outcome State Fault Refusal :=
  if [1, 2, 3, 4, 5].contains (s.get .OPT_PORT_STATE_STATE n) && lanes != 0 then
    let s := s.put .OPT_PORT_STATE_DARK_LANES (s.get .OPT_PORT_STATE_DARK_LANES n ||| lanes.toNat) n
    .next ((s.setPort' n 1 0).portDown n)
  else .next s

end Sys2Proof.Machine
end

