-- ==== Sys2Proof/Machine/PowerOps.lean ====
section
/-!
DEFINITION. Feeds, bus, cap loop, thermal levels, trips, coolant warnings and the coolant check (R418 to R427, R436,
R444 to R448, R476 to R478, R518).
-/
namespace Sys2Proof.Machine

/-! ### Feeds (R418 to R420, R518) -/

/-- The registers of a feed: VOLTS, AMPS, STATE, RANGE, CARRY, ISO_SEEN. -/
structure FeedRegs where
  volts : Field
  amps : Field
  state : Field
  range : Field
  carry : Field
  isoSeen : Field

def feedRegs : FeedName → FeedRegs
  | .a => ⟨.PWR_FEED_A_VOLTS, .PWR_FEED_A_AMPS, .PWR_FEED_STAT_A_STATE, .PWR_FEED_STAT_A_RANGE, .PWR_FEED_STAT_A_CARRY,
      .PWR_FEED_STAT_A_ISO_SEEN⟩
  | .b => ⟨.PWR_FEED_B_VOLTS, .PWR_FEED_B_AMPS, .PWR_FEED_STAT_B_STATE, .PWR_FEED_STAT_B_RANGE, .PWR_FEED_STAT_B_CARRY,
      .PWR_FEED_STAT_B_ISO_SEEN⟩

/-- The number of a feed in an event's LOCATION. -/
def feedNo : FeedName → Nat
  | .a => 0
  | .b => 1

def State.feedCtr (s : State) : FeedName → FeedCtr
  | .a => s.power.feedA
  | .b => s.power.feedB

def State.setFeedCtr (s : State) (f : FeedName) (c : FeedCtr) : State :=
  match f with
  | .a => { s with power := { s.power with feedA := c } }
  | .b => { s with power := { s.power with feedB := c } }

/-- The voltage a feed shows, in 10 mV. -/
def State.feedVolts (s : State) (f : FeedName) : Int := signed (s.get (feedRegs f).volts) 16

def State.feedConnected (s : State) (f : FeedName) : Bool := s.get (feedRegs f).state = 0

/-- A voltage in the connected range of Table 1, 40.0 to 58.0 V; in the range that stays connected, 36.0 to 60.0 V. -/
def inRange (v : Int) : Bool := 4000 ≤ v && v ≤ 5800
def nearRange (v : Int) : Bool := !inRange v && 3600 ≤ v && v ≤ 6000

/-- FEED_SAMPLE: one 1 µs sample. Consecutive samples in each range of Table 1 are counted; the tenth in the near range
sets RANGE, with an event while the feed is connected. -/
def State.feedSample (s : State) (f : FeedName) (r : FeedReading) : State :=
  let g := feedRegs f
  let c := s.feedCtr f
  let up := s.feedConnected f
  let c' : FeedCtr := { c with
    low := if r.volts < 3600 && -100 ≤ r.volts then c.low + 1 else 0
    high := if 6000 < r.volts then c.high + 1 else 0
    range := if nearRange r.volts then c.range + 1 else 0 }
  let s := s.setFeedCtr f c'
  let s := s.puts 0 [(g.volts, (BitVec.ofInt 16 r.volts).toNat), (g.amps, min r.amps 0xFFFF),
    (g.carry, if up && 100 < r.amps then 1 else 0)]
  if !nearRange r.volts then s.put g.range 0
  else if 10 ≤ c'.range && !s.on g.range then
    let s := s.put g.range 1
    if up then s.event 0x0103 clsNone (feedNo f) 0 (BitVec.ofInt 16 r.volts).toNat else s
  else s

/-- The state in which a feed out of range for its detection time is isolated: 1 ABSENT, 2 REVERSED, 3 OVERVOLT. -/
def State.feedDue (s : State) (f : FeedName) : Option Nat :=
  let c := s.feedCtr f
  if s.feedVolts f < -100 then some 2
  else if 2 ≤ c.high then some 3
  else if 10 ≤ c.low then some 1
  else none

/-- A feed is isolated: state, event with its DETAIL, ISO_SEEN, the count, source 15, ALERT#. -/
def State.isolate (s : State) (f : FeedName) (st detail : Nat) : State :=
  let g := feedRegs f
  let s := s.puts 0 [(g.state, st), (g.carry, 0), (g.isoSeen, 1)]
  (((s.bump .PWR_EVENTS_ISOLATIONS).event 0x0101 clsNone (feedNo f) detail (s.get g.volts)).raise 15).alert

/-- FEED_OVERCURRENT: the stage opens; the third opening within 60 s keeps it open until module reset. -/
def State.overcurrent (s : State) (f : FeedName) : State :=
  let c := s.feedCtr f
  let recent := s.fc :: c.openings.filter (fun t => s.fc < t + 60 * 1400000000)
  (s.setFeedCtr f { c with openings := recent.take 3, latched := c.latched || 3 ≤ recent.length }).isolate f 1 4

/-! ### The bus and the cap loop (R421 to R425, R436) -/

/-- The sag warning asserts: the 6 kW cap at level 15, source 15, the event, and one secure request with the store armed
and a partner in effect (R422). -/
def State.sagOn (s : State) (volts : Nat) : State :=
  let s := (s.puts 0 [(.PWR_FEED_STAT_SAG, 1), (.PWR_FEED_STAT_SAG_SEEN, 1)]).bump .PWR_EVENTS_SAGS
  let s := (s.put .PWR_CAP_CAP_W 6000).put .PWR_CAP_LEVEL 15
  let s := ((s.event 0x0104 clsNone 0 0 volts).raise 15).alert
  if s.on .PWR_HOLDUP_ARMED && s.job && s.on .RES_PAIR_IN_EFFECT then (s.secureRequest 3).1 else s

/-- The sag warning clears: the cap of the active profile applies again. -/
def State.sagOff (s : State) : State := (s.put .PWR_FEED_STAT_SAG 0).setCap (profileCap (s.get .PWR_CAP_PROFILE))

/-- An armed hold-up store with energy connects below 45.0 V, and disconnects once a feed lifts the bus above 47.0 V
(R423). -/
def State.holdup (s : State) (volts : Nat) : State :=
  if !s.on .PWR_HOLDUP_ARMED then s
  else if volts < 4500 && !s.on .PWR_HOLDUP_ACTIVE && s.on .PWR_HOLDUP_JOULES then s.put .PWR_HOLDUP_ACTIVE 1
  else if 4700 < volts && s.on .PWR_HOLDUP_ACTIVE then s.put .PWR_HOLDUP_ACTIVE 0
  else s

/-- The usable energy of the hold-up store as measured (R423, R449): only an armed store that does not supply the bus
charges, from a bus at or above 47.0 V, so any other shows no rise; one that is spent supplies the bus no more. -/
def State.storeEnergy (s : State) (joules : Nat) : State :=
  let charges : Bool := s.on .PWR_HOLDUP_ARMED && !s.on .PWR_HOLDUP_ACTIVE && 4700 ≤ s.power.bus
  let j := if charges then min joules 0xFFFF else min joules (s.get .PWR_HOLDUP_JOULES)
  let s := s.puts 0 [(.PWR_HOLDUP_JOULES, j), (.PWR_HOLDUP_READY, if 400 ≤ j then 1 else 0)]
  if j = 0 then s.put .PWR_HOLDUP_ACTIVE 0 else s

/-- BUS_SAMPLE: one 1 µs sample of the bus in 10 mV (R421, R425). In reset only a start-up that was about to run is
called off (R426, R467). -/
def State.busSample (s : State) (volts : Nat) : State :=
  let s := { s with power := { s.power with bus := volts } }.putSat .PWR_BUS_VOLTS volts
  if volts ≤ 4000 then
    if s.power.inReset && !s.power.goodFeeds then s else (s.event 0x0106 clsM 0 0 volts).classM 1
  else if s.power.inReset then s
  else
    let s := s.holdup volts
    if volts ≤ 4600 && !s.on .PWR_FEED_STAT_SAG then s.sagOn volts
    else if 4700 ≤ volts && s.on .PWR_FEED_STAT_SAG then s.sagOff
    else s

/-- The power a feed delivers as its readings show it, in mW: units of 10 mV times units of 0.1 A; none from a feed of
reversed polarity (R418, R436). -/
def State.feedPower (s : State) (f : FeedName) : Nat := (s.feedVolts f).toNat * s.get (feedRegs f).amps

/-- CAP_LOOP_TICK: one input-power sample, the sum over both feeds; the averages over 10 µs and 100 µs and the cap level
(R436, R449). -/
def State.capTick (s : State) : State :=
  let ws := ((s.feedPower .a + s.feedPower .b) :: s.power.watts).take 100
  let ten := (ws.take 10).sum
  let n := min ws.length 10
  let cap := 1000 * s.get .PWR_CAP_CAP_W
  let low := ten * 10 < 9 * cap * n
  let below := if low then s.power.below + 1 else 0
  let s : State := { s with power := { s.power with
    watts := ws
    below := min below 20 } }
  let avg := mean ws / 1000
  let s := s.putSat .PWR_BUS_WATTS avg
  let s := if s.get .PWR_PLAN_PEAK_W < avg then s.putSat .PWR_PLAN_PEAK_W avg else s
  let k := s.get .PWR_CAP_LEVEL
  if cap * n < ten then s.put .PWR_CAP_LEVEL (min (k + 1) 15)
  else if 20 ≤ below then s.put .PWR_CAP_LEVEL (k - 1)
  else s

/-- One tick of the cap loop and n more, at the same readings. -/
def State.capTicks (s : State) : Nat → State
  | 0 => s.capTick
  | n + 1 => s.capTick.capTicks n

/-! ### The passing of a fast-clock cycle (R434, R441) -/

/-- The 4-bit reversal of a counter value. -/
def reverse4 (i : Nat) : Nat := i % 2 * 8 + i / 2 % 2 * 4 + i / 4 % 2 * 2 + i / 8 % 2

/-- Whether fc number i is skipped at a skip level (R434, Table 4). -/
def skips (level i : Nat) : Bool := reverse4 (i % 16) < level

/-- One fc passes in a region: as its counter wraps it takes up the level in force, and a running clock skips by the
pattern (R434). An event's toggle arrives after its round trip, and the next one leaves (R441). DESIGN CHOICE (log entry
139): every region's counter is the fc count modulo 16. -/
def State.fcOf (s : State) (r : Nat) : Region :=
  let g := s.region r
  let level := if s.fc % 16 = 0 then s.skipLevel r else g.skip
  let passed : Bool := g.crossing != 0 && g.crossFc + 59 + (Config.crossing r).toNat % 28 ≤ s.fc
  { g with
    skip := level
    skipped := if s.on .PWR_REGION_CLK r && skips level s.fc then g.skipped + 1 else g.skipped
    crossing := if passed then g.crossing - 1 else g.crossing
    crossFc := if passed then s.fc else g.crossFc }

/-- One fc passes in every region. -/
def State.fcTick (s : State) : State :=
  s.each (List.range 400) (fun s r =>
    let g := s.fcOf r
    if g = s.region r then s else s.setRegion r g)

/-! ### Regions that stop (R427, R433, R446) -/

/-- A region's converter group is latched off for a short: Vigil, the REGION entry, the event, the job's fault. -/
def State.shortRegion (s : State) (r : Nat) : State :=
  let s := (s.latchRegion r).firmwareDefect 4 8 r
  (s.event 0x0107 (if s.job then clsJ else clsNone) r 0 0).classJ 2 r

/-- A region trips on temperature. -/
def State.thermalTrip (s : State) (r : Nat) : State :=
  let tj := s.get .THERM_REGION_TJ r
  let s := (s.tripRegion r).bump .THERM_SUM_TRIPS
  (((s.event 0x0202 (if s.job then clsJ else clsNone) r 0 tj).raise 16).alert).classJ 3 r

/-- A region loses PLL lock. -/
def State.loseLock (s : State) (r : Nat) : State :=
  let s := (s.tripRegion r).bump .PWR_REGION_EVT_LOCK_LOSS 1 r
  let s := s.setRegion r { s.region r with lockLost := true }
  (((s.event 0x0108 (if s.job then clsJ else clsNone) r 0 0).raise 16).alert).classJ 3 r

/-! ### Thermal samples (R444 to R447) -/

/-- The thermal level after a sample of tj (in 1/16 °C) at level k, for a throttle start in °C. -/
def nextLevel (k : Nat) (tj : Int) (start : Nat) : Nat :=
  let t0 : Int := start * 16
  let want : Nat := if t0 ≤ tj then min 12 ((tj - t0).toNat / 16 + 1) else 0
  if k < want then k + 1
  else if 0 < k && tj < t0 + k * 16 - 24 then k - 1
  else k

/-- The level of a region takes its next value; rising from 0 it sets source 16, and writes at most one event a second. -/
def State.setLevel (s : State) (r k : Nat) : State :=
  let old := s.get .THERM_REGION_LEVEL r
  let s := (s.put .THERM_REGION_LEVEL k r).put .PWR_REGION_THERM_LEVEL k r
  if old = 0 && 0 < k then
    let s := (s.raise 16).alert
    if (s.region r).throttleFc.any (fun t => s.fc < t + 1400000000) then s
    else (s.setRegion r { s.region r with throttleFc := some s.fc }).event 0x0201 clsC r 0 (s.get .THERM_REGION_TJ r)
  else s

/-- While THERM_TRIP# is held, a sensor that reads below 80 °C counts towards its release (R447). -/
def State.coolSensor (s : State) (r : Nat) (tj : Int) : State :=
  let bit : BitVec 400 := BitVec.ofNat 400 (2 ^ r)
  let m := if tj < 80 * 16 then s.power.hotMask &&& ~~~bit else s.power.hotMask ||| bit
  let s : State := { s with power := { s.power with
    hotMask := m
    tripLatched := m != 0 } }
  if m = 0 then s.put .RES_MGMT_THERM_TRIP 0 else s

/-- THERMAL_SAMPLE: one 2 µs sample of a region's sensor (R444 to R446). -/
def State.thermalSample (s : State) (r : Nat) (v : BitVec 16) : State :=
  let tj := v.toInt
  if s.power.tripLatched then s.coolSensor r tj
  else if !s.on .THERM_REGION_VALID r then s
  else
    let s := s.put .THERM_REGION_TJ v.toNat r
    let s := if signed (s.get .THERM_REGION_PEAK_TJ r) 16 < tj then s.put .THERM_REGION_PEAK_TJ v.toNat r else s
    let s := s.setLevel r (nextLevel (s.get .THERM_REGION_LEVEL r) tj (s.get .THERM_POINTS_THROTTLE_C))
    let hot := if (s.get .THERM_POINTS_TRIP_C : Int) * 16 ≤ tj then (s.region r).hot + 1 else 0
    let s := s.setRegion r { s.region r with hot := min hot 2 }
    if 2 ≤ hot && !s.on .PWR_REGION_TRIPPED r then s.thermalTrip r else s

/-- THERMAL_COMPARATOR_TRIP: every converter group latched off, THERM_TRIP#, a class M fault (R447). -/
def State.comparatorTrip (s : State) (r : Nat) : State :=
  let s := (s.event 0x0203 clsM r 0 0).classM 2
  { s.put .RES_MGMT_THERM_TRIP 1 with power := { s.power with
    tripLatched := true
    hotMask := BitVec.allOnes 400 } }

/-! ### Coolant (R448, R476 to R478) -/

/-- A coolant warning asserts: event, source 16, WARN_SEEN, ALERT#. -/
def State.coolWarn (s : State) (f : Field) (code value : Nat) : State :=
  (((s.puts 0 [(f, 1), (.THERM_FLOW_WARN_SEEN, 1)]).event code clsNone 0 0 value).raise 16).alert

/-- Samples in the longest count of the coolant check, with every repeat, and in the 10 s whose mean is D (R448, R476). -/
def countSamples : Nat := 9000
def meanSamples : Nat := 1000

/-- The coolant check follows the flow: the count of continuous flow at 45 L/min, with the temperature difference of each
sample, which warms the regions; a drop starts it again (R476). -/
def State.checkFlow (s : State) (flow : Nat) (delta : Int) : State :=
  if !s.cool.checkOn || 1 < s.get .RES_COOL_CHECK_STATE then s
  else if 450 ≤ flow then
    let first := s.get .RES_COOL_CHECK_STATE = 0
    let s := { s with cool := { s.cool with
      flowFor := s.cool.flowFor + 1
      deltas := (delta :: s.cool.deltas).take countSamples } }.put .RES_COOL_CHECK_STATE 1
    if first then s.startWarming else s
  else { s with cool := { s.cool with flowFor := 0, deltas := [] } }.puts 0 [(.RES_COOL_CHECK_STATE, 0), (.RES_COOL_CHECK_REPEATS, 0)]

/-- COOLANT_SAMPLE: one 10 ms sample; temperatures in 1/16 °C, flow in 0.1 L/min (R448). -/
def State.coolantSample (s : State) (inlet outlet flow : BitVec 16) : State :=
  let th : Int := (s.get .THERM_POINTS_OUTLET_C : Int) * 16
  let bad : Bool := inlet.toInt < 18 * 16 || 40 * 16 < inlet.toInt || flow.toNat < 450
  let c := s.cool
  let c : CoolState := { c with
    high := if th ≤ outlet.toInt then min (c.high + 1) 5 else 0
    low := if outlet.toInt < th - 32 then min (c.low + 1) 5 else 0
    bad := if bad then min (c.bad + 1) 100 else 0
    good := if bad then 0 else min (c.good + 1) 100
    lowFlow := if flow.toNat < 100 then min (c.lowFlow + 1) 500 else 0 }
  let s := { s with cool := c }.puts 0 [(.THERM_COOL_INLET, inlet.toNat), (.THERM_COOL_OUTLET, outlet.toNat),
    (.THERM_FLOW_FLOW, flow.toNat)]
  let s := if 5 ≤ c.high && !s.on .THERM_FLOW_OUTLET_WARN then s.coolWarn .THERM_FLOW_OUTLET_WARN 0x0204 outlet.toNat
    else if 5 ≤ c.low then s.put .THERM_FLOW_OUTLET_WARN 0 else s
  let s := if 100 ≤ c.bad && !s.on .THERM_FLOW_RANGE_WARN then s.coolWarn .THERM_FLOW_RANGE_WARN 0x0205 flow.toNat
    else if 100 ≤ c.good then s.put .THERM_FLOW_RANGE_WARN 0 else s
  s.checkFlow flow.toNat (outlet.toInt - inlet.toInt)

/-- The coolant check ends: swapped and inconclusive write an event and set source 16; the warming load ends (R476). -/
def State.endCheck (s : State) (st : Nat) (delta : BitVec 16) : State :=
  let s := s.put .RES_COOL_CHECK_STATE st
  let s := if st = 2 then s else (s.event 0x0206 clsNone 0 st delta.toNat).raise 16
  s.endWarming

/-- The temperature differences of the 10 s that end `due` samples into the count, newest first. -/
def CoolState.window (c : CoolState) (due : Nat) : List Int := (c.deltas.drop (c.flowFor - due)).take meanSamples

/-- `delta` is the mean of samples in whole sixteenths of a degree: the spec does not say which way it is rounded (log entry
152). -/
def meanShows (w : List Int) (delta : Int) : Bool :=
  let n : Int := w.length
  decide (w.sum < (delta + 1) * n) && decide ((delta - 1) * n < w.sum)

/-- COOLANT_CHECK_EVAL: D at the end of the 30 s count or of a further 10 s, which the module shows as `delta` in 1/16 °C
(R476). Another `delta` is not the one reported (log entry 142). -/
def State.checkEval (s : State) (delta : BitVec 16) : State :=
  let n := s.get .RES_COOL_CHECK_REPEATS
  let due := 3000 + 1000 * n
  let w := s.cool.window due
  if !s.cool.checkOn || s.get .RES_COOL_CHECK_STATE != 1 || s.cool.flowFor < due || w.isEmpty || !meanShows w delta.toInt then s
  else
    let s := s.put .RES_COOL_CHECK_DELTA delta.toNat
    if 4 * (w.length : Int) ≤ w.sum then s.endCheck 2 delta
    else if w.sum ≤ -4 * (w.length : Int) then s.endCheck 3 delta
    else if n < 6 then s.put .RES_COOL_CHECK_REPEATS (n + 1)
    else s.endCheck 4 delta

/-- COOLANT_CHECK_RESTART: after a swapped or inconclusive result and 5 s of flow below 10 L/min (R478). -/
def State.checkRestart (s : State) : State :=
  let st := s.get .RES_COOL_CHECK_STATE
  if (st = 3 || st = 4) && 500 ≤ s.cool.lowFlow then
    { s with cool := { s.cool with flowFor := 0, deltas := [] } }.puts 0 [(.RES_COOL_CHECK_STATE, 0), (.RES_COOL_CHECK_REPEATS, 0)]
  else s

end Sys2Proof.Machine
end

