-- ==== Sys2Proof/Machine/Power.lean ====
section
/-!
DEFINITION. The rows of power, clocks and heat, of the coolant check, the management pins and the faults of stacks
(R57, R418 to R427, R433, R436, R444 to R448, R476 to R480, R485, R518, R523, R524).
-/
namespace Sys2Proof.Machine

/-- FEED_SAMPLE (R418, R420). -/
def execFeedSample (f : FeedName) (reading : FeedReading) (s : State) : Host.Outcome State Fault Refusal :=
  .next (s.feedSample f reading)

/-- FEED_ISOLATE (R418, R419): a feed that has been out of range for its detection time. One that is isolated already
only takes the state of the range it has moved to. -/
def execFeedIsolate (f : FeedName) (s : State) : Host.Outcome State Fault Refusal :=
  match s.feedDue f with
  | some st => .next (if s.feedConnected f then s.isolate f st st else s.put (feedRegs f).state st)
  | none => .next s

/-- FEED_READMIT (R419): an isolated feed in range, unless its stage stays open until module reset (R518). -/
def execFeedReadmit (f : FeedName) (s : State) : Host.Outcome State Fault Refusal :=
  if s.feedConnected f || !inRange (s.feedVolts f) || (s.feedCtr f).latched then .next s
  else .next ((s.put (feedRegs f).state 0).event 0x0102 clsNone (feedNo f) 0 (s.get (feedRegs f).volts))

/-- FEED_OVERCURRENT (R518). -/
def execFeedOvercurrent (f : FeedName) (s : State) : Host.Outcome State Fault Refusal :=
  if s.feedConnected f then .next (s.overcurrent f) else .next s

/-- BUS_SAMPLE (R421 to R425). -/
def execBusSample (volts : Nat) (s : State) : Host.Outcome State Fault Refusal := .next (s.busSample volts)

/-- GOOD_FEEDS (R426): the bus at 47.0 V or more, a feed connected, no thermal latch: start-up may run. -/
def execGoodFeeds (s : State) : Host.Outcome State Fault Refusal :=
  if s.power.inReset && !s.power.tripLatched && 4700 ≤ s.power.bus && (s.feedConnected .a || s.feedConnected .b) then
    .next { s with power := { s.power with goodFeeds := true } }
  else .next s

/-- REGION_SUPPLY_SHORT (R51, R427). -/
def execRegionSupplyShort (r : RegionRef) (s : State) : Host.Outcome State Fault Refusal :=
  if s.on .PWR_REGION_SHORT r || s.get .PWR_REGION_STATE r = 4 then .next s else .next (s.shortRegion r)

/-- CAP_LOOP_TICK (R436): one tick, and as many more as named, with no reading of a feed between them (log entry 142). -/
def execCapLoopTick (more : Nat) (s : State) : Host.Outcome State Fault Refusal := .next (s.capTicks more)

/-- THERMAL_SAMPLE (R444 to R446). -/
def execThermalSample (r : RegionRef) (tj : BitVec 16) (s : State) : Host.Outcome State Fault Refusal :=
  .next (s.thermalSample r tj)

/-- THERMAL_COMPARATOR_TRIP (R447). -/
def execThermalComparatorTrip (r : RegionRef) (s : State) : Host.Outcome State Fault Refusal :=
  if s.power.tripLatched then .next s else .next (s.comparatorTrip r)

/-- PLL_LOCK_LOSS (R433): a region in Run or Poise. -/
def execPllLockLoss (r : RegionRef) (s : State) : Host.Outcome State Fault Refusal :=
  if s.on .PWR_REGION_CLK r then .next (s.loseLock r) else .next s

/-- PLL_RELOCK (R433): the clock then runs where the ladder state has it run. -/
def execPllRelock (r : RegionRef) (s : State) : Host.Outcome State Fault Refusal :=
  if (s.region r).lockLost && !s.on .PWR_REGION_SHORT r then
    .next (((s.setRegion r { s.region r with lockLost := false }).put .PWR_REGION_LOCKED 1 r).flag .PWR_REGION_CLK
      (s.get .PWR_REGION_STATE r ≤ 1) r)
  else .next s

/-- COOLANT_SAMPLE (R448, R476). -/
def execCoolantSample (inlet outlet flow : BitVec 16) (s : State) : Host.Outcome State Fault Refusal :=
  .next (s.coolantSample inlet outlet flow)

/-- COOLANT_CHECK_EVAL (R476). -/
def execCoolantCheckEval (delta : BitVec 16) (s : State) : Host.Outcome State Fault Refusal := .next (s.checkEval delta)

/-- COOLANT_CHECK_RESTART (R478). -/
def execCoolantCheckRestart (s : State) : Host.Outcome State Fault Refusal := .next s.checkRestart

/-- The scan chains disturb every region they pass through (R480). DESIGN CHOICE (log entry 153): what they leave in the
cores' scalar and vector registers is a free value, and the flits inside the regions are lost. -/
def State.scanDisturb (s : State) : State :=
  let xs := Config.scanned s.free
  let s := (s.useFree 1).each xs (fun s x =>
    let c := s.core x.1
    s.setCore x.1 (if x.2.1 < 32 then c.setSreg (BitVec.ofNat 5 x.2.1) x.2.2
      else { c with vregs := mset 0 c.vregs ((x.2.1 - 32) % 4096) x.2.2 }))
  s.each (List.range 400) State.dropInside

/-- SCAN_CHAIN_DRIVE (R480): the test port answers while JTAG is effective; driving the chains disturbs the regions and
faults a running job. -/
def execScanChainDrive (on : Bool) (s : State) : Host.Outcome State Fault Refusal :=
  if on then
    if s.feature 1 then .next (({ s with scanDriven := true } : State).scanDisturb.classJ 9 0) else .next s
  else .next { s with scanDriven := false }

/-- FIRMWARE_WATCHDOG (R485): while the controller firmware runs. -/
def execFirmwareWatchdog (s : State) : Host.Outcome State Fault Refusal :=
  if s.firmware.isSome then .next ((s.event 0x0804 clsM 0 0 0).classM 3) else .next s

/-- HOLDUP_STORE_READY (R423): a reading of the usable energy of the store, where one is fitted. -/
def execHoldupStoreReady (joules : Nat) (s : State) : Host.Outcome State Fault Refusal :=
  .next (if s.on .PWR_HOLDUP_FITTED then s.storeEnergy joules else s)

/-- SMBUS_TIMEOUT (R523): the module releases the bus and its SMBus interface starts afresh: no command is outstanding
there, and the completion of one already accepted is discarded, as a reset of the host interface discards those of the
host (R394; log entry 155). -/
def execSmbusTimeout (s : State) : Host.Outcome State Fault Refusal :=
  .next (({ s with
    smbusDriving := false
    oobBusy := s.oobBusy &&& 2
    orphans := s.orphans.filter (fun c => c.src != .oobSmbus) ++
      (s.accepted.map (·.1)).filter (fun c => c.src = .oobSmbus) } : State).put .RES_MGMT_SMB_TIMEOUT_SEEN 1)

/-- SMBUS_ALERT_RESPONSE (R524): a read of the Alert Response Address in which the module returns its own address. -/
def execSmbusAlertResponse (won : Bool) (s : State) : Host.Outcome State Fault Refusal :=
  if won && s.on .RES_MGMT_ALERT then .next (s.put .RES_MGMT_ALERT 0) else .next s

/-- EDGE_BRIDGE_FAULT (R57, R213): both stacks of the bridge take STACK entries of CAUSE 11 and are lost. -/
def execEdgeBridgeFault (bridge : Fin 18) (s : State) : Host.Outcome State Fault Refusal :=
  let st := 2 * bridge.val
  let s := (s.firmwareDefect 5 11 st).firmwareDefect 5 11 (st + 1)
  .next { s with lostStacks := s.lostStacks ||| BitVec.ofNat 36 (3 * 2 ^ st) }

end Sys2Proof.Machine
end

