-- ==== Sys2Proof/Machine/Registers.lean ====
section
/-!
DEFINITION. The rows that are an access to BAR0 (R9, R399 to R404): each a write of one register, or the access as it
stands.
-/
namespace Sys2Proof.Machine

/-- REGISTER_WRITE (R9 to R11, R400); an offset beyond BAR0 does not reach the module (log entry 14). -/
def execRegisterWrite (offset : Nat) (value : Word) (s : State) : Host.Outcome State Fault Refusal :=
  if offset < bar0Size then .next (s.bar0Write offset value) else .next s

/-- BAR0_HOLE_ACCESS (R400): an access of any size and alignment; one beyond BAR0 does not reach the module. -/
def execBar0HoleAccess (addr : Nat) (op : HostOp) (s : State) : Host.Outcome State Fault Refusal :=
  if addr < bar0Size then .next (s.bar0Arrive addr op) else .next s

/-- AC_COUNTER_READ (R439, R449): a read of PWR_AC_LO latches the high half. -/
def execAcCounterRead (s : State) : Host.Outcome State Fault Refusal := .next (s.bar0Arrive 0x200080 (.read 4))

/-- STALLED_ACCESS_COMPLETE (R401, R442, R443). -/
def execStalledAccessComplete (r : RegionRef) (s : State) : Host.Outcome State Fault Refusal := .next (s.stalledDone r)

/-- MEM_CE_COPY (R233): a write of MEM_CE_SEL. -/
def execMemCeCopy (value : Word) (s : State) : Host.Outcome State Fault Refusal := .next (s.bar0Write ceSelOffset value)

/-- ACCUMULATOR_CAPTURE (R156, R158): a write of ARR_DBG_SEL. -/
def execAccumulatorCapture (r : RegionRef) (value : Word) (s : State) : Host.Outcome State Fault Refusal :=
  .next (s.bar0Write (dbgSelOffset r) value)

/-- MEM_IN_PROD_WRITE (R318 to R320): a write of MEM_IN_PROD. -/
def execMemInProdWrite (ring : Fin 8) (value : Word) (s : State) : Host.Outcome State Fault Refusal :=
  .next (s.bar0Write (inProdOffset ring) value)

/-- NUMERICS_RESTART (R342, R344): a write of NUM_RESTART. -/
def execNumericsRestart (value : Word) (s : State) : Host.Outcome State Fault Refusal :=
  .next (s.bar0Write restartOffset value)

/-- PORT_DISABLE (R297): a write of OPT_PORT_CTRL. -/
def execPortDisable (n : PortRef) (value : Word) (s : State) : Host.Outcome State Fault Refusal :=
  .next (s.bar0Write (portCtrlOffset n) value)

/-- PORT_RETRAIN (R277, R297): a write of OPT_PORT_CTRL with RETRAIN and DISABLE as it stands. -/
def execPortRetrain (n : PortRef) (s : State) : Host.Outcome State Fault Refusal :=
  .next (s.bar0Write (portCtrlOffset n) (2#32 ||| s.word .OPT_PORT_CTRL_DISABLE n))

/-- MAILBOX_SUBMIT (R402, R406): a write of GO. -/
def execMailboxSubmit (s : State) : Host.Outcome State Fault Refusal := .next (s.bar0Write 0x40 1)

/-- SQ_DOORBELL (R404): a write of HOST_SQ_TAIL. -/
def execSqDoorbell (r : Fin 4) (value : Word) (s : State) : Host.Outcome State Fault Refusal :=
  .next (s.bar0Write (0x10C + 0x40 * r.val) value)

/-- CQ_DOORBELL (R404): a write of HOST_CQ_HEAD. -/
def execCqDoorbell (r : Fin 4) (value : Word) (s : State) : Host.Outcome State Fault Refusal :=
  .next (s.bar0Write (0x120 + 0x40 * r.val) value)

/-- RING_ENABLE (R403): a write of HOST_RING_CFG with EN = 1. -/
def execRingEnable (r : Fin 4) (value : Word) (s : State) : Host.Outcome State Fault Refusal :=
  .next (s.bar0Write (0x108 + 0x40 * r.val) (value ||| 0x10))

/-- RING_DISABLE (R403): a write of HOST_RING_CFG with EN = 0. -/
def execRingDisable (r : Fin 4) (value : Word) (s : State) : Host.Outcome State Fault Refusal :=
  .next (s.bar0Write (0x108 + 0x40 * r.val) (value &&& 0xFFFFFFEF))

/-- FUSE_REQUEST (R457): a write of FUSE_REQ_CTRL. -/
def execFuseRequest (value : Word) (s : State) : Host.Outcome State Fault Refusal := .next (s.bar0Write 0x400218 value)

/-- SITE_TAG_WRITE (R61, R493): a write of RES_SITE_TAG. -/
def execSiteTagWrite (value : Word) (s : State) : Host.Outcome State Fault Refusal := .next (s.bar0Write 0xB00008 value)

/-- NEXT_ID_WRITE (R61, R62): a write of RES_MODULE_ID. -/
def execNextIdWrite (value : Word) (s : State) : Host.Outcome State Fault Refusal := .next (s.bar0Write 0xB00000 value)

/-- HOSTED_SOURCE_RELEASE (R492): a write of MNT_HOST_SRC. -/
def execHostedSourceRelease (value : Word) (s : State) : Host.Outcome State Fault Refusal :=
  .next (s.bar0Write 0xA0005C value)

/-- HOSTED_AREA_WRITE (R492): a write of MNT_HOST_BASE_LO, MNT_HOST_BASE_HI or MNT_HOST_UNITS. A write at another
offset is a write of the register there. -/
def execHostedAreaWrite (offset : Nat) (value : Word) (s : State) : Host.Outcome State Fault Refusal :=
  if offset < bar0Size then .next (s.bar0Write offset value) else .next s

end Sys2Proof.Machine
end

