-- ==== Sys2Proof/Machine/Startup.lean ====
section
/-!
DEFINITION. Start-up (R466 to R474): fuse sense, boot, region power-up, fills, self-test, ring training and optical
training, each with its event; and the row STARTUP.
-/
namespace Sys2Proof.Machine

/-- A step of start-up ends: its duration in 0.1 ms and its event; DETAIL 1 where start-up stops there. -/
def State.stepEnds (s : State) (found : StartupFindings) (i : Nat) (failed : Bool) : State :=
  let t := found.durations.getD (i - 1) 0
  let s := (s.putSat .RES_START_DUR_TIME t (i - 1)).event 0x0803 clsNone i (if failed then 1 else 0) t
  s.put .RES_START_STATE_STEP (if failed then i else i + 1)

/-- The registers of Table 4 of "Start-Up and Self-Test" start afresh (R482). -/
def State.startFresh (s : State) : State :=
  let s := { s with power := { s.power with
    goodFeeds := false
    inReset := false } }
  let s := s.wipe [.RES_START_STATE_READY, .RES_START_STATE_RECOVERY, .RES_START_STATE_FAIL, .RES_START_STATE_TOTAL_MS,
    .RES_START_TEST_CORES, .RES_START_TEST_ROUTERS, .RES_START_TEST_STACKS, .RES_START_DUR_TIME]
  s.put .RES_START_STATE_STEP 1

/-- Step 2: fuse sense sets the shadow and what the fuses govern (R2, R4, R455, R465). -/
def State.fuseSense (s : State) : State :=
  let b := s.fuses.read
  let s : State := { s with shadowBank := b }
  let s := s.bump .FUSE_SENSE_COUNT
  s.puts 0 [(.FUSE_LIFECYCLE_PENDING_STATE, b.lifecycle.toNat), (.PWR_HOLDUP_FITTED, if b.holdupFitted then 1 else 0),
    (.PWR_HOLDUP_ARMED, if b.holdupFitted then 1 else 0)]

/-- One firmware copy as the ROM finds it (R461): ARB and DIGEST where it verifies. A copy that manufacture wrote is signed
with the key of slot 0, so that slot must be set (log entry 140). -/
def State.bootOne (s : State) (held : Option (List Byte)) (made : Option (BitVec 7 × BitVec 512)) :
    Option (BitVec 7 × BitVec 512) :=
  match held with
  | some package =>
    let h := parseHeader package
    if s.firmwareGood package then some (BitVec.ofNat 7 h.arb, h.digest) else none
  | none => made.filter (fun x => s.shadowBank.slot0.isSome && s.shadowBank.fwCount.toNat ≤ x.1.toNat)

/-- The firmware copy that verifies with the higher ARB, A where they are equal (R461): false A, true B. -/
def State.bootCopy (s : State) (found : StartupFindings) : Option (Bool × BitVec 7 × BitVec 512) :=
  match s.bootOne s.flash.fwA (found.copyA.map (·, found.digestA)), s.bootOne s.flash.fwB (found.copyB.map (·, found.digestB)) with
  | some x, some y => if x.1.toNat < y.1.toNat then some (true, y) else some (false, x)
  | some x, none => some (false, x)
  | none, some y => some (true, y)
  | none, none => none

/-- The log comes back from flash (R511). DESIGN CHOICE (log entry 75): a log that the always-on memory still holds stays as
it is; where it was lost, the entries of this start-up follow the restored ones, with the sequence numbers that continue
theirs. -/
def State.restoreLog (s : State) (found : StartupFindings) : State :=
  let f := s.flash
  if !found.logRestored || f.log.isEmpty then s
  else
    let s := s.put .LOG_FLASH_RESTORED 1
    if !found.logLost then s
    else s.log.foldr (fun e t => { t with
      log := { e with seq := t.nextSeq } :: t.log.take 4095
      nextSeq := if t.nextSeq = 0xFFFFFFFF then 1 else t.nextSeq + 1 }) { s with log := f.log, nextSeq := f.logSeq }

/-- Step 3: the firmware runs; identity, site tag, history and log come from flash, the feed tags are sampled, the
coolant check begins, ALERT# tells of a class M reset (R61, R63, R461, R476, R511, R524). The defect map is in force from
here (log entry 149). -/
def State.boot (s : State) (found : StartupFindings) (copy : Bool × BitVec 7 × BitVec 512) : State :=
  let f := s.flash
  let s : State := { s with
    firmware := some copy
    history := f.history
    loadedDefects := s.defectMap
    historySecs := 0
    cool := { s.cool with
      checkOn := true
      flowFor := 0
      deltas := []
      lowFlow := 0 } }
  let s := s.restoreLog found
  let id := f.moduleId
  let s := s.puts 0 [(.RES_MODULE_ID_MODULE_ID, (id.map (·.toNat)).getD 0), (.RES_MODULE_ID_ASSIGNED, if id.isSome then 1 else 0),
    (.RES_MODULE_ID_NEXT_ID, ((f.nextId.orElse (fun _ => id)).map (·.toNat)).getD 0),
    (.RES_MODULE_ID_PENDING, if f.nextId.isSome then 1 else 0), (.RES_SITE_TAG_SITE_TAG, f.siteTag.toNat),
    (.RES_FEED_TAGS_FEED_A_TAG, found.feedTagA.toNat), (.RES_FEED_TAGS_FEED_B_TAG, found.feedTagB.toNat),
    (.LOG_FLASH_FLUSH_FAILED, if f.flushFailed then 1 else 0), (.RES_COOL_CHECK_STATE, 0), (.RES_COOL_CHECK_REPEATS, 0)]
  s

/-- Step 4: converter groups and PLLs (R470). A region with a REGION entry stays off; one that shorts is latched off; one
that does not lock is stopped and tripped; the others reach Doze. -/
def State.powerUp (s : State) (found : StartupFindings) : State :=
  let s := s.put .PWR_LADDER_MODULE 0
  s.each (List.range 400) (fun s r =>
    if regionBarred s.defectMap r then s.latchRegion r
    else
      let s := (s.puts r [(.PWR_REGION_STATE, 2), (.PWR_REGION_CLK, 0), (.PWR_REGION_LOCKED, 0)]).put .THERM_REGION_VALID 1 r
      if found.shorts.any (fun x => x.val = r) then s.shortRegion r
      else if found.noLock.any (fun x => x.val = r) then s.loseLock r
      else s)

/-- The fill of every SRAM (R221): memory is zero, no word is in error. -/
def State.fillAll (s : State) : State :=
  { s with
    mem := []
    bad := [] }.put .MEM_RING_CFG_SRAM_FILLED 1

/-- A region takes part in self-test: powered and locked (R470). -/
def State.tested (s : State) (r : Nat) : Bool := !s.regionStuck r

/-- The cause code of a failed core test (R509). -/
def testCause : CoreTest → Nat
  | .cell => 1
  | .tree => 2
  | .engine => 3

/-- A self-test failure adds its entry where the physical core's location holds none, of either kind; its field of
RES_START_TEST counts it (R472). -/
def State.testFail (s : State) (f : Field) (kind cause p : Nat) : State :=
  if !s.tested (coreRegion p) || s.defectMap.any (fun d => defIsCore d && defCore d = p) then s
  else
    match s.addDefect (defEntry kind cause (coreLoc p)) with
    | some t => t.bump f
    | none => s

/-- The physical cores whose routers a mesh output joins; none where no router lies beyond it (R236, R471). -/
def linkEnds (p out : Nat) : List Nat :=
  match joint (coreRouter p) out with
  | .router r _ => [p, routerCore r]
  | _ => []

/-- Step 6: self-test, with entries at both ends of a failing link between tested routers, and the second fill (R471, R472).
DESIGN CHOICE (log entry 156): the core tests go before the router test, so that of a location that fails both the CORE
entry is added. -/
def State.selfTest (s : State) (found : StartupFindings) : State :=
  let s := s.each found.coreFails (fun s e => s.testFail .RES_START_TEST_CORES 1 (testCause e.2) e.1.no)
  let s := s.each found.linkFails (fun s e =>
    let ends := linkEnds e.1.no e.2.val
    if ends.all (fun p => s.tested (coreRegion p)) then s.each ends (fun s p => s.testFail .RES_START_TEST_ROUTERS 2 4 p) else s)
  s.fillAll

/-- A STACK entry of start-up, counted. -/
def State.stackFail (s : State) (cause st : Nat) : State :=
  (s.addDefect (defEntry 5 cause st)).elim s (·.bump .RES_START_TEST_STACKS)

/-- Stacks without a STACK entry, as a mask (R214). -/
def State.stackMask (s : State) : Nat :=
  ((List.range 36).map (fun st => if s.defectMap.any (fun d => defKind d = 5 && defLoc d % 64 = st) then 0 else 2 ^ st)).sum

/-- GiB of a stack: 48 on PW40-A and PW40-B, 24 on PW40-C and PW40-D (R2). -/
def State.stackGiB (s : State) : Nat := if s.shadowBank.orderCode.toNat < 2 then 48 else 24

/-- A stack trained: neither it nor its bridge failed. -/
def stackTrained (found : StartupFindings) (st : Nat) : Bool :=
  !found.stackFails.any (fun x => x.val = st) && !found.bridgeFails.any (fun b => b.val = st / 2)

/-- Step 7: ring training, row repairs, the interleave and the fill (R208, R214, R222, R473). DESIGN CHOICE (log entry
127): a failing bridge removes both its stacks, with CAUSE 11, before its stacks can fail on their own, and a stack that
holds an entry takes no second one (R57). -/
def State.trainRing (s : State) (found : StartupFindings) : State :=
  let s := s.each found.bridgeFails (fun s b => (s.stackFail 11 (2 * b.val)).stackFail 11 (2 * b.val + 1))
  let s := s.each found.stackFails (fun s st => s.stackFail 9 st.val)
  let s := s.each (s.repairs.filter (fun x => stackTrained found x.1)) (fun s x => s.event 0x0304 clsC x.1 0 x.2)
  let s : State := { s with
    repairs := []
    lostStacks := 0 }
  let m := s.stackMask
  let n := ((List.range 36).filter (fun st => m.testBit st)).length
  s.puts 0 [(.MEM_RING_MAP_LO_IN_USE, m), (.MEM_RING_MAP_HI_IN_USE, m / 2 ^ 32), (.MEM_RING_CFG_STACKS, n),
    (.MEM_RING_CFG_DEGRADED, if n < 36 then 1 else 0), (.MEM_RING_CFG_SIZE_GIB, n * s.stackGiB),
    (.MEM_RING_CFG_RING_FILLED, if n = 0 then 0 else 1)]

/-- Step 8: NEXT_ID is adopted and every fitted port runs a training pass; one with a PORT entry is FAILED (R62, R283,
R474). -/
def State.opticalStart (s : State) (found : StartupFindings) : State :=
  let s := s.each s.fittedPorts (fun s n =>
    if s.defectMap.any (fun d => defKind d = 6 && defLoc d = n) then
      s.puts n [(.OPT_PORT_STATE_STATE, 8), (.OPT_PORT_STATE_CAUSE, 8)]
    else s.put .OPT_PORT_STATE_STATE 2 n)
  s.adoptId.trainAll found.ports

/-- Steps 4 to 8, with the module ready at their end (R467). -/
def State.startMemory (s : State) (found : StartupFindings) : State :=
  let s := (s.powerUp found).stepEnds found 4 false
  let s := s.fillAll.stepEnds found 5 false
  let s := (s.selfTest found).stepEnds found 6 false
  let s := s.trainRing found
  if s.get .MEM_RING_CFG_STACKS = 0 then (s.stepEnds found 7 true).put .RES_START_STATE_FAIL 1
  else
    let s := (s.stepEnds found 7 false).opticalStart found
    let s := (s.stepEnds found 8 false).putSat .OPT_TRAIN_LAST_MS (found.durations.getD 7 0 / 10)
    (s.put .RES_START_STATE_READY 1).putSat .RES_START_STATE_TOTAL_MS ((found.durations.take 8).sum / 10)

/-- Start-up from good feeds (R466 to R468); the log is empty where the always-on memory lost it. -/
def State.startUp (s : State) (found : StartupFindings) : State :=
  let s : State := if found.logLost then { s with log := [], nextSeq := 1 } else s
  let s := s.startFresh.stepEnds found 1 false
  let s := s.fuseSense
  if s.shadowBank.lifecycle = 0 then s.stepEnds found 2 true
  else
    let s := s.stepEnds found 2 false
    match s.bootCopy found with
    | none => (s.stepEnds found 3 true).put .RES_START_STATE_RECOVERY 1
    | some copy =>
      let s := (s.boot found copy).stepEnds found 3 false
      (if s.on .RES_RESET_CAUSE then s.alert else s).startMemory found

/-- STARTUP (R466): after good feeds, while the module is held in reset. -/
def execStartup (found : StartupFindings) (s : State) : Host.Outcome State Fault Refusal :=
  if s.power.goodFeeds && s.power.inReset then .next (s.startUp found) else .next s

end Sys2Proof.Machine
end

