-- ==== Sys2Proof/Machine/Stream.lean ====
section
/-!
DEFINITION. The rows of the stream engine and of the reports that units send to the module numerics block.
-/
namespace Sys2Proof.Machine

/-- STREAM_DESC_START (R93, R110): the head descriptor of a channel starts, once. -/
def execStreamDescStart (p : PCore) (ch : Fin 4) (s : State) : Host.Outcome State Fault Refusal :=
  match (s.core p.no).chan ch with
  | j :: _ => if j.started then .next s else .next (s.streamStart p.no ch j)
  | [] => .next s

/-- STREAM_DESC_COMPLETE (R111): the started head descriptor leaves its queue once all of it has been read and
every write has been accepted or acknowledged, and its counts set out as one report (R189). -/
def execStreamDescComplete (p : PCore) (ch : Fin 4) (s : State) : Host.Outcome State Fault Refusal :=
  let c := s.core p.no
  match c.chan ch with
  | j :: rest =>
    if j.started && j.reads = 0 && j.acksLeft = 0 then
      .next (((s.setCore p.no (c.setChan ch rest)).report j.tag j.counts).checkComplete)
    else .next s
  | [] => .next s

/-- COUNT_REPORT (R188 to R190): the i-th report on its way reaches the module numerics block, which adds it to the RUN
view and to the counts received since the last quiet point. -/
def execCountReport (i : Nat) (s : State) : Host.Outcome State Fault Refusal :=
  match s.counts[i]? with
  | some r => .next { s with
      counts := s.counts.eraseIdx i
      runView := mset {} s.runView r.tag ((mget {} s.runView r.tag).merge r.counts)
      sinceQuiet := mset {} s.sinceQuiet r.tag ((mget {} s.sinceQuiet r.tag).merge r.counts) }
  | none => .next s

/-- The first-NaN latch takes a report of a lower step count than the one it holds (R194); filling it is logged and sets source 11 (R412). -/
def State.latchNan (s : State) (r : NanReport) : State :=
  let s := s.bump .NUM_NAN_COUNT_COUNT
  let filled := s.on .NUM_NAN_LOC_VALID
  if filled && s.nanStep ≤ r.step then s
  else
    let s := ({ s with nanStep := r.step } : State).puts 0 [(.NUM_NAN_LOC_TILE, r.tile), (.NUM_NAN_LOC_CLUSTER, r.cluster), (.NUM_NAN_LOC_CORE, r.core),
      (.NUM_NAN_LOC_SLOT, r.slot), (.NUM_NAN_LOC_UNIT, r.unit), (.NUM_NAN_LOC_VALID, 1), (.NUM_NAN_PC_PC, r.pc),
      (.NUM_NAN_PC_DESC, r.desc), (.NUM_NAN_TAG_LAYER_TAG, r.tag), (.NUM_NAN_TAG_TAG_VALID, if r.tagValid then 1 else 0),
      (.NUM_NAN_STEP_STEP, r.step), (.NUM_NAN_TIME_AC, s.ac)]
    if filled then s else (s.event 0x0601 clsNone r.tag r.unit 0).raise 11

/-- NAN_REPORT (R194): the i-th report on its way reaches the latch. -/
def execNanReport (i : Nat) (s : State) : Host.Outcome State Fault Refusal :=
  match s.nans[i]? with
  | some r => .next ({ s with nans := s.nans.eraseIdx i }.latchNan r)
  | none => .next s

end Sys2Proof.Machine
end

