-- ==== Sys2Proof/Machine/Training.lean ====
section
/-!
DEFINITION. The rows of the training step and its quiet point that no register write starts.
-/
namespace Sys2Proof.Machine

/-- GATE_RELEASE (R302, R305, R306): the gate releases once every hold has cleared. -/
def execGateRelease (s : State) : Host.Outcome State Fault Refusal := .next s.tryGate

/-- NUMERICS_APPLY (R340): once at each quiet point that ends a step, when the count reports are in. -/
def execNumericsApply (s : State) : Host.Outcome State Fault Refusal :=
  match s.quiet with
  | some q => if q.first || q.applied || s.reportsWait q then .next s else .next (s.numericsApply q)
  | none => .next s

/-- QUIET_COMMIT_APPLY (R384): the pending commits, in the order power, numerics, partner; then a stop takes effect. -/
def execQuietCommitApply (s : State) : Host.Outcome State Fault Refusal :=
  if s.commitsDue then .next (s.applyWhere s.commitDue).settleQuiet else .next s

/-- COMMIT_APPLY_TIMEOUT (R385). -/
def execCommitApplyTimeout (s : State) : Host.Outcome State Fault Refusal :=
  if s.commitsDue then .next s.commitsLate else .next s

/-- NUMERICS_RESTART_DONE (R344). -/
def execNumericsRestartDone (s : State) : Host.Outcome State Fault Refusal :=
  if s.on .NUM_RESTART_BUSY then
    .next (s.initArea.puts 0 [(.NUM_RESTART_BUSY, 0), (.NUM_RESTART_DONE, 1)])
  else .next s

end Sys2Proof.Machine
end

