-- ==== Sys2Proof/Machine/Vector.lean ====
section
/-!
DEFINITION. The vector-slot rows (Table 5 of "The Core", R94 to R97).
-/
namespace Sys2Proof.Machine

/-- VADD (R94, R95). -/
def execVadd (p : PCore) (g : Guard) (vd va vb : VReg) (t : BitVec 2) (s : State) : Host.Outcome State Fault Refusal :=
  .next (s.issueVec p g (.bin .add vd va vb t))

/-- VSUB (R94, R95). -/
def execVsub (p : PCore) (g : Guard) (vd va vb : VReg) (t : BitVec 2) (s : State) : Host.Outcome State Fault Refusal :=
  .next (s.issueVec p g (.bin .sub vd va vb t))

/-- VMUL (R94, R95). -/
def execVmul (p : PCore) (g : Guard) (vd va vb : VReg) (t : BitVec 2) (s : State) : Host.Outcome State Fault Refusal :=
  .next (s.issueVec p g (.bin .mul vd va vb t))

/-- VFMA (R94, R95). -/
def execVfma (p : PCore) (g : Guard) (vd va vb vc : VReg) (t : BitVec 2) (s : State) : Host.Outcome State Fault Refusal :=
  .next (s.issueVec p g (.fma vd va vb vc t))

/-- VMAX (R94, R95). -/
def execVmax (p : PCore) (g : Guard) (vd va vb : VReg) (t : BitVec 2) (s : State) : Host.Outcome State Fault Refusal :=
  .next (s.issueVec p g (.bin .max vd va vb t))

/-- VMIN (R94, R95). -/
def execVmin (p : PCore) (g : Guard) (vd va vb : VReg) (t : BitVec 2) (s : State) : Host.Outcome State Fault Refusal :=
  .next (s.issueVec p g (.bin .min vd va vb t))

/-- VABS (R94, R95). -/
def execVabs (p : PCore) (g : Guard) (vd va : VReg) (t : BitVec 2) (s : State) : Host.Outcome State Fault Refusal :=
  .next (s.issueVec p g (.un .abs vd va t))

/-- VNEG (R94, R95). -/
def execVneg (p : PCore) (g : Guard) (vd va : VReg) (t : BitVec 2) (s : State) : Host.Outcome State Fault Refusal :=
  .next (s.issueVec p g (.un .neg vd va t))

/-- VBCAST (R94). -/
def execVbcast (p : PCore) (g : Guard) (vd : VReg) (a : SReg) (t : BitVec 2) (s : State) : Host.Outcome State Fault Refusal :=
  .next (s.issueVec p g (.bcast vd a t))

/-- VCVT (R94, R168 to R171). -/
def execVcvt (p : PCore) (g : Guard) (vd va : VReg) (dst : BitVec 4) (t : BitVec 2) (s : State) : Host.Outcome State Fault Refusal :=
  .next (s.issueVec p g (.cvt vd va dst t))

/-- VEXP (R97). -/
def execVexp (p : PCore) (g : Guard) (vd va : VReg) (t : BitVec 2) (s : State) : Host.Outcome State Fault Refusal :=
  .next (s.issueVec p g (.un .exp vd va t))

/-- VLOG (R97). -/
def execVlog (p : PCore) (g : Guard) (vd va : VReg) (t : BitVec 2) (s : State) : Host.Outcome State Fault Refusal :=
  .next (s.issueVec p g (.un .log vd va t))

/-- VRSQRT (R97). -/
def execVrsqrt (p : PCore) (g : Guard) (vd va : VReg) (t : BitVec 2) (s : State) : Host.Outcome State Fault Refusal :=
  .next (s.issueVec p g (.un .rsqrt vd va t))

/-- VTANH (R97). -/
def execVtanh (p : PCore) (g : Guard) (vd va : VReg) (t : BitVec 2) (s : State) : Host.Outcome State Fault Refusal :=
  .next (s.issueVec p g (.un .tanh vd va t))

/-- VRSUM (R96). -/
def execVrsum (p : PCore) (g : Guard) (vd va : VReg) (t : BitVec 2) (s : State) : Host.Outcome State Fault Refusal :=
  .next (s.issueVec p g (.un .rsum vd va t))

/-- VRMAX (R96). -/
def execVrmax (p : PCore) (g : Guard) (vd va : VReg) (t : BitVec 2) (s : State) : Host.Outcome State Fault Refusal :=
  .next (s.issueVec p g (.un .rmax vd va t))

/-- VCMP (R94). -/
def execVcmp (p : PCore) (g : Guard) (vd va vb : VReg) (cond : BitVec 5) (t : BitVec 2) (s : State) : Host.Outcome State Fault Refusal :=
  .next (s.issueVec p g (.cmp vd va vb cond t))

/-- VSEL (R94). -/
def execVsel (p : PCore) (g : Guard) (vd va vb vc : VReg) (s : State) : Host.Outcome State Fault Refusal :=
  .next (s.issueVec p g (.sel vd va vb vc))

/-- VANY (R94). -/
def execVany (p : PCore) (g : Guard) (pd : PReg) (va : VReg) (s : State) : Host.Outcome State Fault Refusal :=
  .next (s.issueVec p g (.any pd va))

end Sys2Proof.Machine
end

