-- ==== Sys2Proof/Machine/Dispatch.lean ====
section
/-!
DEFINITION. `exec`: one arm per command of spec/opcode_table.json, each a direct call of its meaning.
-/
namespace Sys2Proof.Machine

/-- The effect of a command on everything but the queue. -/
def exec (i : Instr) (s : State) : Host.Outcome State Fault Refusal :=
  match i with
  | .nop p slot g => Sys2Proof.Machine.execNop p slot g s
  | .add p g d a b => Sys2Proof.Machine.execAdd p g d a b s
  | .sub p g d a b => Sys2Proof.Machine.execSub p g d a b s
  | .and p g d a b => Sys2Proof.Machine.execAnd p g d a b s
  | .or p g d a b => Sys2Proof.Machine.execOr p g d a b s
  | .xor p g d a b => Sys2Proof.Machine.execXor p g d a b s
  | .shl p g d a b => Sys2Proof.Machine.execShl p g d a b s
  | .shr p g d a b => Sys2Proof.Machine.execShr p g d a b s
  | .addi p g d a imm => Sys2Proof.Machine.execAddi p g d a imm s
  | .li p g d imm => Sys2Proof.Machine.execLi p g d imm s
  | .lui p g d imm => Sys2Proof.Machine.execLui p g d imm s
  | .mul p g d a b => Sys2Proof.Machine.execMul p g d a b s
  | .setp p g cond pd a b => Sys2Proof.Machine.execSetp p g cond pd a b s
  | .plog p g op pd pa pb => Sys2Proof.Machine.execPlog p g op pd pa pb s
  | .br p g target => Sys2Proof.Machine.execBr p g target s
  | .loop p g ln src count last => Sys2Proof.Machine.execLoop p g ln src count last s
  | .ldw p g d a imm => Sys2Proof.Machine.execLdw p g d a imm s
  | .stw p g src a imm => Sys2Proof.Machine.execStw p g src a imm s
  | .dwr p g table index word src => Sys2Proof.Machine.execDwr p g table index word src s
  | .movvs p g d va lane => Sys2Proof.Machine.execMovvs p g d va lane s
  | .movls p g d ln => Sys2Proof.Machine.execMovls p g d ln s
  | .bpost p g sys id => Sys2Proof.Machine.execBpost p g sys id s
  | .bwait p g sys id => Sys2Proof.Machine.execBwait p g sys id s
  | .bsync p g sys id => Sys2Proof.Machine.execBsync p g sys id s
  | .waits p g mask => Sys2Proof.Machine.execWaits p g mask s
  | .waita p g => Sys2Proof.Machine.execWaita p g s
  | .endc p g => Sys2Proof.Machine.execEndc p g s
  | .strm p g d ch sa sb => Sys2Proof.Machine.execStrm p g d ch sa sb s
  | .vld p g vd sa imm => Sys2Proof.Machine.execVld p g vd sa imm s
  | .vst p g vs sa imm => Sys2Proof.Machine.execVst p g vs sa imm s
  | .vadd p g vd va vb t => Sys2Proof.Machine.execVadd p g vd va vb t s
  | .vsub p g vd va vb t => Sys2Proof.Machine.execVsub p g vd va vb t s
  | .vmul p g vd va vb t => Sys2Proof.Machine.execVmul p g vd va vb t s
  | .vfma p g vd va vb vc t => Sys2Proof.Machine.execVfma p g vd va vb vc t s
  | .vmax p g vd va vb t => Sys2Proof.Machine.execVmax p g vd va vb t s
  | .vmin p g vd va vb t => Sys2Proof.Machine.execVmin p g vd va vb t s
  | .vabs p g vd va t => Sys2Proof.Machine.execVabs p g vd va t s
  | .vneg p g vd va t => Sys2Proof.Machine.execVneg p g vd va t s
  | .vbcast p g vd a t => Sys2Proof.Machine.execVbcast p g vd a t s
  | .vcvt p g vd va dst t => Sys2Proof.Machine.execVcvt p g vd va dst t s
  | .vexp p g vd va t => Sys2Proof.Machine.execVexp p g vd va t s
  | .vlog p g vd va t => Sys2Proof.Machine.execVlog p g vd va t s
  | .vrsqrt p g vd va t => Sys2Proof.Machine.execVrsqrt p g vd va t s
  | .vtanh p g vd va t => Sys2Proof.Machine.execVtanh p g vd va t s
  | .vrsum p g vd va t => Sys2Proof.Machine.execVrsum p g vd va t s
  | .vrmax p g vd va t => Sys2Proof.Machine.execVrmax p g vd va t s
  | .vcmp p g vd va vb cond t => Sys2Proof.Machine.execVcmp p g vd va vb cond t s
  | .vsel p g vd va vb vc => Sys2Proof.Machine.execVsel p g vd va vb vc s
  | .vany p g pd va => Sys2Proof.Machine.execVany p g pd va s
  | .arun p g d sa sb sc => Sys2Proof.Machine.execArun p g d sa sb sc s
  | .streamDescStart p ch => Sys2Proof.Machine.execStreamDescStart p ch s
  | .streamDescComplete p ch => Sys2Proof.Machine.execStreamDescComplete p ch s
  | .countReport k => Sys2Proof.Machine.execCountReport k s
  | .nanReport k => Sys2Proof.Machine.execNanReport k s
  | .arrayDescHead p => Sys2Proof.Machine.execArrayDescHead p s
  | .shadowGroupLoad p => Sys2Proof.Machine.execShadowGroupLoad p s
  | .arrayFlip p => Sys2Proof.Machine.execArrayFlip p s
  | .cabooseClose p => Sys2Proof.Machine.execCabooseClose p s
  | .bankDrain p => Sys2Proof.Machine.execBankDrain p s
  | .arrayRampAdmit p => Sys2Proof.Machine.execArrayRampAdmit p s
  | .arrayGate p => Sys2Proof.Machine.execArrayGate p s
  | .skewChainStep p => Sys2Proof.Machine.execSkewChainStep p s
  | .accumulatorCapture r value => Sys2Proof.Machine.execAccumulatorCapture r value s
  | .stackedReadRequest c port line => Sys2Proof.Machine.execStackedReadRequest c port line s
  | .mergeWindowClose c line => Sys2Proof.Machine.execMergeWindowClose c line s
  | .stackedBankGrant c bank => Sys2Proof.Machine.execStackedBankGrant c bank s
  | .scrubAccess c word => Sys2Proof.Machine.execScrubAccess c word s
  | .scrubForced c bank => Sys2Proof.Machine.execScrubForced c bank s
  | .patrolRead ch upset => Sys2Proof.Machine.execPatrolRead ch upset s
  | .patrolForced ch => Sys2Proof.Machine.execPatrolForced ch s
  | .ueLocationTest loc passes spareRow => Sys2Proof.Machine.execUeLocationTest loc passes spareRow s
  | .memCeCopy value => Sys2Proof.Machine.execMemCeCopy value s
  | .memCeCopyDone => Sys2Proof.Machine.execMemCeCopyDone s
  | .hostRingAccess w addr op bankBusy => Sys2Proof.Machine.execHostRingAccess w addr op bankBusy s
  | .hostRingWaitTimeout ch => Sys2Proof.Machine.execHostRingWaitTimeout ch s
  | .backInvalidationDone line => Sys2Proof.Machine.execBackInvalidationDone line s
  | .hostClusterAccess bar0 addr op => Sys2Proof.Machine.execHostClusterAccess bar0 addr op s
  | .stalledAccessComplete r => Sys2Proof.Machine.execStalledAccessComplete r s
  | .flitGrant r out => Sys2Proof.Machine.execFlitGrant r out s
  | .maintFloorGrant r out => Sys2Proof.Machine.execMaintFloorGrant r out s
  | .creditReturn r out vc => Sys2Proof.Machine.execCreditReturn r out vc s
  | .mcastHoldSlip r out tree heldFc => Sys2Proof.Machine.execMcastHoldSlip r out tree heldFc s
  | .barrierArrival r sys id input ovf => Sys2Proof.Machine.execBarrierArrival r sys id input ovf s
  | .barrierRelease sys id ovf => Sys2Proof.Machine.execBarrierRelease sys id ovf s
  | .barrierWatchdog sys id => Sys2Proof.Machine.execBarrierWatchdog sys id s
  | .gateRelease => Sys2Proof.Machine.execGateRelease s
  | .numericsApply => Sys2Proof.Machine.execNumericsApply s
  | .quietCommitApply => Sys2Proof.Machine.execQuietCommitApply s
  | .commitApplyTimeout => Sys2Proof.Machine.execCommitApplyTimeout s
  | .memInProdWrite ring value => Sys2Proof.Machine.execMemInProdWrite ring value s
  | .numericsRestart value => Sys2Proof.Machine.execNumericsRestart value s
  | .numericsRestartDone => Sys2Proof.Machine.execNumericsRestartDone s
  | .portTransmit n => Sys2Proof.Machine.execPortTransmit n s
  | .portReceivePacket n pkt => Sys2Proof.Machine.execPortReceivePacket n pkt s
  | .fecReplay n sameFlit => Sys2Proof.Machine.execFecReplay n sameFlit s
  | .fecRateCheck n corrected => Sys2Proof.Machine.execFecRateCheck n corrected s
  | .portTrainingPass n light => Sys2Proof.Machine.execPortTrainingPass n light s
  | .portRetrainTimer n => Sys2Proof.Machine.execPortRetrainTimer n s
  | .portLinkLost n why => Sys2Proof.Machine.execPortLinkLost n why s
  | .portPeerEnable n => Sys2Proof.Machine.execPortPeerEnable n s
  | .opticalEngineFault tile => Sys2Proof.Machine.execOpticalEngineFault tile s
  | .portDisable n value => Sys2Proof.Machine.execPortDisable n value s
  | .portRetrain n => Sys2Proof.Machine.execPortRetrain n s
  | .loadImage ctx addr => Sys2Proof.Machine.execLoadImage ctx addr s
  | .loadImageDone => Sys2Proof.Machine.execLoadImageDone s
  | .txnBegin ctx scope regions => Sys2Proof.Machine.execTxnBegin ctx scope regions s
  | .txnWrite ctx key value => Sys2Proof.Machine.execTxnWrite ctx key value s
  | .txnCommit ctx scope quiet => Sys2Proof.Machine.execTxnCommit ctx scope quiet s
  | .txnRollback ctx scope => Sys2Proof.Machine.execTxnRollback ctx scope s
  | .txnTimeout scope => Sys2Proof.Machine.execTxnTimeout scope s
  | .run ctx => Sys2Proof.Machine.execRun ctx s
  | .halt ctx => Sys2Proof.Machine.execHalt ctx s
  | .secureNow ctx => Sys2Proof.Machine.execSecureNow ctx s
  | .pair ctx partner => Sys2Proof.Machine.execPair ctx partner s
  | .pairingExchangeEnd reply => Sys2Proof.Machine.execPairingExchangeEnd reply s
  | .ladder ctx target isSet regions => Sys2Proof.Machine.execLadder ctx target isSet regions s
  | .ladderDone => Sys2Proof.Machine.execLadderDone s
  | .maintStart ctx activity params => Sys2Proof.Machine.execMaintStart ctx activity params s
  | .fill => Sys2Proof.Machine.execFill s
  | .scrub => Sys2Proof.Machine.execScrub s
  | .ringtrain => Sys2Proof.Machine.execRingtrain s
  | .opttrain ports => Sys2Proof.Machine.execOpttrain ports s
  | .fusesense => Sys2Proof.Machine.execFusesense s
  | .tcal => Sys2Proof.Machine.execTcal s
  | .drainSecure => Sys2Proof.Machine.execDrainSecure s
  | .drainRestore copy data => Sys2Proof.Machine.execDrainRestore copy data s
  | .drainQuery slots => Sys2Proof.Machine.execDrainQuery slots s
  | .defectUpdateAdd => Sys2Proof.Machine.execDefectUpdateAdd s
  | .defectUpdateClear => Sys2Proof.Machine.execDefectUpdateClear s
  | .defectUpdateClearKind => Sys2Proof.Machine.execDefectUpdateClearKind s
  | .maintActivityEnd activity failed => Sys2Proof.Machine.execMaintActivityEnd activity failed s
  | .stateQuery ctx => Sys2Proof.Machine.execStateQuery ctx s
  | .logRead ctx first count dest inline => Sys2Proof.Machine.execLogRead ctx first count dest inline s
  | .mailboxSubmit => Sys2Proof.Machine.execMailboxSubmit s
  | .sqDoorbell r value => Sys2Proof.Machine.execSqDoorbell r value s
  | .sqFetch r => Sys2Proof.Machine.execSqFetch r s
  | .cqDoorbell r value => Sys2Proof.Machine.execCqDoorbell r value s
  | .ringEnable r value => Sys2Proof.Machine.execRingEnable r value s
  | .ringDisable r value => Sys2Proof.Machine.execRingDisable r value s
  | .hostInterfaceReset kind => Sys2Proof.Machine.execHostInterfaceReset kind s
  | .mctpCommand pcie descriptor => Sys2Proof.Machine.execMctpCommand pcie descriptor s
  | .mctpEidAssigned pcie => Sys2Proof.Machine.execMctpEidAssigned pcie s
  | .pldmFirmwareUpdate package => Sys2Proof.Machine.execPldmFirmwareUpdate package s
  | .pldmSensorRead sensor => Sys2Proof.Machine.execPldmSensorRead sensor s
  | .spdmGetMeasurements => Sys2Proof.Machine.execSpdmGetMeasurements s
  | .spdmSetCertificate slot chain certified => Sys2Proof.Machine.execSpdmSetCertificate slot chain certified s
  | .spdmKeyExchange doe => Sys2Proof.Machine.execSpdmKeyExchange doe s
  | .bar0HoleAccess addr op => Sys2Proof.Machine.execBar0HoleAccess addr op s
  | .acCounterRead => Sys2Proof.Machine.execAcCounterRead s
  | .registerWrite offset value => Sys2Proof.Machine.execRegisterWrite offset value s
  | .feedSample f reading => Sys2Proof.Machine.execFeedSample f reading s
  | .feedIsolate f => Sys2Proof.Machine.execFeedIsolate f s
  | .feedReadmit f => Sys2Proof.Machine.execFeedReadmit f s
  | .feedOvercurrent f => Sys2Proof.Machine.execFeedOvercurrent f s
  | .busSample volts => Sys2Proof.Machine.execBusSample volts s
  | .goodFeeds => Sys2Proof.Machine.execGoodFeeds s
  | .regionSupplyShort r => Sys2Proof.Machine.execRegionSupplyShort r s
  | .capLoopTick more => Sys2Proof.Machine.execCapLoopTick more s
  | .thermalSample r tj => Sys2Proof.Machine.execThermalSample r tj s
  | .thermalComparatorTrip r => Sys2Proof.Machine.execThermalComparatorTrip r s
  | .pllLockLoss r => Sys2Proof.Machine.execPllLockLoss r s
  | .coolantSample inlet outlet flow => Sys2Proof.Machine.execCoolantSample inlet outlet flow s
  | .startup found => Sys2Proof.Machine.execStartup found s
  | .coolantCheckEval delta => Sys2Proof.Machine.execCoolantCheckEval delta s
  | .coolantCheckRestart => Sys2Proof.Machine.execCoolantCheckRestart s
  | .scanChainDrive on => Sys2Proof.Machine.execScanChainDrive on s
  | .firmwareWatchdog => Sys2Proof.Machine.execFirmwareWatchdog s
  | .fuseRequest value => Sys2Proof.Machine.execFuseRequest value s
  | .fuseRequestDone readback => Sys2Proof.Machine.execFuseRequestDone readback s
  | .drainStart => Sys2Proof.Machine.execDrainStart s
  | .deferredDrainStart => Sys2Proof.Machine.execDeferredDrainStart s
  | .drainReadDone => Sys2Proof.Machine.execDrainReadDone s
  | .hostedCopyWrite copy data => Sys2Proof.Machine.execHostedCopyWrite copy data s
  | .drainEnd reply => Sys2Proof.Machine.execDrainEnd reply s
  | .drainPartnerTimeout => Sys2Proof.Machine.execDrainPartnerTimeout s
  | .secureNowPin asserted => Sys2Proof.Machine.execSecureNowPin asserted s
  | .snHeld => Sys2Proof.Machine.execSnHeld s
  | .motionSample magnitude => Sys2Proof.Machine.execMotionSample magnitude s
  | .feedTagSample a b => Sys2Proof.Machine.execFeedTagSample a b s
  | .siteTagWrite value => Sys2Proof.Machine.execSiteTagWrite value s
  | .nextIdWrite value => Sys2Proof.Machine.execNextIdWrite value s
  | .partnerTagReport => Sys2Proof.Machine.execPartnerTagReport s
  | .hostedSourceRelease value => Sys2Proof.Machine.execHostedSourceRelease value s
  | .hostedAreaWrite offset value => Sys2Proof.Machine.execHostedAreaWrite offset value s
  | .faultHistoryUpdate => Sys2Proof.Machine.execFaultHistoryUpdate s
  | .smbusTimeout => Sys2Proof.Machine.execSmbusTimeout s
  | .smbusAlertResponse won => Sys2Proof.Machine.execSmbusAlertResponse won s
  | .edgeBridgeFault bridge => Sys2Proof.Machine.execEdgeBridgeFault bridge s
  | .pllRelock r => Sys2Proof.Machine.execPllRelock r s
  | .holdupStoreReady joules => Sys2Proof.Machine.execHoldupStoreReady joules s
  | .receiveLaneDark n lanes => Sys2Proof.Machine.execReceiveLaneDark n lanes s
  | .pairingExchangeReceived n source => Sys2Proof.Machine.execPairingExchangeReceived n source s
  | .hostedCopyRequest step => Sys2Proof.Machine.execHostedCopyRequest step s

end Sys2Proof.Machine
end

