-- ==== Sys2Proof/Machine/Step.lean ====
section
/-!
DEFINITION. One step of the module: the command at the front of the queue takes its effect; on an empty queue one fast
clock period of the nominal rate passes (log entry 2).
-/
namespace Sys2Proof.Machine

/-- The state a step on an empty queue leaves: one fc has passed in every region, and the fast-clock count is one higher
(R8, R434, R441). -/
def State.idle (s : State) : State := { s.fcTick with fc := s.fc + 1 }

/-- One step (R1): the front command runs with the queue's rest. -/
def step (s : State) : Host.Outcome State Fault Refusal :=
  match s.pending with
  | [] => .next s.idle
  | c :: rest => exec c { s with pending := rest }

/-- The state with the command that a word spells at the front of its queue. -/
def State.withFetchWord (s : State) (nbits w : Nat) : State :=
  match Sys2Proof.decodeTableWord nbits w with
  | some c => { s with pending := c :: s.pending }
  | none => s

end Sys2Proof.Machine
end

