-- ==== Sys2Proof/Safety.lean ====
section
/-!
DEFINITION. The terms in which claims about the module are made: the invariant of its state, what "a fuse only rises"
means, and when a bundle issues with no trap and no stall.
-/
namespace Sys2Proof.Machine

/-! ### Invariants -/

/-- Every register field holds no bit beyond its width, so that reserved bits read as zero (R11). -/
def State.Masked (s : State) : Prop := ∀ (f : Field) (i : Nat), s.word f i &&& f.mask = s.word f i

/-- The invariant of the state: memory is in its canonical form, and reserved register bits are zero (R11). -/
def State.Inv (s : State) : Prop := Memory.wf s.mem = true ∧ s.Masked

/-- One key-hash slot is at most another: an empty slot, or a hash whose 1 bits the other has too. -/
def slotLe (a b : Option (BitVec 512)) : Prop :=
  match a, b with
  | none, _ => True
  | some x, some y => x &&& y = x
  | some _, none => False

/-- No fuse of the first bank is unblown in the second, and the factory fields are the same (R453, R458). -/
structure FuseBank.Le (a b : FuseBank) : Prop where
  orderCode : b.orderCode = a.orderCode
  holdupFitted : b.holdupFitted = a.holdupFitted
  halfPorts : b.halfPorts = a.halfPorts
  serial : b.serial = a.serial
  defects : b.defects = a.defects
  slot0 : b.slot0 = a.slot0
  slot1 : slotLe a.slot1 b.slot1
  slot2 : slotLe a.slot2 b.slot2
  slot3 : slotLe a.slot3 b.slot3
  lifecycle : a.lifecycle ≤ b.lifecycle
  fwCount : a.fwCount ≤ b.fwCount
  imageCount : a.imageCount ≤ b.imageCount
  enables : b.enables = a.enables
  disables : a.disables &&& b.disables = a.disables
  pairShared : a.pairShared → b.pairShared
  lockPolicy : a.lockPolicy → b.lockPolicy
  lockFreeze : a.lockFreeze → b.lockFreeze
  policy : a.policy &&& b.policy = a.policy
  secret : a.secret &&& b.secret = a.secret
  whole : a.whole &&& b.whole = a.whole

/-- The same for the two physical fuses of every bit (R452). -/
structure FusePair.Le (a b : FusePair) : Prop where
  one : a.one.Le b.one
  two : a.two.Le b.two

/-! ### A bundle that issues -/

/-- No word of a core's near SRAM is in error. -/
def State.NearGood (s : State) (p : Nat) : Prop := ∀ w < 131072, mget [] s.bad (nearKey p w) = []

/-- Core p gets as far as the stalls with bundle b: the core runs, no check on the encoding (R72) fails, and after the
guards none on values (R74, R78, R87, R92, R98). -/
structure State.Passes (s : State) (p : Nat) (b : Bundle) : Prop where
  running : s.get .CORE_STATUS_STATE p = 1
  encoding : s.encodingTrap p b = none
  value : s.valueTrap (s.core p) (s.pc p) (b.acting (s.core p)) = none

/-- Core p issues bundle b in this step, with no trap and no stall: beside the checks, no queue is full and no wait is
unfulfilled (R75, R89, R93, R111), its near SRAM holds no error (R230), no NaN is met (R191), and the next address is at
most 4095 (R80). -/
structure State.Issues (s : State) (p : Nat) (b : Bundle) : Prop extends s.Passes p b where
  free : ((s.core p).beforeStall (b.acting (s.core p))).stalls (b.acting (s.core p)) = false
  released : (s.core p).waits (b.acting (s.core p)) = false
  nearGood : s.NearGood p
  noNan : ((b.acting (s.core p)).v.result (s.core p).vreg (s.core p).sreg (s.on .CORE_CFG_FTZ p) s.free).2 = false
  inRange : ((s.core p).advance (s.core p) (s.pc p) (b.acting (s.core p)).c).2.1 ≤ 4095

/-- The bundle at a core's pc with a control-slot operation in place. -/
def State.withCtl (s : State) (p : PCore) (g : Guard) (op : CtlOp) : Bundle := { s.bundleAt p.no with cg := g, c := op }
/-- The same for the move, vector and array slots. -/
def State.withMove (s : State) (p : PCore) (g : Guard) (op : MoveOp) : Bundle := { s.bundleAt p.no with mg := g, m := op }
def State.withVec (s : State) (p : PCore) (g : Guard) (op : VecOp) : Bundle := { s.bundleAt p.no with vg := g, v := op }
def State.withArr (s : State) (p : PCore) (g : Guard) (op : ArrOp) : Bundle := { s.bundleAt p.no with ag := g, a := op }

/-- The slot's guard is true and its bundle issues. -/
def State.CtlIssues (s : State) (p : PCore) (g : Guard) (op : CtlOp) : Prop :=
  (s.core p.no).guard g = true ∧ s.Issues p.no (s.withCtl p g op)
def State.MoveIssues (s : State) (p : PCore) (g : Guard) (op : MoveOp) : Prop :=
  (s.core p.no).guard g = true ∧ s.Issues p.no (s.withMove p g op)
def State.VecIssues (s : State) (p : PCore) (g : Guard) (op : VecOp) : Prop :=
  (s.core p.no).guard g = true ∧ s.Issues p.no (s.withVec p g op)
def State.ArrIssues (s : State) (p : PCore) (g : Guard) (op : ArrOp) : Prop :=
  (s.core p.no).guard g = true ∧ s.Issues p.no (s.withArr p g op)

/-- The other slots of the bundle at a core's pc hold NOPs. -/
def State.Alone (s : State) (p : PCore) : Prop := s.bundleAt p.no = {}

/-- The operation a control-slot command issues; none for the other commands. -/
def ctlRow : Instr → Option (PCore × Guard × CtlOp)
  | .nop p .control g => some (p, g, .nop)
  | .add p g d a b => some (p, g, .alu .add d a b)
  | .sub p g d a b => some (p, g, .alu .sub d a b)
  | .and p g d a b => some (p, g, .alu .and d a b)
  | .or p g d a b => some (p, g, .alu .or d a b)
  | .xor p g d a b => some (p, g, .alu .xor d a b)
  | .shl p g d a b => some (p, g, .alu .shl d a b)
  | .shr p g d a b => some (p, g, .alu .shr d a b)
  | .mul p g d a b => some (p, g, .alu .mul d a b)
  | .addi p g d a imm => some (p, g, .addi d a imm)
  | .li p g d imm => some (p, g, .li d imm)
  | .lui p g d imm => some (p, g, .lui d imm)
  | .setp p g cond pd a b => some (p, g, .setp cond pd a b)
  | .plog p g op pd pa pb => some (p, g, .plog op pd pa pb)
  | .br p g target => some (p, g, .br target)
  | .loop p g ln src count last => some (p, g, .loop ln src count last)
  | .ldw p g d a imm => some (p, g, .ldw d a imm)
  | .stw p g src a imm => some (p, g, .stw src a imm)
  | .dwr p g table index word src => some (p, g, .dwr table index word src)
  | .movvs p g d va lane => some (p, g, .movvs d va lane)
  | .movls p g d ln => some (p, g, .movls d ln)
  | .bpost p g sys id => some (p, g, .bpost sys id)
  | .bwait p g sys id => some (p, g, .bwait sys id)
  | .bsync p g sys id => some (p, g, .bsync sys id)
  | .waits p g mask => some (p, g, .waits mask)
  | .waita p g => some (p, g, .waita)
  | .endc p g => some (p, g, .halt)
  | _ => none

/-- The operation a move-slot command issues. -/
def moveRow : Instr → Option (PCore × Guard × MoveOp)
  | .nop p .move g => some (p, g, .nop)
  | .strm p g d ch sa sb => some (p, g, .strm d ch sa sb)
  | .vld p g vd sa imm => some (p, g, .vld vd sa imm)
  | .vst p g vs sa imm => some (p, g, .vst vs sa imm)
  | _ => none

/-- The operation a vector-slot command issues. -/
def vecRow : Instr → Option (PCore × Guard × VecOp)
  | .nop p .vector g => some (p, g, .nop)
  | .vadd p g vd va vb t => some (p, g, .bin .add vd va vb t)
  | .vsub p g vd va vb t => some (p, g, .bin .sub vd va vb t)
  | .vmul p g vd va vb t => some (p, g, .bin .mul vd va vb t)
  | .vfma p g vd va vb vc t => some (p, g, .fma vd va vb vc t)
  | .vmax p g vd va vb t => some (p, g, .bin .max vd va vb t)
  | .vmin p g vd va vb t => some (p, g, .bin .min vd va vb t)
  | .vabs p g vd va t => some (p, g, .un .abs vd va t)
  | .vneg p g vd va t => some (p, g, .un .neg vd va t)
  | .vbcast p g vd a t => some (p, g, .bcast vd a t)
  | .vcvt p g vd va dst t => some (p, g, .cvt vd va dst t)
  | .vexp p g vd va t => some (p, g, .un .exp vd va t)
  | .vlog p g vd va t => some (p, g, .un .log vd va t)
  | .vrsqrt p g vd va t => some (p, g, .un .rsqrt vd va t)
  | .vtanh p g vd va t => some (p, g, .un .tanh vd va t)
  | .vrsum p g vd va t => some (p, g, .un .rsum vd va t)
  | .vrmax p g vd va t => some (p, g, .un .rmax vd va t)
  | .vcmp p g vd va vb cond t => some (p, g, .cmp vd va vb cond t)
  | .vsel p g vd va vb vc => some (p, g, .sel vd va vb vc)
  | .vany p g pd va => some (p, g, .any pd va)
  | _ => none

/-- The operation an array-slot command issues. -/
def arrRow : Instr → Option (PCore × Guard × ArrOp)
  | .nop p .array g => some (p, g, .nop)
  | .arun p g d sa sb sc => some (p, g, .arun d sa sb sc)
  | _ => none

/-- The core and the bundle that a core-slot command issues: the bundle at the core's pc with its own slot in place. -/
def bundleRow (s : State) (i : Instr) : Option (PCore × Bundle) :=
  (((ctlRow i).map (fun x => (x.1, s.withCtl x.1 x.2.1 x.2.2))).or
    ((moveRow i).map (fun x => (x.1, s.withMove x.1 x.2.1 x.2.2)))).or
    (((vecRow i).map (fun x => (x.1, s.withVec x.1 x.2.1 x.2.2))).or
    ((arrRow i).map (fun x => (x.1, s.withArr x.1 x.2.1 x.2.2))))

/-- Whether a bundle posts to a barrier or ends its core: the two effects that reach beyond the core's own state and its
near SRAM. -/
def Bundle.reaches (b : Bundle) : Bool :=
  match b.c with
  | .bpost _ _ => true
  | .bsync _ _ => true
  | .halt => true
  | _ => false

/-- Register fields that a bundle writes as it issues, all of its own core: the pc, the two counters and the two stall
bits (R116). -/
def issueFields : List Field :=
  [.CORE_STALLS_COUNT, .CORE_STATUS_STALLED, .CORE_STATUS_IN_BWAIT, .CORE_ISSUED_COUNT, .CORE_PC_PC]

/-- The scalar register a control slot writes, the predicate a bundle's slot writes, and the bytes a slot stores: first
address and number. -/
def CtlOp.scalarDest : CtlOp → Option SReg
  | .alu _ d _ _ => some d
  | .addi d _ _ => some d
  | .li d _ => some d
  | .lui d _ => some d
  | .ldw d _ _ => some d
  | .movvs d _ _ => some d
  | .movls d _ => some d
  | _ => none
def CtlOp.predDest : CtlOp → Option PReg
  | .setp _ pd _ _ => some pd
  | .plog _ pd _ _ => some pd
  | _ => none
def VecOp.predDest : VecOp → Option PReg
  | .any pd _ => some pd
  | _ => none
def MoveOp.vecDest : MoveOp → Option VReg
  | .vld vd _ _ => some vd
  | _ => none
def CtlOp.stores (op : CtlOp) (p : Nat) (c : CoreState) (x : Nat) : Prop :=
  match op with
  | .stw _ a imm => nearAddr p (ctlAddr c a imm) ≤ x ∧ x < nearAddr p (ctlAddr c a imm) + 4
  | _ => False
def MoveOp.stores (op : MoveOp) (p : Nat) (c : CoreState) (x : Nat) : Prop :=
  match op with
  | .vst _ a imm => nearAddr p (moveAddr c a imm) ≤ x ∧ x < nearAddr p (moveAddr c a imm) + 512
  | _ => False

/-! ### The log and the host -/

/-- The newest entry of the event log has these codes and values (R511). -/
def State.Newest (s : State) (code cls loc detail value : Nat) : Prop :=
  ∃ e rest, s.log = e :: rest ∧ e.code = BitVec.ofNat 16 code ∧ e.cls = BitVec.ofNat 8 cls ∧
    e.location = BitVec.ofNat 16 loc ∧ e.detail = BitVec.ofNat 16 detail ∧ e.value = BitVec.ofNat 32 value

/-- The log has been flushed on the way from s to t: flash holds t's log, or, where the flush did not complete, which is a
free value (log entry 75), what it held before (R511). -/
def State.Flushed (s t : State) : Prop :=
  (t.flash.flushFailed = false ∧ t.flash.log = t.log) ∨ (t.flash.flushFailed = true ∧ t.flash.log = s.flash.log)

/-- The interrupt source is set (R412). -/
def State.Irq (s : State) (src : Nat) : Prop := (s.word .HOST_IRQ_STATUS_SRC).getLsbD src = true

/-- Only the registers, the log and what interrupts send differ: memory, cores, routers and everything else stay. -/
def State.OnlyRegs (s t : State) : Prop :=
  t = { s with regs := t.regs, log := t.log, nextSeq := t.nextSeq, sinceRead := t.sinceRead, msix := t.msix,
               msixPending := t.msixPending }

/-- From s to t the bytes of a copy have been set out over ports in turn, 128 B at a time, behind what waited there. -/
def State.Sends (s t : State) (ports : List Nat) (drains : Bool) (bs : List Byte) : Prop :=
  ∀ j n, ports[j]? = some n → ∃ cs, (t.port n).copies = (s.port n).copies ++ cs ∧ (∀ c ∈ cs, c.1 = drains) ∧
    cs.flatMap (fun c => c.2.data) =
      ((List.range bs.length).filter (fun i => i / 128 % ports.length = j)).map (fun i => bs.getD i 0)

/-- No word or line anywhere is in error, and no stack is lost. -/
def State.NoErrors (s : State) : Prop := s.bad = [] ∧ s.lostStacks = 0

/-- A write to BAR0 is done as it arrives: the host link is up and no posted write waits (R401). -/
def State.HostReady (s : State) : Prop := s.hostUp = true ∧ s.stalledQ.any Stalled.posted = false

/-- A write of v at an offset is governed by nothing but the access codes of the fields there (R9): none of the rules that
bar or widen a write at its offset applies. -/
structure State.PlainWrite (s : State) (off v : Nat) : Prop where
  /-- GO and the ring registers (R402 to R406), and the rows that are written as actions. -/
  offset : off ∉ [0x40, 0x400218, 0x700150, 0x800010, 0x800020, 0xA00044, 0xA00050, 0xA00054, 0xA00058, 0xA0005C, 0xB00000,
    0xB00008, 0xB00118]
  ring : ∀ r : Fin 4, ∀ w, off = 0x100 + 0x40 * r.val + w → w < 0x40 →
    w ∉ [0x08, 0x0C, 0x20] ∧ (w ∈ [0x00, 0x04, 0x14, 0x18] → s.get .HOST_RING_CFG_EN r = 0)
  message : off < 0x100000 ∨ 0x200000 ≤ off
  arrays : (∀ r : Fin 8, off ≠ 0x800210 + 0x20 * r.val) ∧ ∀ n : Fin 160, off ≠ 0x90101C + 0x20 * n.val
  mail : off < 0x40 → s.get .HOST_MBX_CTRL_BUSY = 0
  locked : off = 0x400200 → s.shadowBank.lockPolicy = false
  value : off = 0x600010 ∨ off = 0xA00024 → v % 2 ^ 16 ≠ 0
  sustain : off = 0xA00040 → v / 2 ^ 9 % 2 ^ 8 ≠ 0
  idle : off = 0x700000 → s.job = false
  noStep : off = 0xB00108 ∨ off = 0xB0010C → s.get .RES_STEP_STATE_PHASE = 0
  /-- The debug windows (R117, R156 to R158, R479). -/
  debug : ∀ r, debugRegion off = some r →
    let w := (off - 0x1000000) % 0x8000
    (w < 0x4400 → w % 0x100 = 0x10 → s.get .CORE_STATUS_STATE (slotCore r (w / 0x100)) ≠ 1) ∧
    (w = 0x4800 ∨ w = 0x4804 → s.coreRuns r = false) ∧ (w = 0x4804 → v / 2 ^ 7 % 2 = 0) ∧ w ≠ 0x4808 ∧
    (0x4880 ≤ w → w < 0x4900 → s.feature 2 = true)

/-! ### Eloap commands -/

/-- What a command of Eloap carries; none for the other rows. -/
def commandOf : Instr → Option Ctx
  | .loadImage c _ => some c
  | .txnBegin c _ _ => some c
  | .txnWrite c _ _ => some c
  | .txnCommit c _ _ => some c
  | .txnRollback c _ => some c
  | .run c => some c
  | .halt c => some c
  | .secureNow c => some c
  | .pair c _ => some c
  | .ladder c _ _ _ => some c
  | .maintStart c _ _ => some c
  | .stateQuery c => some c
  | .logRead c _ _ _ _ => some c
  | _ => none

/-- A command gets as far as its own effect: it is its turn (R410), the module is READY (R469), and an administrative one
out of band is admitted (R465). -/
structure State.Admits (s : State) (c : Ctx) (i : Instr) : Prop where
  turn : s.turn c i = true
  ready : s.get .RES_START_STATE_READY ≠ 0 ∨ i.opcode = 0x60 ∨ i.opcode = 0x61
  allowed : c.src.oob = true → adminOpcode i.opcode = true → s.policyBit 0 = true

/-- The command has an effect that leaves m, and completes from there with these values. -/
def State.Answers (s : State) (i : Instr) (c : Ctx) (status detail r0 r1 : Nat) (m : State) : Prop :=
  exec i s = .next (m.complete c i.opcode status detail r0 r1)

/-- The mailbox holds a completion (R406, R408). -/
def State.MailDone (t : State) (bytes : List Byte) : Prop :=
  (∀ w, w < 8 → t.get .HOST_MBX_CPL_WORD w = leNat ((bytes.drop (4 * w)).take 4)) ∧
    t.get .HOST_MBX_CTRL_BUSY = 0 ∧ t.get .HOST_MBX_CTRL_DONE = 1 ∧ t.Irq 0

/-- Nothing waits at a source but perhaps the command itself. -/
def State.OnlyCommand (s : State) (c : Ctx) (op : Nat) : Prop :=
  s.accepted = [] ∨ ∃ d, s.accepted = [(c, d)] ∧ dfield d 0 2 = op

end Sys2Proof.Machine
end

