-- ==== Sys2Proof/Certificates/Slice0/Obligations.lean ====
section
/-!
DEFINITION. The statements about the model, for the provers: each docstring says which rules of spec/ it rests on.
-/
open Sys2Proof Sys2Proof.Machine

/-! ### The queue, time, reset -/

/-- One step runs the command at the front of the queue on the state with the queue's rest. -/
def Obligations.StepRunsFront : Prop :=
  ∀ (s : State) (c : Instr), step { s with pending := c :: s.pending } = exec c s

/-- A step on an empty queue is one fast-clock period (the model's choice, log entries 2 and 139): the count of periods rises
by one; each of the 400 regions takes its level of skipping as its counter wraps at 16, and one whose clock runs counts the
period as skipped where the counter, its four bits reversed, is below the level (R434); of the events on their way to the
always-on domain one at most arrives; nothing else changes. -/
def Obligations.EmptyQueueIdles : Prop :=
  ∀ s : State, s.pending = [] →
    ∃ t, step s = .next t ∧ t = { s with fc := s.fc + 1, regions := t.regions } ∧
      (∀ r, 400 ≤ r → t.region r = s.region r) ∧
      ∀ r, r < 400 →
        let g := s.region r
        let u := t.region r
        let i := s.fc % 16
        let level := if i = 0 then s.skipLevel r else g.skip
        let hit := s.on .PWR_REGION_CLK r = true ∧ i % 2 * 8 + i / 2 % 2 * 4 + i / 4 % 2 * 2 + i / 8 < level
        u = { g with skip := level, skipped := if hit then g.skipped + 1 else g.skipped, crossing := u.crossing,
                     crossFc := u.crossFc } ∧
          (u.crossing = g.crossing ∨ u.crossing + 1 = g.crossing)

/-- Reset: every register field reads its Reset entry (R12), and no memory byte, command or event is there. The model's
choices it rests on: log entries 3, 5 and 122. -/
def Obligations.ResetEntries : Prop :=
  (∀ (f : Field) (i : Nat), State.reset.word f i = f.resetWord) ∧
    (∀ a, memByte State.reset.mem a = 0) ∧ State.reset.pending = [] ∧ State.reset.log = [] ∧
    State.reset.image = none ∧ State.reset.job = false

/-- The invariant holds at reset: memory canonical, no bit beyond a field's width. -/
def Obligations.ResetMeetsInvariant : Prop :=
 State.reset.Inv

/-- Every step keeps the invariant: memory stays in its canonical form, and reserved register bits stay zero (R11). -/
def Obligations.StepKeepsInvariant : Prop :=
  ∀ s t : State, s.Inv → step s = .next t → t.Inv

/-- No step unblows a fuse: every count, lifecycle and lock only rises, the factory fields stay (R453, R458). -/
def Obligations.StepRaisesFusesOnly : Prop :=
  ∀ s t : State, step s = .next t → s.fuses.Le t.fuses

/-- Every command answers a next state, with no fault and no refusal, and reaches into neither the queue nor the clock:
`exec` leaves the waiting commands and the fast-clock count. -/
def Obligations.CommandsLeaveQueueAndClock : Prop :=
  ∀ (c : Instr) (s : State), ∃ t, exec c s = .next t ∧ t.pending = s.pending ∧ t.fc = s.fc

/-! ### Core slots: frame -/

/-- A bundle that issues changes its own core's registers and near SRAM only where a slot's operation says so: the scalar,
predicate and vector destinations, the bytes stored, the pc, the counters and the stall bits. -/
def Obligations.SlotFrame : Prop :=
  ∀ (i : Instr) (s : State) (p : PCore) (b : Bundle),
    bundleRow s i = some (p, b) → s.Issues p.no b → (b.acting (s.core p.no)).reaches = false →
    ∃ t, exec i s = .next t ∧
      (let a := b.acting (s.core p.no)
       let c := s.core p.no
       let c' := t.core p.no
       t = { s with regs := t.regs, cores := t.cores, mem := t.mem, free := t.free } ∧
       (∀ q, q ≠ p.no → t.core q = s.core q) ∧
       (∀ f i, i ≠ p.no ∨ f ∉ issueFields → t.word f i = s.word f i) ∧
       (∀ r, a.c.scalarDest ≠ some r → c'.sreg r = c.sreg r) ∧
       (∀ r, a.c.predDest ≠ some r → a.v.predDest ≠ some r → c'.preg r = c.preg r) ∧
       (∀ r, a.m.vecDest ≠ some r → a.v.dest ≠ some r → c'.vreg r = c.vreg r) ∧
       ((∀ x y z w, a.c ≠ .dwr x y z w) → c'.adesc = c.adesc ∧ c'.sdesc = c.sdesc) ∧
       ((∀ w x y z, a.m ≠ .strm w x y z) → c'.chans = c.chans) ∧
       ((∀ v w x y, a.a ≠ .arun v w x y) → a.c ≠ .waita → c'.arr = c.arr) ∧
       c'.istore = c.istore ∧ c'.posts = c.posts ∧ c'.releases = c.releases ∧ c'.remotes = c.remotes ∧
       (∀ x, ¬ a.c.stores p.no c x → ¬ a.m.stores p.no c x → memByte t.mem x = memByte s.mem x))

/-! ### Control slot -/

/-- The destination of a control-slot operation takes a value, s0 discards it, and no other scalar register changes. SETP
and PLOG write their predicate from the condition and the operation the code names; p0 discards it. LDW reads the
little-endian word of the core's own near SRAM, memory being in its canonical form (an invariant: `StepKeepsInvariant`);
MOVVS reads a lane, MOVLS a loop counter. -/
def Obligations.ScalarResults : Prop :=
  (∀ (s : State) (p : PCore) (g : Guard) (d a b : SReg),
    let c := s.core p.no
    let gives (i : Instr) (op : CtlOp) (v : Word) : Prop :=
      s.CtlIssues p g op → ∃ t, exec i s = .next t ∧ (t.core p.no).sreg d = (if d = 0 then 0 else v) ∧
        ∀ r, r ≠ d → (t.core p.no).sreg r = c.sreg r
    gives (.add p g d a b) (.alu .add d a b) (c.sreg a + c.sreg b) ∧
    gives (.sub p g d a b) (.alu .sub d a b) (c.sreg a - c.sreg b) ∧
    gives (.and p g d a b) (.alu .and d a b) (c.sreg a &&& c.sreg b) ∧
    gives (.or p g d a b) (.alu .or d a b) (c.sreg a ||| c.sreg b) ∧
    gives (.xor p g d a b) (.alu .xor d a b) (c.sreg a ^^^ c.sreg b) ∧
    gives (.shl p g d a b) (.alu .shl d a b) (c.sreg a <<< ((c.sreg b).toNat % 32)) ∧
    gives (.shr p g d a b) (.alu .shr d a b) (c.sreg a >>> ((c.sreg b).toNat % 32)) ∧
    gives (.mul p g d a b) (.alu .mul d a b) (BitVec.ofNat 32 ((c.sreg a).toNat * (c.sreg b).toNat)) ∧
    (∀ imm : BitVec 12, gives (.addi p g d a imm) (.addi d a imm) (c.sreg a + BitVec.ofInt 32 imm.toInt)) ∧
    (∀ imm : BitVec 16, gives (.li p g d imm) (.li d imm) (BitVec.ofInt 32 imm.toInt)) ∧
    (∀ imm : BitVec 16, gives (.lui p g d imm) (.lui d imm)
      (BitVec.ofNat 32 (imm.toNat * 65536 + (c.sreg d).toNat % 65536)))) ∧
  (∀ (s : State) (p : PCore) (g : Guard) (pd : PReg),
    let c := s.core p.no
    let gives (i : Instr) (op : CtlOp) (v : Bool) : Prop :=
      s.CtlIssues p g op → (∀ va, ((s.withCtl p g op).acting c).v ≠ .any pd va) →
      ∃ t, exec i s = .next t ∧ (t.core p.no).preg pd = (if pd = 0 then true else v)
    (∀ a b : SReg, gives (.setp p g 0 pd a b) (.setp 0 pd a b) (c.sreg a == c.sreg b) ∧
      gives (.setp p g 1 pd a b) (.setp 1 pd a b) (c.sreg a != c.sreg b) ∧
      gives (.setp p g 2 pd a b) (.setp 2 pd a b) (decide ((c.sreg a).toInt < (c.sreg b).toInt)) ∧
      gives (.setp p g 3 pd a b) (.setp 3 pd a b) (decide ((c.sreg a).toNat < (c.sreg b).toNat))) ∧
    (∀ a b : PReg, gives (.plog p g 0 pd a b) (.plog 0 pd a b) (c.preg a && c.preg b) ∧
      gives (.plog p g 1 pd a b) (.plog 1 pd a b) (c.preg a || c.preg b) ∧
      gives (.plog p g 2 pd a b) (.plog 2 pd a b) (c.preg a ^^ c.preg b) ∧
      gives (.plog p g 3 pd a b) (.plog 3 pd a b) (c.preg a && !c.preg b))) ∧
  (∀ (s : State) (p : PCore) (g : Guard) (d : SReg),
    let c := s.core p.no
    let gives (i : Instr) (op : CtlOp) (v : Word) : Prop :=
      s.CtlIssues p g op → ∃ t, exec i s = .next t ∧ (t.core p.no).sreg d = (if d = 0 then 0 else v)
    (∀ (a : SReg) (imm : BitVec 12),
      let x := nearAddr p.no (c.sreg a + BitVec.ofInt 32 (imm.toInt * 4)).toNat
      Memory.wf s.mem = true → gives (.ldw p g d a imm) (.ldw d a imm)
        (memByte s.mem (x + 3) ++ memByte s.mem (x + 2) ++ memByte s.mem (x + 1) ++ memByte s.mem x)) ∧
    (∀ (va : VReg) (lane : BitVec 7), gives (.movvs p g d va lane) (.movvs d va lane)
      ((c.vreg va).getD lane.toNat 0)) ∧
    (∀ ln : BitVec 2, gives (.movls p g d ln) (.movls d ln) (c.loopCtr ln.toNat).count))

/-- STW stores the word, VST the 128 lanes, lane i at bytes 4i to 4i + 3; VLD reads them back so. Other slots of the bundle
hold NOPs here; what a bundle with several slots leaves alone is `SlotFrame`. LDW and STW at an address that is not a
multiple of 4 or not below 0x10_0000, VLD and VST at one that is not a multiple of 512 or not below it, STW and VST whose
bytes touch the numerics page of an image with a step plan (R327): the core traps with cause 0x08 at its pc, its registers
stay, and where no commit waits for the stop of the job, memory stays. Memory is in its canonical form where VLD reads it
(an invariant: `StepKeepsInvariant`). -/
def Obligations.NearSramAccesses : Prop :=
  (∀ (s : State) (p : PCore) (g : Guard) (a : SReg), s.Alone p →
    let c := s.core p.no
    (∀ (src : SReg) (imm : BitVec 12), s.CtlIssues p g (.stw src a imm) →
      let x := nearAddr p.no (ctlAddr c a imm)
      ∃ t, exec (.stw p g src a imm) s = .next t ∧
        ∀ y, memByte t.mem y = if x ≤ y ∧ y < x + 4 then (c.sreg src).extractLsb' ((y - x) * 8) 8 else memByte s.mem y) ∧
    (∀ (vs : VReg) (imm : BitVec 11), s.MoveIssues p g (.vst vs a imm) →
      let x := nearAddr p.no (moveAddr c a imm)
      ∃ t, exec (.vst p g vs a imm) s = .next t ∧
        ∀ y, memByte t.mem y = if x ≤ y ∧ y < x + 512
          then ((c.vreg vs).getD ((y - x) / 4) 0).extractLsb' ((y - x) % 4 * 8) 8 else memByte s.mem y) ∧
    (∀ (vd : VReg) (imm : BitVec 11), Memory.wf s.mem = true → s.MoveIssues p g (.vld vd a imm) →
      let x := nearAddr p.no (moveAddr c a imm)
      ∃ t, exec (.vld p g vd a imm) s = .next t ∧
        (∀ i, i < 128 → ((t.core p.no).vreg vd).getD i 0 =
          memByte s.mem (x + 4 * i + 3) ++ memByte s.mem (x + 4 * i + 2) ++ memByte s.mem (x + 4 * i + 1) ++
            memByte s.mem (x + 4 * i)) ∧
        (∀ y, memByte t.mem y = memByte s.mem y) ∧ ∀ r, r ≠ vd → (t.core p.no).vreg r = c.vreg r)) ∧
  (∀ (s : State) (p : PCore) (g : Guard) (a : SReg), s.Alone p → s.get .CORE_STATUS_STATE p.no = 1 →
    (s.core p.no).guard g = true →
    let c := s.core p.no
    let traps (i : Instr) (slot : Nat) : Prop :=
      ∃ t, exec i s = .next t ∧ t.get .CORE_TRAP_CAUSE p.no = 8 ∧ t.get .CORE_TRAP_SLOT p.no = slot ∧
        t.get .CORE_TRAP_PC_PC p.no = (s.pc p.no).toNat ∧ t.get .CORE_STATUS_STATE p.no = 3 ∧
        (t.core p.no).sregs = c.sregs ∧ (t.core p.no).vregs = c.vregs ∧
        ((∀ sc : Fin 4, s.get .TXN_STATE_STATE sc < 2) → ∀ y, memByte t.mem y = memByte s.mem y)
    (∀ imm : BitVec 12, ctlAddr c a imm % 4 ≠ 0 ∨ 0x100000 ≤ ctlAddr c a imm →
      (∀ d, traps (.ldw p g d a imm) 0) ∧ ∀ src, traps (.stw p g src a imm) 0) ∧
    (∀ imm : BitVec 11, moveAddr c a imm % 512 ≠ 0 ∨ 0x100000 ≤ moveAddr c a imm →
      (∀ vd, traps (.vld p g vd a imm) 1) ∧ ∀ vs, traps (.vst p g vs a imm) 1) ∧
    let touches (x n : Nat) : Prop :=
      s.hasPlan = true ∧ x < s.get .NUM_PAGE_ADDR + 64 ∧ s.get .NUM_PAGE_ADDR < x + n
    (∀ imm : BitVec 12, touches (ctlAddr c a imm) 4 → ∀ src, traps (.stw p g src a imm) 0) ∧
    (∀ imm : BitVec 11, touches (moveAddr c a imm) 512 → ∀ vs, traps (.vst p g vs a imm) 1))

/-- The next address: after a NOP or a false-guarded slot the following bundle, after BR its target, after a LOOP the body
or, with a count of zero or a false guard, the bundle after its end; what BR and LOOP do to the loop counters. After the
bundle at the end address of an active loop, the innermost of those that end there (R85): with more than one iteration left
the loop goes back to the bundle after its LOOP; with one left it ends, and an outer loop that shares the end decrements next
(R86). -/
def Obligations.BranchAndLoop : Prop :=
  (∀ (s : State) (p : PCore) (g : Guard),
    let c := s.core p.no
    (∀ slot b, s.Alone p → c.active = [] → bundleRow s (.nop p slot g) = some (p, b) → s.Issues p.no b →
      ∃ t, exec (.nop p slot g) s = .next t ∧ t.get .CORE_PC_PC p.no = (s.pc p.no).toNat + 1) ∧
    (∀ target : BitVec 12, s.CtlIssues p g (.br target) →
      ∃ t, exec (.br p g target) s = .next t ∧ t.get .CORE_PC_PC p.no = target.toNat ∧
        (t.core p.no).loops = c.loops ∧
        ∃ ended, c.active = ended ++ (t.core p.no).active ∧
          (∀ l ∈ (t.core p.no).active, c.inBody l target.toNat = true) ∧
          ∀ l, ended.getLast? = some l → c.inBody l target.toNat = false) ∧
    (∀ (ln : BitVec 2) (src : Bool) (count : BitVec 7) (last : BitVec 12),
      s.Issues p.no (s.withCtl p g (.loop ln src count last)) →
      let n : Nat := if c.guard g then
        (if src then (c.sreg (count.extractLsb' 0 5)).toNat else count.toNat) else 0
      ∃ t, exec (.loop p g ln src count last) s = .next t ∧
        (n = 0 → t.get .CORE_PC_PC p.no = last.toNat + 1 ∧ (t.core p.no).active = c.active ∧
          (t.core p.no).loops = c.loops) ∧
        (n ≠ 0 → t.get .CORE_PC_PC p.no = (s.pc p.no).toNat + 1 ∧ (t.core p.no).active = ln.toNat :: c.active ∧
          (t.core p.no).loopCtr ln.toNat = ⟨BitVec.ofNat 32 n, s.pc p.no, last⟩ ∧
          ∀ l, l ≠ ln.toNat → (t.core p.no).loopCtr l = c.loopCtr l))) ∧
  (∀ (s : State) (p : PCore) (g : Guard) (l : Nat) (inner rest : List Nat),
    let c := s.core p.no
    let k := (c.loopCtr l).count.toNat
    let endsHere (m : Nat) : Prop := (c.loopCtr m).last = s.pc p.no
    s.Alone p → s.Issues p.no (s.withCtl p g .nop) → c.active = inner ++ l :: rest → (∀ m ∈ inner, ¬ endsHere m) →
    l ∉ rest → endsHere l →
    ∃ t, exec (.nop p .control g) s = .next t ∧
      (1 < k → t.get .CORE_PC_PC p.no = (c.loopCtr l).start.toNat + 1 ∧ (t.core p.no).active = c.active ∧
        ((t.core p.no).loopCtr l).count.toNat = k - 1) ∧
      (k = 1 → ((t.core p.no).loopCtr l).count = 0 ∧
        ((∀ m ∈ rest, ¬ endsHere m) →
          t.get .CORE_PC_PC p.no = (s.pc p.no).toNat + 1 ∧ (t.core p.no).active = inner ++ rest) ∧
        ∀ between m outer, rest = between ++ m :: outer → (∀ x ∈ between, ¬ endsHere x) → endsHere m →
          1 < (c.loopCtr m).count.toNat →
          t.get .CORE_PC_PC p.no = (c.loopCtr m).start.toNat + 1 ∧ (t.core p.no).active = inner ++ rest ∧
          ((t.core p.no).loopCtr m).count.toNat = (c.loopCtr m).count.toNat - 1))

/-- DWR replaces one 32-bit word of one entry of the array (TABLE 0) or stream (TABLE 1) descriptor table, any entry of the
stream table and entries 0 to 63 of the array table; above them it traps with cause 0x02. Descriptors already queued stay:
STRM queues a copy of its descriptor (and of the next entry where EXT is 1) with the two scalars; ARUN queues a copy of its
descriptor with the three scalars added to its bases. -/
def Obligations.DescriptorTables : Prop :=
  (∀ (s : State) (p : PCore) (g : Guard) (table : Bool) (index : BitVec 8) (w : BitVec 3) (src : SReg),
    s.CtlIssues p g (.dwr table index w src) →
    let c := s.core p.no
    let wrote (old new : SMap (BitVec 256)) : Prop :=
      (∀ k, k ≠ index.toNat → mget 0 new k = mget 0 old k) ∧
      ∀ v, v < 8 → (mget 0 new index.toNat).extractLsb' (32 * v) 32 =
        if v = w.toNat then c.sreg src else (mget 0 old index.toNat).extractLsb' (32 * v) 32
    ∃ t, exec (.dwr p g table index w src) s = .next t ∧
      (if table then wrote c.sdesc (t.core p.no).sdesc ∧ (t.core p.no).adesc = c.adesc
       else wrote c.adesc (t.core p.no).adesc ∧ (t.core p.no).sdesc = c.sdesc) ∧
      (s.Alone p → (t.core p.no).chans = c.chans ∧ (t.core p.no).arr.queue = c.arr.queue)) ∧
  (∀ (s : State) (p : PCore) (g : Guard) (index : BitVec 8) (w : BitVec 3) (src : SReg), s.Alone p →
    s.get .CORE_STATUS_STATE p.no = 1 → 64 ≤ index.toNat →
    ∃ t, exec (.dwr p g false index w src) s = .next t ∧ t.get .CORE_TRAP_CAUSE p.no = 2 ∧
      t.get .CORE_STATUS_STATE p.no = 3 ∧ (t.core p.no).adesc = (s.core p.no).adesc ∧
      (t.core p.no).sdesc = (s.core p.no).sdesc) ∧
  (∀ (s : State) (p : PCore) (g : Guard),
    let c := s.core p.no
    (∀ (d : BitVec 8) (ch : BitVec 2) (sa sb : SReg), s.MoveIssues p g (.strm d ch sa sb) →
      ∃ t j, exec (.strm p g d ch sa sb) s = .next t ∧ (t.core p.no).chan ch.toNat = c.chan ch.toNat ++ [j] ∧
        (∀ k, k ≠ ch.toNat → (t.core p.no).chan k = c.chan k) ∧
        j.index = d ∧ j.prim = mget 0 c.sdesc d.toNat ∧
        (j.prim.getLsbD 243 = true → d ≠ 255 → j.ext = mget 0 c.sdesc (d.toNat + 1)) ∧
        j.srcAdd = c.sreg sa ∧ j.dstAdd = c.sreg sb ∧ j.pc = s.pc p.no ∧ j.started = false) ∧
    (∀ (d : BitVec 6) (sa sb sc : SReg), s.ArrIssues p g (.arun d sa sb sc) →
      ∃ t j, exec (.arun p g d sa sb sc) s = .next t ∧ (t.core p.no).arr.queue = c.arr.queue ++ [j] ∧
        j.index = d ∧ j.desc = mget 0 c.adesc d.toNat ∧
        j.stat = (j.desc.extractLsb' 0 20).toNat * 64 + (c.sreg sa).toNat ∧
        j.mov = (j.desc.extractLsb' 20 20).toNat * 64 + (c.sreg sb).toNat ∧
        j.out = (j.desc.extractLsb' 40 20).toNat * 64 + (c.sreg sc).toNat ∧ j.pc = s.pc p.no))

/-- BPOST counts a post and sends one arrival towards its router, BWAIT passes once releases have caught up with posts,
BSYNC posts once and passes when released; posts and waits that may not pass stall the bundle. WAITS passes when the
channels of its mask are empty, WAITA when the array has written everything; else, and where a STRM or ARUN finds its queue
full, the bundle stalls at its pc. The model's choices it rests on: log entry 11. -/
def Obligations.BarriersAndWaits : Prop :=
  (∀ (s : State) (p : PCore) (g : Guard) (sys : Bool) (id : BitVec 8), s.Alone p →
    (s.core p.no).active = [] →
    let c := s.core p.no
    let bar := id.toNat + if sys then 256 else 0
    let at' := s.attach p.no
    let posted (t : State) : Prop :=
      mget 0 (t.core p.no).posts bar = mget 0 c.posts bar + 1 ∧
      ∃ v, t.routers = (s.injectAt at'.1 at'.2 [⟨.sync, .unit at'.2, .arrival bar v, true, 0, 0⟩]).routers ∧
        (v = true ↔ s.reduceEnd = some bar ∧ s.get .CORE_FLAGS_OVF16 p.no ≠ 0)
    let stalled (t : State) (b : Nat) : Prop :=
      t.get .CORE_PC_PC p.no = (s.pc p.no).toNat ∧ t.get .CORE_STATUS_STALLED p.no = 1 ∧
      t.get .CORE_STATUS_IN_BWAIT p.no = b
    (s.CtlIssues p g (.bpost sys id) → ∃ t, exec (.bpost p g sys id) s = .next t ∧ posted t ∧
      t.get .CORE_PC_PC p.no = (s.pc p.no).toNat + 1) ∧
    (s.CtlIssues p g (.bwait sys id) → ∃ t, exec (.bwait p g sys id) s = .next t ∧ t.routers = s.routers ∧
      (t.core p.no).posts = c.posts ∧ t.get .CORE_PC_PC p.no = (s.pc p.no).toNat + 1) ∧
    (c.posted = true → s.CtlIssues p g (.bsync sys id) → ∃ t, exec (.bsync p g sys id) s = .next t ∧
      t.routers = s.routers ∧ (t.core p.no).posted = false ∧ t.get .CORE_PC_PC p.no = (s.pc p.no).toNat + 1) ∧
    (c.guard g = true → c.posted = false → mget 0 c.posts bar ≤ mget 0 c.releases bar →
      mget 0 c.releases bar < mget 0 c.posts bar + 1 → s.Passes p.no (s.withCtl p g (.bsync sys id)) →
      ∃ t, exec (.bsync p g sys id) s = .next t ∧ posted t ∧ (t.core p.no).posted = true ∧ stalled t 1) ∧
    (c.guard g = true → mget 0 c.releases bar < mget 0 c.posts bar →
      (s.Passes p.no (s.withCtl p g (.bpost sys id)) → ∃ t, exec (.bpost p g sys id) s = .next t ∧ stalled t 0 ∧
        t.routers = s.routers) ∧
      (s.Passes p.no (s.withCtl p g (.bwait sys id)) → ∃ t, exec (.bwait p g sys id) s = .next t ∧ stalled t 1 ∧
        t.routers = s.routers))) ∧
  (∀ (s : State) (p : PCore) (g : Guard), s.Alone p → (s.core p.no).guard g = true →
    let c := s.core p.no
    let stalls (i : Instr) : Prop := ∃ t, exec i s = .next t ∧ t.get .CORE_PC_PC p.no = (s.pc p.no).toNat ∧
      t.get .CORE_STATUS_STALLED p.no = 1 ∧ (t.core p.no).chans = c.chans ∧ (t.core p.no).arr.queue = c.arr.queue
    let passes (i : Instr) : Prop := ∃ t, exec i s = .next t ∧ t.get .CORE_STATUS_STALLED p.no = 0 ∧
      (c.active = [] → t.get .CORE_PC_PC p.no = (s.pc p.no).toNat + 1)
    (∀ mask : BitVec 4,
      (s.Issues p.no (s.withCtl p g (.waits mask)) → (∀ ch, ch < 4 → mask.getLsbD ch = true → c.chan ch = []) ∧
        passes (.waits p g mask)) ∧
      (s.Passes p.no (s.withCtl p g (.waits mask)) → (∃ ch, ch < 4 ∧ mask.getLsbD ch = true ∧ c.chan ch ≠ []) →
        stalls (.waits p g mask))) ∧
    (s.Issues p.no (s.withCtl p g .waita) → c.arr.queue = [] ∧ c.arr.inFlight = [] ∧ c.arr.bank0.phase = .free ∧
      c.arr.bank1.phase = .free ∧ passes (.waita p g)) ∧
    (s.Passes p.no (s.withCtl p g .waita) → c.arr.queue ≠ [] ∨ c.arr.inFlight ≠ [] ∨ c.arr.bank0.phase ≠ .free ∨
      c.arr.bank1.phase ≠ .free → stalls (.waita p g)) ∧
    (∀ (d : BitVec 8) (ch : BitVec 2) (sa sb : SReg), s.Passes p.no (s.withMove p g (.strm d ch sa sb)) →
      8 ≤ (c.chan ch.toNat).length → stalls (.strm p g d ch sa sb)) ∧
    (∀ (d : BitVec 6) (sa sb sc : SReg), s.Passes p.no (s.withArr p g (.arun d sa sb sc)) →
      4 ≤ c.arr.queue.length → stalls (.arun p g d sa sb sc)))

/-- END stops its core; the job stays while another used core still runs. The model's choices it rests on: log entry 21. -/
def Obligations.EndStopsCore : Prop :=
  ∀ (s : State) (p : PCore) (g : Guard), s.CtlIssues p g .halt →
    ∃ t, exec (.endc p g) s = .next t ∧ t.get .CORE_STATUS_STATE p.no = 2 ∧
      ((∃ q ∈ s.usedCores, q ≠ p.no ∧ q < 27200 ∧ s.get .CORE_STATUS_STATE q = 1) → t.job = s.job) ∧
      (s.job = true → (∀ q ∈ s.usedCores, q < 27200 ∧ (q = p.no ∨ s.get .CORE_STATUS_STATE q = 2) ∧
          (s.core q).chans = [] ∧ (s.core q).arr.queue = [] ∧ (s.core q).arr.bank0.phase = .free ∧
          (s.core q).arr.bank1.phase = .free) →
        ((s.withCtl p g .halt).acting (s.core p.no)).m = .nop → ((s.withCtl p g .halt).acting (s.core p.no)).a = .nop →
        t.job = false ∧ (t.word .HOST_IRQ_STATUS_SRC).getLsbD 5 = true)

/-- A trap of the issue: cause, slot, subcode and address are recorded, the core's STATE is 3, and none of its scalar,
predicate and vector registers, descriptors and barrier posts changes: the bundle is not executed. The model's choices it
rests on: log entry 24. -/
def Obligations.IssueTraps : Prop :=
  ∀ (s : State) (p : PCore) (g : Guard), s.Alone p → s.get .CORE_STATUS_STATE p.no = 1 →
    let c := s.core p.no
    let traps (i : Instr) (cause slot info : Nat) : Prop :=
      ∃ t, exec i s = .next t ∧ t.get .CORE_TRAP_CAUSE p.no = cause ∧ t.get .CORE_TRAP_SLOT p.no = slot ∧
        t.get .CORE_TRAP_INFO p.no = info ∧ t.get .CORE_TRAP_PC_PC p.no = (s.pc p.no).toNat ∧
        t.get .CORE_STATUS_STATE p.no = 3 ∧ (t.core p.no).sregs = c.sregs ∧ (t.core p.no).preds = c.preds ∧
        (t.core p.no).vregs = c.vregs ∧ (t.core p.no).adesc = c.adesc ∧ (t.core p.no).sdesc = c.sdesc ∧
        (t.core p.no).posts = c.posts
    -- reserved lane types and fields, whatever the guard (R72, R76, R94)
    (∀ vd va vb, traps (.vadd p g vd va vb 3) 2 2 0x01 ∧ traps (.vsub p g vd va vb 3) 2 2 0x02 ∧
      traps (.vmul p g vd va vb 3) 2 2 0x03 ∧ (∀ vc, traps (.vfma p g vd va vb vc 3) 2 2 0x04) ∧
      traps (.vmax p g vd va vb 3) 2 2 0x05 ∧ traps (.vmin p g vd va vb 3) 2 2 0x06 ∧
      traps (.vabs p g vd va 3) 2 2 0x07 ∧ traps (.vneg p g vd va 3) 2 2 0x08 ∧
      (∀ a, traps (.vbcast p g vd a 3) 2 2 0x09) ∧
      (∀ dst t, t = 3 ∨ 2 < dst.toNat → traps (.vcvt p g vd va dst t) 2 2 0x0A) ∧
      (∀ t, t = 2 ∨ t = 3 → traps (.vexp p g vd va t) 2 2 0x10 ∧ traps (.vlog p g vd va t) 2 2 0x11 ∧
        traps (.vrsqrt p g vd va t) 2 2 0x12 ∧ traps (.vtanh p g vd va t) 2 2 0x13) ∧
      traps (.vrsum p g vd va 3) 2 2 0x18 ∧ traps (.vrmax p g vd va 3) 2 2 0x19 ∧
      (∀ cond t, t = 3 ∨ 3 < cond.toNat → traps (.vcmp p g vd va vb cond t) 2 2 0x1C)) ∧
    -- the array table's index (R81)
    (∀ (index : BitVec 8) w src, 64 ≤ index.toNat → traps (.dwr p g false index w src) 2 0 0x1C) ∧
    -- a LOOP on an active counter, with an end not after it, with an end beyond an outer end (R86)
    (∀ (ln : BitVec 2) src count last, ln.toNat ∈ c.active → traps (.loop p g ln src count last) 3 0 1) ∧
    (∀ (ln : BitVec 2) src count (last : BitVec 12), ln.toNat ∉ c.active → last.toNat ≤ (s.pc p.no).toNat →
      traps (.loop p g ln src count last) 3 0 2) ∧
    (∀ (ln : BitVec 2) src count (last : BitVec 12), ln.toNat ∉ c.active → (s.pc p.no).toNat < last.toNat →
      (∃ l ∈ c.active, (c.loopCtr l).last.toNat < last.toNat) → traps (.loop p g ln src count last) 3 0 3) ∧
    -- a BR that acts at the end of an active loop (R87)
    (∀ target, c.guard g = true → (∃ l ∈ c.active, (c.loopCtr l).last = s.pc p.no) → traps (.br p g target) 3 0 4) ∧
    -- a barrier id the image does not give the core, a system id above 63, a post by a wait-only member (R88, R253)
    (∀ sys (id : BitVec 8), s.member p.no (barNo sys id) = none ∨ (sys = true ∧ 64 ≤ id.toNat) →
      traps (.bpost p g sys id) 5 0 id.toNat ∧ traps (.bwait p g sys id) 5 0 id.toNat ∧
      traps (.bsync p g sys id) 5 0 id.toNat) ∧
    (∀ sys (id : BitVec 8), s.member p.no (barNo sys id) = some true →
      traps (.bpost p g sys id) 5 0 id.toNat ∧ traps (.bsync p g sys id) 5 0 id.toNat) ∧
    -- an ARUN scalar that is not a multiple of 64 (R98)
    (∀ (d : BitVec 6) sa sb sc, c.guard g = true →
      ((c.sreg sa).toNat % 64 ≠ 0 ∨ (c.sreg sb).toNat % 64 ≠ 0 ∨ (c.sreg sc).toNat % 64 ≠ 0) →
      traps (.arun p g d sa sb sc) 7 3 (5 + 256 * d.toNat))

/-- Two executing slots of one bundle that write one predicate or vector register (scalar registers have one writing slot):
the bundle is not executed and the core traps with cause 0x01. Slots whose guards are false do not count: without such a
pair among the executing slots no check on values has cause 0x01. The model's choices it rests on: a write of p0, though
discarded, counts as a write (log entry 72); the double write comes first among the checks on values (log entry 24). -/
def Obligations.DoubleWriteTraps : Prop :=
  ∀ (i : Instr) (s : State) (p : PCore) (b : Bundle), bundleRow s i = some (p, b) →
    s.get .CORE_STATUS_STATE p.no = 1 → s.encodingTrap p.no b = none →
    let c := s.core p.no
    let a := b.acting c
    let twice := (∃ r, a.c.predDest = some r ∧ a.v.predDest = some r) ∨ ∃ r, a.m.vecDest = some r ∧ a.v.dest = some r
    (twice → ∃ t, exec i s = .next t ∧ t.get .CORE_TRAP_CAUSE p.no = 1 ∧
      t.get .CORE_TRAP_PC_PC p.no = (s.pc p.no).toNat ∧ t.get .CORE_STATUS_STATE p.no = 3 ∧ (t.core p.no).sregs = c.sregs ∧
      (t.core p.no).preds = c.preds ∧ (t.core p.no).vregs = c.vregs ∧ (t.core p.no).adesc = c.adesc ∧
      (t.core p.no).sdesc = c.sdesc ∧ (t.core p.no).posts = c.posts) ∧
    (¬ twice → ∀ x, s.valueTrap c (s.pc p.no) a = some x → x.1 ≠ 1)

/-- A bundle that takes effect with no other trap, and after which the sequencer would issue past bundle 4095 (no taken
branch, no loop-back), makes the core trap with cause 0x04: so after a bundle at 4095 with no BR, LOOP or END outside every
loop, and after a skipped LOOP whose end is 4095. -/
def Obligations.PastLastBundleTraps : Prop :=
  ∀ (i : Instr) (s : State) (p : PCore) (b : Bundle), bundleRow s i = some (p, b) → s.Passes p.no b → s.NearGood p.no →
    let c := s.core p.no
    let a := b.acting c
    (c.beforeStall a).stalls a = false → c.waits a = false → (∀ x y, a.c = .bsync x y → c.posted = true) →
    (a.v.result c.vreg c.sreg (s.on .CORE_CFG_FTZ p.no) s.free).2 = false →
    (s.pc p.no).toNat = 4095 ∧ c.active = [] ∧ (∀ x, a.c ≠ .br x) ∧ (∀ x y z w, a.c ≠ .loop x y z w) ∧ a.c ≠ .halt ∨
      (∃ ln, a.c = .loop ln false 0 4095) ∧ (∀ l ∈ c.active, (c.loopCtr l).last ≠ s.pc p.no) →
    ∃ t, exec i s = .next t ∧ t.get .CORE_TRAP_CAUSE p.no = 4 ∧ t.get .CORE_TRAP_PC_PC p.no = 4095 ∧
      t.get .CORE_STATUS_STATE p.no = 3

/-- A NaN that a vector operation generates or consumes: the core's first is recorded, and its report with the core's place,
the pc, the unit and the step sets out, in both settings of NAN_MODE; a later one does neither; with NAN_MODE 0 the core traps with cause 0x09 and the destination keeps its lanes. The model's choices it rests
on: log entry 25. -/
def Obligations.VectorNanTrap : Prop :=
  ∀ (s : State) (p : PCore) (g : Guard) (op : VecOp) (i : Instr), s.Alone p → ctlRow i = none → moveRow i = none →
    vecRow i = some (p, g, op) → (s.core p.no).guard g = true → s.Passes p.no (s.withVec p g op) →
    (s.core p.no).active = [] → (s.pc p.no).toNat < 4095 →
    (op.result (s.core p.no).vreg (s.core p.no).sreg (s.on .CORE_CFG_FTZ p.no) s.free).2 = true →
    let unit : Nat := if op.opcode < 0x10 ∨ 0x13 < op.opcode then 1 else 2
    ∃ t, exec i s = .next t ∧
      (s.get .CORE_NAN_VALID p.no = 0 →
        t.get .CORE_NAN_VALID p.no = 1 ∧ t.get .CORE_NAN_UNIT p.no = unit ∧ t.get .CORE_NAN_PC_SLOT p.no = 2 ∧
        t.get .CORE_NAN_PC_PC p.no = (s.pc p.no).toNat ∧ t.get .CORE_NAN_TAG_VALID p.no = 0) ∧
      (s.get .CORE_NAN_VALID p.no = 0 → ∃ r : NanReport, t.nans = s.nans ++ [r] ∧ r.tile = p.no / 680 ∧
        r.cluster = p.no / 17 % 40 ∧ (∀ k, s.logicalCore p.no = some k → r.core = k) ∧ r.slot = 2 ∧ r.pc = (s.pc p.no).toNat ∧
        r.unit = unit ∧ r.desc = 0 ∧ r.tagValid = false ∧ r.step = (s.core p.no).step.toNat) ∧
      (s.get .CORE_NAN_VALID p.no ≠ 0 → t.get .CORE_NAN_PC_PC p.no = s.get .CORE_NAN_PC_PC p.no ∧ t.nans = s.nans) ∧
      (s.get .NUM_CFG_NAN_MODE = 0 → t.get .CORE_TRAP_CAUSE p.no = 9 ∧ t.get .CORE_TRAP_SLOT p.no = 2 ∧
        t.get .CORE_TRAP_INFO p.no = unit ∧ t.get .CORE_STATUS_STATE p.no = 3 ∧
        (t.core p.no).vregs = (s.core p.no).vregs) ∧
      (s.get .NUM_CFG_NAN_MODE ≠ 0 → t.get .CORE_STATUS_STATE p.no = 1 ∧
        t.get .CORE_PC_PC p.no = (s.pc p.no).toNat + 1)

/-! ### Vector slot -/

/-- VADD, VSUB, VMUL, VMAX and VMIN, lane by lane: INT32 lanes wrap; FP32 lanes take the exact result rounded once, and with
FTZ subnormal inputs and results as zeros of their sign; BF16 halves are computed in FP32 and rounded to BF16. VFMA rounds a
× b + c once; VABS and VNEG change the sign alone. -/
def Obligations.VectorArithmetic : Prop :=
  (∀ (s : State) (p : PCore) (g : Guard) (vd va vb : VReg),
    let c := s.core p.no
    let ftz := s.on .CORE_CFG_FTZ p.no
    let a (k : Nat) : Word := (c.vreg va).getD k 0
    let b (k : Nat) : Word := (c.vreg vb).getD k 0
    let val (x : Word) : FVal := ofFp32 (flush32 ftz x)
    let round (v : FVal) : Word := flush32 ftz (toFp32 v)
    let lanes (i : Instr) (t : BitVec 2) (o : VBin) (r : Nat → Word) : Prop :=
      s.VecIssues p g (.bin o vd va vb t) → ∃ u, exec i s = .next u ∧
        ∀ k, k < 128 → ((u.core p.no).vreg vd).getD k 0 = r k
    let gives (i : BitVec 2 → Instr) (o : VBin) (f : FVal → FVal → FVal) (n : Word → Word → Word) : Prop :=
      lanes (i 0) 0 o (fun k => round (f (val (a k)) (val (b k)))) ∧
      lanes (i 1) 1 o (fun k =>
        toBf16 (ofFp32 (round (f (val (hiHalf (a k) ++ 0#16)) (val (hiHalf (b k) ++ 0#16))))) ++
        toBf16 (ofFp32 (round (f (val (loHalf (a k) ++ 0#16)) (val (loHalf (b k) ++ 0#16)))))) ∧
      lanes (i 2) 2 o (fun k => n (a k) (b k))
    gives (.vadd p g vd va vb) .add FVal.add (· + ·) ∧
    gives (.vsub p g vd va vb) .sub (fun x y => x.add y.neg) (· - ·) ∧
    gives (.vmul p g vd va vb) .mul FVal.mul (· * ·) ∧
    gives (.vmax p g vd va vb) .max (fun x y => if x.ltz y then y else x) (fun x y => if x.toInt < y.toInt then y else x) ∧
    gives (.vmin p g vd va vb) .min (fun x y => if y.ltz x then y else x) (fun x y => if y.toInt < x.toInt then y else x)) ∧
  (∀ (s : State) (p : PCore) (g : Guard) (vd va vb vc : VReg),
    let c := s.core p.no
    let ftz := s.on .CORE_CFG_FTZ p.no
    let l (v : VReg) (k : Nat) : Word := (c.vreg v).getD k 0
    let val (x : Word) : FVal := ofFp32 (flush32 ftz x)
    let round (v : FVal) : Word := flush32 ftz (toFp32 v)
    let lanes (i : Instr) (o : VecOp) (r : Nat → Word) : Prop :=
      s.VecIssues p g o → ∃ u, exec i s = .next u ∧ ∀ k, k < 128 → ((u.core p.no).vreg vd).getD k 0 = r k
    let bf (h : (Word → BitVec 16) → Word) : Word := toBf16 (ofFp32 (h hiHalf)) ++ toBf16 (ofFp32 (h loHalf))
    lanes (.vfma p g vd va vb vc 0) (.fma vd va vb vc 0)
      (fun k => round (((val (l va k)).mul (val (l vb k))).add (val (l vc k)))) ∧
    lanes (.vfma p g vd va vb vc 1) (.fma vd va vb vc 1)
      (fun k => bf (fun h => round (((val (h (l va k) ++ 0#16)).mul (val (h (l vb k) ++ 0#16))).add (val (h (l vc k) ++ 0#16))))) ∧
    lanes (.vfma p g vd va vb vc 2) (.fma vd va vb vc 2) (fun k => l va k * l vb k + l vc k) ∧
    lanes (.vabs p g vd va 0) (.un .abs vd va 0) (fun k => round (val (l va k)).abs) ∧
    lanes (.vneg p g vd va 0) (.un .neg vd va 0) (fun k => round (val (l va k)).neg) ∧
    lanes (.vabs p g vd va 1) (.un .abs vd va 1) (fun k => bf (fun h => round (val (h (l va k) ++ 0#16)).abs)) ∧
    lanes (.vneg p g vd va 1) (.un .neg vd va 1) (fun k => bf (fun h => round (val (h (l va k) ++ 0#16)).neg)) ∧
    lanes (.vabs p g vd va 2) (.un .abs vd va 2) (fun k => BitVec.ofNat 32 (l va k).toInt.natAbs) ∧
    lanes (.vneg p g vd va 2) (.un .neg vd va 2) (fun k => 0 - l va k))

/-- VBCAST fills every lane, VSEL chooses by the lane of vc, VANY tells whether any lane is non-zero, VCMP writes all ones
where its condition holds; with BF16 pairs each half is compared on its own. VCVT between lane types: equal types copy the
lane; FP32 and INT32 to pairs fill both halves; pairs to FP32 or INT32 take the lower half; to INT32 the value is rounded to
nearest even and saturates. -/
def Obligations.VectorSelectAndConvert : Prop :=
  (∀ (s : State) (p : PCore) (g : Guard) (vd va vb vc : VReg),
    let c := s.core p.no
    let ftz := s.on .CORE_CFG_FTZ p.no
    let l (v : VReg) (k : Nat) : Word := (c.vreg v).getD k 0
    let val (x : Word) : FVal := ofFp32 (flush32 ftz x)
    let lanes (i : Instr) (o : VecOp) (r : Nat → Word) : Prop :=
      s.VecIssues p g o → ∃ u, exec i s = .next u ∧ ∀ k, k < 128 → ((u.core p.no).vreg vd).getD k 0 = r k
    let holds (cond : Nat) (x y : FVal) : Bool :=
      if cond = 0 then x.eqv y else if cond = 1 then x.lt y else if cond = 2 then x.lt y || x.eqv y else !x.eqv y
    let ones (b : Bool) : BitVec 16 := if b then 0xFFFF else 0
    (∀ (a : SReg) t, lanes (.vbcast p g vd a t) (.bcast vd a t) (fun _ => c.sreg a)) ∧
    lanes (.vsel p g vd va vb vc) (.sel vd va vb vc) (fun k => if l vc k = 0 then l vb k else l va k) ∧
    (∀ pd : PReg, s.VecIssues p g (.any pd va) → ∃ u, exec (.vany p g pd va) s = .next u ∧
      ((u.core p.no).preg pd = true ↔ pd = 0 ∨ ∃ k, k < 128 ∧ l va k ≠ 0)) ∧
    (∀ cond : BitVec 5,
      lanes (.vcmp p g vd va vb cond 0) (.cmp vd va vb cond 0)
        (fun k => if holds cond.toNat (val (l va k)) (val (l vb k)) then 0xFFFFFFFF else 0) ∧
      lanes (.vcmp p g vd va vb cond 1) (.cmp vd va vb cond 1)
        (fun k => ones (holds cond.toNat (val (hiHalf (l va k) ++ 0#16)) (val (hiHalf (l vb k) ++ 0#16))) ++
          ones (holds cond.toNat (val (loHalf (l va k) ++ 0#16)) (val (loHalf (l vb k) ++ 0#16)))) ∧
      lanes (.vcmp p g vd va vb cond 2) (.cmp vd va vb cond 2)
        (fun k => if (if cond = 0 then decide (l va k = l vb k) else if cond = 1 then decide ((l va k).toInt < (l vb k).toInt)
          else if cond = 2 then decide ((l va k).toInt ≤ (l vb k).toInt) else decide (l va k ≠ l vb k))
          then 0xFFFFFFFF else 0))) ∧
  (∀ (s : State) (p : PCore) (g : Guard) (vd va : VReg),
    let c := s.core p.no
    let ftz := s.on .CORE_CFG_FTZ p.no
    let l (k : Nat) : Word := (c.vreg va).getD k 0
    let flush (x : Word) : Word := flush32 ftz x
    let lanes (t : BitVec 2) (dst : BitVec 4) (r : Nat → Word) : Prop :=
      s.VecIssues p g (.cvt vd va dst t) → ∃ u, exec (.vcvt p g vd va dst t) s = .next u ∧
        ∀ k, k < 128 → ((u.core p.no).vreg vd).getD k 0 = r k
    lanes 0 0 l ∧ lanes 1 1 l ∧ lanes 2 2 l ∧
    (ftz = false → lanes 0 1 (fun k => toBf16 (ofFp32 (l k)) ++ toBf16 (ofFp32 (l k)))) ∧
    (ftz = false → lanes 2 1 (fun k => toBf16 (.ofInt (l k).toInt) ++ toBf16 (.ofInt (l k).toInt))) ∧
    lanes 1 0 (fun k => flush (toFp32 (ofFp32 (flush (loHalf (l k) ++ 0#16))))) ∧
    lanes 2 0 (fun k => flush (toFp32 (.ofInt (l k).toInt))) ∧
    lanes 0 2 (fun k => BitVec.ofNat 32 (convert 7 false (ofFp32 (flush (l k)))).1) ∧
    lanes 1 2 (fun k => BitVec.ofNat 32 (convert 7 false (ofFp32 (flush (loHalf (l k) ++ 0#16)))).1))

/-- The special functions on FP32 lanes: the values of Table 6 exactly, wherever the table gives one (also +infinity for
every input of VEXP above 88.72); on every other finite input the sign of the correctly rounded result, and a magnitude
within 2 units in the last place of it. The special functions on BF16 pairs: each half, taken alone, is within 1 unit in the
last place of the correctly rounded BF16 result, with its sign, or is the special value rounded to BF16. With FTZ = 1
subnormal inputs count as zeros of their sign, and subnormal results become zeros. -/
def Obligations.SpecialFunctions : Prop :=
  (∀ (s : State) (p : PCore) (g : Guard) (vd va : VReg),
    let c := s.core p.no
    let ftz := s.on .CORE_CFG_FTZ p.no
    let a (k : Nat) : Word := (c.vreg va).getD k 0
    let val (x : Word) : FVal := ofFp32 (flush32 ftz x)
    let gives (i : Instr) (o : VUn) (f : SfuOp) (special : List (Word × Word)) : Prop :=
      s.VecIssues p g (.un o vd va 0) → ∃ u, exec i s = .next u ∧ ∀ k, k < 128 →
        let r := ((u.core p.no).vreg vd).getD k 0
        (∀ x ∈ special, a k = x.1 → r = x.2) ∧
        (∀ v, sfuSpecial f (val (a k)) = some v → r = flush32 ftz (toFp32 v)) ∧
        (sfuSpecial f (val (a k)) = none →
          let exact := toFp32 (sfuRef f (val (a k)))
          ∃ y : Word, r = flush32 ftz y ∧ y.getLsbD 31 = exact.getLsbD 31 ∧
            ((y &&& 0x7FFFFFFF).toNat : Int) - (exact &&& 0x7FFFFFFF).toNat ≤ 2 ∧
            ((exact &&& 0x7FFFFFFF).toNat : Int) - (y &&& 0x7FFFFFFF).toNat ≤ 2)
    gives (.vexp p g vd va 0) .exp .exp
      [(0, 0x3F800000), (0x80000000, 0x3F800000), (0x7F800000, 0x7F800000), (0xFF800000, 0), (0x42B20000, 0x7F800000)] ∧
    gives (.vlog p g vd va 0) .log .log [(0, 0xFF800000), (0x80000000, 0xFF800000), (0x7F800000, 0x7F800000)] ∧
    gives (.vrsqrt p g vd va 0) .rsqrt .rsqrt [(0, 0x7F800000), (0x80000000, 0xFF800000), (0x7F800000, 0)] ∧
    gives (.vtanh p g vd va 0) .tanh .tanh
      [(0, 0), (0x80000000, 0x80000000), (0x7F800000, 0x3F800000), (0xFF800000, 0xBF800000)]) ∧
  (∀ (s : State) (p : PCore) (g : Guard) (vd va : VReg),
    let a (k : Nat) : Word := ((s.core p.no).vreg va).getD k 0
    let flush (h : BitVec 16) : FVal := ofFp32 (flush32 (s.on .CORE_CFG_FTZ p.no) (h ++ 0#16))
    let near (f : SfuOp) (x r : BitVec 16) : Prop :=
      ∃ q : BitVec 16, r = toBf16 (flush q) ∧
        match sfuSpecial f (flush x) with
        | some v => q = toBf16 v
        | none =>
          let exact := toBf16 (sfuRef f (flush x))
          q.getLsbD 15 = exact.getLsbD 15 ∧
            ((q &&& 0x7FFF).toNat : Int) - (exact &&& 0x7FFF).toNat ≤ 1 ∧
            ((exact &&& 0x7FFF).toNat : Int) - (q &&& 0x7FFF).toNat ≤ 1
    let gives (i : Instr) (o : VUn) (f : SfuOp) : Prop :=
      s.VecIssues p g (.un o vd va 1) → ∃ u, exec i s = .next u ∧ ∀ k, k < 128 →
        near f (loHalf (a k)) (loHalf (((u.core p.no).vreg vd).getD k 0)) ∧
        near f (hiHalf (a k)) (hiHalf (((u.core p.no).vreg vd).getD k 0))
    gives (.vexp p g vd va 1) .exp .exp ∧ gives (.vlog p g vd va 1) .log .log ∧
      gives (.vrsqrt p g vd va 1) .rsqrt .rsqrt ∧ gives (.vtanh p g vd va 1) .tanh .tanh)

/-- VRSUM and VRMAX write one value into every lane: on INT32 the wrapping sum and the signed maximum of the 128 lanes; on
FP32 the pairwise sum and maximum in seven levels; on pairs both halves, over the 256 halves, in eight. The model's choices
it rests on: log entry 71. -/
def Obligations.VectorReductions : Prop :=
  ∀ (s : State) (p : PCore) (g : Guard) (vd va : VReg),
    let xs := (s.core p.no).vreg va
    let ftz := s.on .CORE_CFG_FTZ p.no
    let all (i : Instr) (o : VecOp) (r : Word → Prop) : Prop :=
      s.VecIssues p g o → ∃ u v, exec i s = .next u ∧ (u.core p.no).vreg vd = List.replicate 128 v ∧ r v
    let sum2 (x y : Word) : Word := flush32 ftz (toFp32 ((ofFp32 (flush32 ftz x)).add (ofFp32 (flush32 ftz y))))
    let max2 (x y : Word) : Word := flush32 ftz (toFp32 ((ofFp32 (flush32 ftz x)).max (ofFp32 (flush32 ftz y))))
    let fold (f : Word → Word → Word) (n : Nat) (ys : List Word) (r : Word) : Prop :=
      pairLevels f n (ys.map (flush32 ftz)) = [r]
    all (.vrsum p g vd va 2) (.un .rsum vd va 2) (fun v => v = xs.foldl (· + ·) 0) ∧
    all (.vrmax p g vd va 2) (.un .rmax vd va 2) (fun v => v ∈ xs ∧ ∀ x ∈ xs, x.toInt ≤ v.toInt) ∧
    all (.vrsum p g vd va 0) (.un .rsum vd va 0) (fun v => fold sum2 7 xs v) ∧
    all (.vrmax p g vd va 0) (.un .rmax vd va 0) (fun v => fold max2 7 xs v) ∧
    all (.vrsum p g vd va 1) (.un .rsum vd va 1)
      (fun v => ∃ r, fold sum2 8 (halves xs) r ∧ v = toBf16 (ofFp32 r) ++ toBf16 (ofFp32 r)) ∧
    all (.vrmax p g vd va 1) (.un .rmax vd va 1)
      (fun v => ∃ r, fold max2 8 (halves xs) r ∧ v = toBf16 (ofFp32 r) ++ toBf16 (ofFp32 r))

/-! ### Matrix array -/

/-- ARRAY_DESC_HEAD: one with M or N zero leaves the queue, writes nothing and reports zero counts; any other descriptor
that fails a check traps with cause 0x07 and its subcode, a size above 4,096 first; every other becomes the head, and a gated
array asks for its ramp where passes follow. The model's choices it rests on: log entries 77 and 144. -/
def Obligations.ArrayHeadChecked : Prop :=
  ∀ (s : State) (p : PCore) (j : ArrayJob) (rest : List ArrayJob),
    let a := s.arr p.no
    let d := ({ j with skew := s.skewed p.no } : ArrayJob).get
    a.queue = j :: rest → a.headOk = false →
    (∀ sub, d.m ≠ 0 → d.n ≠ 0 → s.arrayBad a d = some sub →
      ∃ t, exec (.arrayDescHead p) s = .next t ∧ t.get .CORE_TRAP_CAUSE p.no = 7 ∧ t.get .CORE_TRAP_SLOT p.no = 3 ∧
        t.get .CORE_TRAP_INFO p.no = sub + 256 * j.index.toNat ∧ t.get .CORE_TRAP_PC_PC p.no = j.pc.toNat ∧
        t.get .CORE_STATUS_STATE p.no = 3) ∧
    (4096 < d.m ∨ 4096 < d.n ∨ 4096 < d.k → s.arrayBad a d = some 3) ∧
    (d.m = 0 ∨ d.n = 0 → (∃ q ∈ s.usedCores, s.get .CORE_STATUS_STATE q ≠ 2) →
      ∃ t, exec (.arrayDescHead p) s = .next t ∧ (t.arr p.no).queue = rest ∧ (t.arr p.no).headOk = false ∧
        (∃ r, t.counts = s.counts ++ [r] ∧ r.tag = d.tag ∧ r.counts = (⟨0, 0, 0, 0, 0, 0, 0⟩ : Counts)) ∧ t.mem = s.mem) ∧
    (s.arrayBad a d = none → d.m ≠ 0 → d.n ≠ 0 → d.k ≠ 0 →
      ∃ t, exec (.arrayDescHead p) s = .next t ∧
        (t.arr p.no).queue = { j with skew := s.skewed p.no } :: rest ∧ (t.arr p.no).headOk = true ∧
        (t.arr p.no).rampWanted = (if a.gated then some s.fc else a.rampWanted) ∧ (t.arr p.no).inFlight = a.inFlight ∧
        t.mem = s.mem ∧ t.regs = s.regs)

/-- SHADOW_GROUP_LOAD brings the next group of the head's next pass into the shadow, each cell its own element of the
stationary operand, byte by byte of the core's local view; ARRAY_FLIP makes a complete shadow active, and a pass that begins
a bank opens it. In the first clause memory is in its canonical form (an invariant: `StepKeepsInvariant`), no word is in
error, MULTI is 0, the operand is not glazed, and with NAN_MODE 0 no element is a NaN. The model's choices it rests on: log
entries 39 and 143. -/
def Obligations.ArrayLoadAndFlip : Prop :=
  ∀ (s : State) (p : PCore) (j : ArrayJob) (rest : List ArrayJob),
    let a := s.arr p.no
    let d := j.get
    a.queue = j :: rest →
    (∀ ps, a.shadow.getD ⟨j, a.nextPass, 0, [], []⟩ = ps → a.headOk = true → a.nextPass < d.passes →
      ps.groups < d.groups (d.pos ps.pass) → Memory.wf s.mem = true → s.bad = [] → s.lostStacks = 0 → d.multi = 0 → fmtGlazed d.statFmt = false →
      d.m ≤ 4096 → d.n ≤ 4096 →
      (s.get .NUM_CFG_NAN_MODE = 0 → (s.loadOperand p.no d true (d.pos ps.pass).sub
        ((d.groupCells (d.pos ps.pass) ps.groups).map (fun x => d.statOff x.1 x.2))).2.2.1 = false) →
      ∃ t ps', exec (.shadowGroupLoad p) s = .next t ∧ (t.arr p.no).shadow = some ps' ∧ ps'.pass = ps.pass ∧
        ps'.groups = ps.groups + 1 ∧ t.mem = s.mem ∧
        ∀ x k, (x, k) ∈ d.groupCells (d.pos ps.pass) ps.groups →
          mget 0 ps'.elems (cellKey x k) = BitVec.ofNat 32 (leNat ((List.range (d.opBytes d.statFmt)).map (fun b =>
            ((localPlace p.no (d.stat + d.statOff x k + b)).phys).elim 0 (memByte s.mem))))) ∧
    (∀ ps, a.shadow = some ps → d.groups (d.pos ps.pass) ≤ ps.groups → a.gated = false →
      (∀ q ∈ a.inFlight, q.job.get.dray = d.dray) →
      ((d.pos ps.pass).ki = 0 → (d.pos ps.pass).sub = 0 → d.acc = false → a.next.phase = .free) →
      ∃ t, exec (.arrayFlip p) s = .next t ∧ (t.arr p.no).shadow = none ∧
        (t.arr p.no).inFlight = a.inFlight ++ [ps] ∧ t.mem = s.mem ∧ t.regs = s.regs ∧
        (d.acc = true → ((t.arr p.no).bank (!a.nextBank)).owner = some j ∧ (t.arr p.no).nextBank = a.nextBank) ∧
        ((d.pos ps.pass).ki = 0 → (d.pos ps.pass).sub = 0 → d.acc = false →
          ((t.arr p.no).bank a.nextBank).phase = .open ∧ ((t.arr p.no).bank a.nextBank).owner = some j ∧
          (t.arr p.no).nextBank = !a.nextBank) ∧
        (if ps.pass + 1 = d.passes then (t.arr p.no).queue = rest ∧ (t.arr p.no).nextPass = 0
         else (t.arr p.no).queue = j :: rest ∧ (t.arr p.no).nextPass = ps.pass + 1))

/-- A pass of INT8 or UINT8 operands in one sub-pass adds into its bank, for every row and column of its chunk, the wrapping
sum of the products of its K-values: at CABOOSE_CLOSE in the ordinary feed; in skewed feed the sums of row t enter the bank
at SKEW_CHAIN_STEP t + 31, and with the last row, after M + 31 steps, the pass is done. Memory is in its canonical form (an
invariant: `StepKeepsInvariant`), and no word is in error. The model's choices it rests on: log entry 39. -/
def Obligations.ArrayPassAddsProducts : Prop :=
  ∀ (s : State) (p : PCore) (ps : Pass) (rest : List Pass) (i : Bool),
    let a := s.arr p.no
    let d := ps.job.get
    let pos := d.pos ps.pass
    a.inFlight = ps :: rest → a.bankOf ps.job pos = some i → d.isInt = true → d.multi = 0 → Memory.wf s.mem = true → s.bad = [] → s.lostStacks = 0 →
    let elem (x k : Nat) : Word := cellInt 0 d.movFmt
      (BitVec.ofNat 32 ((localPlace p.no (d.mov + d.movOff x k)).phys.elim 0 (fun adr => (memByte s.mem adr).toNat)))
    let product (row col k : Nat) : Word :=
      if d.dray then cellInt 0 d.statFmt (mget 0 ps.elems (cellKey row k)) * elem col k
      else cellInt 0 d.statFmt (mget 0 ps.elems (cellKey col k)) * elem row k
    let added (t : State) (r c : Nat) : Prop :=
      ((t.arr p.no).bank i).sum (d.sumKey 0 r c) = some
        ((if pos.ki = 0 ∧ d.acc = false then 0 else ((a.bank i).sum (d.sumKey 0 r c)).getD 0) +
          ((List.range (d.kIn pos)).map (fun n =>
            product (pos.mi * d.mc + r) (pos.ni * d.nc + c) (pos.ki * d.kc + n))).foldl (· + ·) 0)
    (ps.job.skew = false → ∃ t, exec (.cabooseClose p) s = .next t ∧ (t.arr p.no).inFlight = rest ∧ t.mem = s.mem ∧
      ∀ r c, r < d.rowsIn pos → c < d.colsIn pos → added t r c) ∧
    (ps.job.skew = true → d.dray = false → ∃ t, exec (.skewChainStep p) s = .next t ∧ t.mem = s.mem ∧
      (∀ r c, r < d.rowsIn pos → c < d.colsIn pos →
        (a.chain = r + 31 → added t r c) ∧
        (a.chain ≠ r + 31 → ((t.arr p.no).bank i).sum (d.sumKey 0 r c) = (a.bank i).sum (d.sumKey 0 r c))) ∧
      (a.chain + 1 < d.m + 31 → (t.arr p.no).chain = a.chain + 1 ∧ (t.arr p.no).inFlight = a.inFlight) ∧
      (d.m + 31 ≤ a.chain + 1 → (t.arr p.no).chain = 0 ∧ (t.arr p.no).inFlight = rest))

/-- BANK_DRAIN on the integer path (R138, R142, R143): each sum of the bank is stored as its 32-bit word at its place of the
output, no other byte changes, the bank is free, and the descriptor's last bank sends its one count report. No word is in
error, nothing waits in the queue, and another used core has not ended. ARRAY_RAMP_ADMIT admits the oldest request of its
region once the region's start slot and the stagger are past, and not before; ARRAY_GATE gates an array whose tail of zero
vectors has run out; ACCUMULATOR_CAPTURE copies a bank line of a core that does not run where the fuse allows it, and is an
ignored write where it does not. The model's choices it rests on: log entry 78. -/
def Obligations.ArrayDrainsAndGates : Prop :=
  (∀ (s : State) (p : PCore) (j : ArrayJob) (i : Bool) (c0 : Counts),
    let a := s.arr p.no
    let d := j.get
    let b := a.bank i
    let pos : PassPos := ⟨b.mc, b.nc, 0, 0⟩
    a.toDrain = some i → b.owner = some j → d.intPath = true → s.NoErrors → a.queue = [] →
    a.tally = [(j.no, d.tag, c0)] → (∃ q ∈ s.usedCores, s.get .CORE_STATUS_STATE q ≠ 2) →
    (d.out + 4 * d.m * d.n ≤ stackedSize ∨ (stackedSize ≤ d.out ∧ d.out + 4 * d.m * d.n ≤ stackedSize + nearSize)) →
    let place (r c : Nat) : Option Nat :=
      (localPlace p.no (d.out + ((b.mc * d.mc + r) * d.n + (b.nc * d.nc + c)) * 4)).phys
    ∃ t, exec (.bankDrain p) s = .next t ∧ ((t.arr p.no).bank i).phase = .free ∧ (t.arr p.no).bank (!i) = a.bank (!i) ∧
      (∀ r c adr k, r < d.rowsIn pos → c < d.colsIn pos → place r c = some adr → k < 4 →
        memByte t.mem (adr + k) = ((b.sum (d.sumKey 0 r c)).getD 0).extractLsb' (8 * k) 8) ∧
      (∀ y, (∀ r c adr, r < d.rowsIn pos → c < d.colsIn pos → place r c = some adr → y < adr ∨ adr + 4 ≤ y) →
        memByte t.mem y = memByte s.mem y) ∧
      (b.mc + 1 = d.mChunks ∧ b.nc + 1 = d.nChunks → ∃ r, t.counts = s.counts ++ [r] ∧ r.tag = d.tag ∧ r.counts = c0.merge {}) ∧
      (¬ (b.mc + 1 = d.mChunks ∧ b.nc + 1 = d.nChunks) → t.counts = s.counts)) ∧
  ((∀ (s : State) (p : PCore) (f : Nat),
    let reg := coreRegion p.no
    let a := s.arr p.no
    (a.rampWanted = some f → s.runFc + 128 * (s.region reg).startSlot ≤ s.fc →
      (∀ l, (s.region reg).lastRampFc = some l → l + s.get .ARR_RAMP_STAGGER reg ≤ s.fc) →
      (∀ q ∈ regionCores reg, q ≠ p.no → ∀ g, (s.arr q).rampWanted = some g → f < g) →
      ∃ t, exec (.arrayRampAdmit p) s = .next t ∧ (t.arr p.no).gated = false ∧ (t.arr p.no).rampWanted = none ∧
        (t.arr p.no).queue = a.queue ∧ (t.region reg).lastRampFc = some s.fc ∧ t.mem = s.mem ∧ t.regs = s.regs) ∧
    (s.fc < s.runFc + 128 * (s.region reg).startSlot ∨
        (∃ l, (s.region reg).lastRampFc = some l ∧ s.fc < l + s.get .ARR_RAMP_STAGGER reg) →
      exec (.arrayRampAdmit p) s = .next s) ∧
    (a.tail = true → a.queue = [] → a.inFlight = [] →
      ∃ t, exec (.arrayGate p) s = .next t ∧ (t.arr p.no).gated = true ∧ (t.arr p.no).tail = false ∧
        (t.arr p.no).bank0 = a.bank0 ∧ (t.arr p.no).bank1 = a.bank1 ∧ t.mem = s.mem ∧ t.regs = s.regs) ∧
    (a.queue ≠ [] ∨ a.inFlight ≠ [] → exec (.arrayGate p) s = .next s)) ∧
  (∀ (s : State) (r : RegionRef) (v : Word), s.HostReady → s.stopped r = false →
    let slot := v.toNat % 128
    let q := slotCore r slot
    let bank := (s.arr q).bank (v.getLsbD 7)
    (s.feature 2 = false → ∃ t, exec (.accumulatorCapture r v) s = .next t ∧ s.OnlyRegs t ∧
      t.Newest 0x0B01 0 0 0 (dbgSelOffset r) ∧ t.word .ARR_DBG_SEL_SLOT r = s.word .ARR_DBG_SEL_SLOT r ∧
      ∀ w, w < 32 → t.word .ARR_DBG_DATA_SUM (r * 32 + w) = s.word .ARR_DBG_DATA_SUM (r * 32 + w)) ∧
    (s.feature 2 = true → v.getLsbD 31 = true → slot < 68 → s.get .CORE_STATUS_STATE q ≠ 1 →
      ∃ t, exec (.accumulatorCapture r v) s = .next t ∧ t.get .ARR_DBG_SEL_CAPTURED r = 1 ∧ t.mem = s.mem ∧ t.cores = s.cores ∧
        ∀ w x, w < 32 → bank.sum ((v.toNat / 256 % 512) * 32 + w) = some x →
          t.word .ARR_DBG_DATA_SUM (r * 32 + w) = x) ∧
    (s.feature 2 = true → v.getLsbD 31 = true → 68 ≤ slot ∨ s.get .CORE_STATUS_STATE q = 1 →
      ∃ t, exec (.accumulatorCapture r v) s = .next t ∧ t.get .ARR_DBG_SEL_CAPTURED r = 0 ∧
        ∀ w, w < 32 → t.word .ARR_DBG_DATA_SUM (r * 32 + w) = s.word .ARR_DBG_DATA_SUM (r * 32 + w))))

/-! ### Stream engine and reports -/

/-- STREAM_DESC_START of an unstarted head: one that fails a check traps with cause 0x06 and its subcode; an empty one
starts and moves nothing; one that reads the ring asks for every piece of it over the mesh, and writes nothing yet (R211); one
row of equal, unglazed formats between places that the core reaches by itself, its near SRAM and its cluster's stacked
SRAM, arrives byte by byte, memory being in its canonical form (an invariant: `StepKeepsInvariant`). STREAM_DESC_COMPLETE
takes a started descriptor with no read and no write under way off its channel and reports it. The model's choices it
rests on: log entries 18 and 26. -/
def Obligations.StreamDescriptors : Prop :=
  ∀ (s : State) (p : PCore) (ch : Fin 4) (j : StreamJob) (rest : List StreamJob),
    let d := j.desc
    (s.core p.no).chan ch = j :: rest →
    (j.started = false →
      (∀ sub, s.streamBad p.no j = some sub →
        ∃ t, exec (.streamDescStart p ch) s = .next t ∧ t.get .CORE_TRAP_CAUSE p.no = 6 ∧ t.get .CORE_TRAP_SLOT p.no = 1 ∧
          t.get .CORE_TRAP_INFO p.no = sub + 256 * j.index.toNat ∧ t.get .CORE_TRAP_PC_PC p.no = j.pc.toNat ∧
          t.get .CORE_STATUS_STATE p.no = 3) ∧
      (s.streamBad p.no j = none →
        d.count0 = 0 ∨ d.count1 = 0 ∨ d.count2 = 0 ∨ d.count3 = 0 →
        ∃ t k, exec (.streamDescStart p ch) s = .next t ∧ (t.core p.no).chan ch = k :: rest ∧ k.started = true ∧
          k.acksLeft = 0 ∧ t.mem = s.mem ∧ t.regs = s.regs) ∧
      (s.streamBad p.no j = none → d.empty = false → s.ringReads j ≠ [] →
        ∃ t k, exec (.streamDescStart p ch) s = .next t ∧ (t.core p.no).chan ch = k :: rest ∧ k.started = true ∧
          k.reads = ((s.ringReads j).map (·.2)).sum ∧ k.got = j.got ∧ t.mem = s.mem ∧ t.regs = s.regs ∧
          t.routers = (s.injectAt (s.attach p.no).1 (s.attach p.no).2 ((s.ringReads j).map (fun x =>
            let r := s.meshRoute p.no d x.1
            ⟨d.channel, .route r.1, .read x.1 x.2, true, p.no * 4 + ch, r.2⟩))).routers) ∧
      (∀ from' to' : Nat, s.streamBad p.no j = none → s.NoErrors → Memory.wf s.mem = true → d.count1 = 1 → d.count2 = 1 → d.count3 = 1 → 0 < d.count0 →
        d.srcFmt = d.dstFmt → fmtGlazed d.srcFmt = false → d.skew = false → d.mcast = false → d.strided = false →
        (∀ i, i < d.count0 * fmtBytes d.srcFmt → s.direct p.no (d.src + i) = true ∧ s.direct p.no (d.dst + i) = true ∧
          (s.place (d.src + i)).phys = some (from' + i) ∧ (s.place (d.dst + i)).phys = some (to' + i)) →
        ∃ t k, exec (.streamDescStart p ch) s = .next t ∧ (t.core p.no).chan ch = k :: rest ∧ k.started = true ∧
          k.acksLeft = 0 ∧
          ∀ y, memByte t.mem y =
            if to' ≤ y ∧ y < to' + d.count0 * fmtBytes d.srcFmt
            then memByte s.mem (from' + (y - to')) else memByte s.mem y)) ∧
    (j.started = true → j.reads = 0 → j.acksLeft = 0 →
      ∃ t r, exec (.streamDescComplete p ch) s = .next t ∧ (t.core p.no).chan ch = rest ∧
        (∀ k, k ≠ ch.val → (t.core p.no).chan k = (s.core p.no).chan k) ∧
        t.counts = s.counts ++ [r] ∧ r.tag = j.tag ∧ r.counts = j.counts) ∧
    (j.started = false ∨ 0 < j.reads ∨ 0 < j.acksLeft → exec (.streamDescComplete p ch) s = .next s)

/-- COUNT_REPORT adds a report to its tag's counts of the run and since the quiet point; NAN_REPORT fills an empty first-NaN
latch, logs it and raises source 11, replaces one of a later step, and leaves one of an earlier or equal step. The model's
choices it rests on: log entry 79. -/
def Obligations.ReportsReachTheModule : Prop :=
  ∀ (s : State) (i : Nat),
    (∀ r, s.counts[i]? = some r → ∃ t, exec (.countReport i) s = .next t ∧ t.counts = s.counts.eraseIdx i ∧
      (∀ tag, mget {} t.runView tag = if tag = r.tag then (mget {} s.runView tag).merge r.counts else mget {} s.runView tag) ∧
      (∀ tag, mget {} t.sinceQuiet tag =
        if tag = r.tag then (mget {} s.sinceQuiet tag).merge r.counts else mget {} s.sinceQuiet tag) ∧
      t.stepView = s.stepView ∧ t.mem = s.mem ∧ t.regs = s.regs) ∧
    (∀ r, s.nans[i]? = some r →
      let holds (t : State) : Prop :=
        t.nanStep = r.step ∧ t.get .NUM_NAN_LOC_TILE = r.tile % 64 ∧ t.get .NUM_NAN_LOC_CLUSTER = r.cluster % 64 ∧
        t.get .NUM_NAN_LOC_CORE = r.core % 16 ∧ t.get .NUM_NAN_LOC_SLOT = r.slot % 4 ∧ t.get .NUM_NAN_LOC_UNIT = r.unit % 8 ∧
        t.get .NUM_NAN_LOC_VALID = 1 ∧ t.get .NUM_NAN_PC_PC = r.pc % 4096 ∧ t.get .NUM_NAN_PC_DESC = r.desc % 256 ∧
        t.get .NUM_NAN_TAG_LAYER_TAG = r.tag % 4096 ∧ t.get .NUM_NAN_TAG_TAG_VALID = (if r.tagValid then 1 else 0) ∧
        t.get .NUM_NAN_STEP_STEP = r.step % 2 ^ 32 ∧ t.get .NUM_NAN_TIME_AC = s.ac % 2 ^ 32
      let counted (t : State) : Prop :=
        t.nans = s.nans.eraseIdx i ∧ t.get .NUM_NAN_COUNT_COUNT = min (s.get .NUM_NAN_COUNT_COUNT + 1) 0xFFFF ∧ t.mem = s.mem
      (s.get .NUM_NAN_LOC_VALID = 0 → ∃ t, exec (.nanReport i) s = .next t ∧ counted t ∧ holds t ∧ t.Irq 11 ∧
        t.Newest 0x0601 0 r.tag r.unit 0) ∧
      (s.get .NUM_NAN_LOC_VALID ≠ 0 → r.step < s.nanStep →
        ∃ t, exec (.nanReport i) s = .next t ∧ counted t ∧ holds t ∧ t.log = s.log) ∧
      (s.get .NUM_NAN_LOC_VALID ≠ 0 → s.nanStep ≤ r.step →
        ∃ t, exec (.nanReport i) s = .next t ∧ counted t ∧ t.nanStep = s.nanStep ∧ t.get .NUM_NAN_PC_PC = s.get .NUM_NAN_PC_PC ∧
          t.get .NUM_NAN_STEP_STEP = s.get .NUM_NAN_STEP_STEP ∧ t.log = s.log))

/-! ### Mesh and barriers -/

/-- A grant of a router output over a link (R245, R246): the lowest channel with an eligible flit sends, but a MAINT flit
that has waited 63 fc goes ahead of PLAN and GRAD; the flit enters the neighbour's buffer, a credit is taken, the output's
flit counter moves on. CREDIT_RETURN gives back one credit of its output and channel, and none while a hold buffer of the
neighbour is full on the channel (R260); MCAST_HOLD_SLIP keeps the longest hold, and raises one slip event an episode once a
flit of the tree is held beyond the tree's limit. -/
def Obligations.RouterTraffic : Prop :=
  (∀ (s : State) (r : RouterRef) (out : Dir) (vc i q inp id : Nat) (f g : Flit) (rest : List Flit),
    let x := s.router r.no
    let k := r.no * 24 + out.no * 4 + vc
    s.stopped (routerRegion r.no) = false → vc < 4 → i < 7 → q ≠ r.no →
    joint r.no out.no = .router q inp → s.outDrops r.no out.no vc = none →
    f.vc.no = vc → f.path = .route id ∧ g = f ∨ f.path = .hop out.no ∧ g = { f with path := .unit inp } →
    x.input i vc = f :: rest → s.eligible r.no out.no vc = [i] →
    (∀ j v h hs, j < 7 → v < 4 → x.input j v = h :: hs →
      s.taken r.no h = true ∧ (∀ n, h.load ≠ .leafAck n) ∨
      ∃ b ∈ s.wants r.no h, h.forks = false ∨ s.sendable r.no b v = true ∨ s.holdable r.no b v = false) →
    let sends (c : Instr) : Prop := ∃ t, exec c s = .next t ∧
      (t.router q).input inp vc = (s.router q).input inp vc ++ [g] ∧
      (t.router r.no).usedAt out.no vc = x.usedAt out.no vc + 1 ∧
      (x.behind i vc = [] → (i = 4 → x.behind 5 vc = []) → (t.router r.no).input i vc = rest) ∧
      t.get .MESH_RTR_FLITS_COUNT k = (s.get .MESH_RTR_FLITS_COUNT k + 1) % 2 ^ 32 ∧ t.mem = s.mem ∧ t.cores = s.cores
    (mget 0 x.maintWait out.no < 63 → (∀ v, v < vc → s.eligible r.no out.no v = []) → sends (.flitGrant r out)) ∧
    (63 ≤ mget 0 x.maintWait out.no → vc = 3 → s.eligible r.no out.no 0 = [] →
      sends (.maintFloorGrant r out) ∧ sends (.flitGrant r out))) ∧
  (∀ (s : State) (r : RouterRef) (out : Dir), s.Masked →
    let x := s.router r.no
    let reg := routerRegion r.no
    (∀ (vc : Vc) (q inp : Nat), joint r.no out.no = .router q inp → s.holdFull q vc.no = true →
      exec (.creditReturn r out vc) s = .next s) ∧
    (∀ (vc : Vc) (q inp : Nat), joint r.no out.no = .router q inp → s.holdFull q vc.no = false →
      ((s.router q).input inp vc.no).length < x.usedAt out.no vc.no →
      ∃ t, exec (.creditReturn r out vc) s = .next t ∧ (t.router r.no).usedAt out.no vc.no = x.usedAt out.no vc.no - 1 ∧
        (∀ o v, v < 4 → (o ≠ out.no ∨ v ≠ vc.no) → (t.router r.no).usedAt o v = x.usedAt o v) ∧
        (∀ n, n ≠ r.no → t.router n = s.router n) ∧ t = { s with routers := t.routers }) ∧
    (∀ (tree : BitVec 8) (heldFc : Nat) (rec : TreeRec), (∃ f ∈ x.held out.no 1, f.path = .tree tree.toNat) →
      s.image.bind (fun im => im.trees.find? (fun t => t.tree = tree.toNat)) = some rec →
      (rec.holdLimit < heldFc → mget false x.slipped (slotKey out.no 1) = false → (s.region reg).crossing < 255 →
        ∃ t, exec (.mcastHoldSlip r out tree heldFc) s = .next t ∧
          t.get .MESH_SLIP_COUNT_COUNT reg = min (s.get .MESH_SLIP_COUNT_COUNT reg + 1) 0xFFFF ∧
          t.get .MESH_SLIP_LAST_KIND reg = 2 ∧ t.get .MESH_SLIP_LAST_ID reg = tree.toNat ∧
          t.get .MESH_SLIP_LAST_PORT reg = out.no ∧
          t.get .MESH_SLIP_LAST_EXCESS reg = min ((heldFc - rec.holdLimit + 15) / 16) 2047 ∧
          t.get .MESH_HOLD_MAX_FC reg = max (s.get .MESH_HOLD_MAX_FC reg) (min heldFc 0xFFFF) ∧ t.Irq 7 ∧
          mget false (t.router r.no).slipped (slotKey out.no 1) = true ∧ t.mem = s.mem) ∧
      (heldFc ≤ rec.holdLimit ∨ mget false x.slipped (slotKey out.no 1) = true →
        ∃ t, exec (.mcastHoldSlip r out tree heldFc) s = .next t ∧ t.log = s.log ∧
          t.get .MESH_SLIP_COUNT_COUNT reg = s.get .MESH_SLIP_COUNT_COUNT reg ∧ t.mem = s.mem)))

/-- BARRIER_ARRIVAL: an arrival flit leaves the input buffer for the barrier entry; with the last gather input the router
sends one arrival towards the root, or, at the root, the generation is complete, and a wafer part of a system barrier rooted
elsewhere leaves by the port; the overflow bits of the arrivals are joined on the way. A command that names another overflow
bit than the flit or release has reports nothing and does nothing. BARRIER_RELEASE of a complete
generation other than the gate's: the release count rises at the root, a step barrier moves the phase, and a release flit
sets out on the release tree; REDUCE-end decides whether the step is skipped, and waits for a drain that still reads. A
release that leaves by a router's local port raises the release count of the members there, and brings them the step's news.
BARRIER_WATCHDOG of an open generation faults the job with cause 6. The model's choices it rests on: log entries 34, 90 and 142. -/
def Obligations.MeshBarriers : Prop :=
  (∀ (s : State) (r : RouterRef) (sys : Bool) (id : BitVec 8) (input : Dir) (b : BarrierRec) (n : NodeRec) (f : Flit),
    let bar := barNo sys id
    let had (i : Nat) : List Bool := mget [] s.arrivals (arrivalKey r.no bar i)
    let has (i : Nat) : List Bool := if i = input.no then had i ++ [f.ovf] else had i
    let holds (t : State) (i : Nat) : List Bool := mget [] t.arrivals (arrivalKey r.no bar i)
    let v := n.gathers.any (fun i => (has i).headD false)
    let taken := s.takeInput r.no (unitInput input.no) 0 f
    let sent (out : Nat) : SMap Router := (taken.injectAt r.no 4 [⟨.sync, .hop out, .arrival bar v, true, 0, 0⟩]).routers
    s.barRec bar = some b → s.barNode bar r.no = some n → s.unitFlit r.no bar input.no false = some f →
    s.stopped (routerRegion r.no) = false → n.inputs.testBit input.no = true →
    (s.job = false → exec (.barrierArrival r sys id input f.ovf) s = .next s) ∧
    exec (.barrierArrival r sys id input (!f.ovf)) s = .next s ∧
    (s.job = true → (∃ i ∈ n.gathers, has i = []) → ∃ t, exec (.barrierArrival r sys id input f.ovf) s = .next t ∧
      (∀ i ∈ n.gathers, holds t i = has i) ∧ t.routers = taken.routers ∧ t.barriers = s.barriers ∧ t.regs = s.regs ∧
      t.mem = s.mem) ∧
    (s.job = true → (∀ i ∈ n.gathers, has i ≠ []) → ∃ t, exec (.barrierArrival r sys id input f.ovf) s = .next t ∧
      (∀ i ∈ n.gathers, holds t i = (has i).tail) ∧ t.mem = s.mem ∧ t.cores = s.cores ∧
      (r.no ≠ b.router → t.barriers = s.barriers ∧ t.routers = sent n.parent) ∧
      (r.no = b.router → (t.barrier bar).complete = (s.barrier bar).complete + 1 ∧ (t.barrier bar).v = v ∧
        (t.barrier bar).released = (s.barrier bar).released ∧
        t.routers = if s.barRemote bar then sent 6 else taken.routers))) ∧
  (∀ (s : State) (sys : Bool) (id : BitVec 8) (rec : BarrierRec) (v : Bool) (from' : SMap Router),
    let bar := barNo sys id
    let b := s.barrier bar
    s.barRec bar = some rec →
    s.barRemote bar = false ∧ v = b.v ∧ from' = s.routers ∨
      (s.barRemote bar = true ∧ ∃ f, s.unitFlit rec.router bar 6 true = some f ∧ v = f.ovf ∧
        from' = (s.takeInput rec.router 6 0 f).routers) →
    (s.gateBar ≠ some bar → b.released < b.complete → ¬ (s.reduceEnd = some bar ∧ s.drainHolds = true) →
      ∃ t news, exec (.barrierRelease sys id v) s = .next t ∧
        (t.barrier bar).released = b.released + 1 ∧ (t.barrier bar).lastFc = s.fc ∧ t.cores = s.cores ∧ t.mem = s.mem ∧
        t.routers = ({ s with routers := from' }.injectAt rec.router 4
          [⟨.sync, .release bar, .release bar v news, true, 0, 0⟩]).routers ∧
        (s.reduceEnd ≠ some bar → news = none) ∧
        (s.reduceEnd = some bar → ∃ w, news = some w ∧ w.step = BitVec.ofNat 64 s.stepCount ∧ w.write = true ∧
          w.bufSel = s.on .RES_STEP_STATE_BUF_SEL) ∧
        ∀ plan, s.image.bind (·.stepPlan) = some plan → s.job = true →
          (bar = plan.fwdEnd → t.get .RES_STEP_STATE_PHASE = 2) ∧
          (bar ≠ plan.fwdEnd → bar = plan.bwdEnd →
            t.get .RES_STEP_STATE_MICRO = min (s.get .RES_STEP_STATE_MICRO + 1) 255 ∧
            t.get .RES_STEP_STATE_PHASE = if plan.u ≤ b.inStep + 1 then (if plan.overlap then 4 else 3) else 1) ∧
          (bar ≠ plan.fwdEnd → bar ≠ plan.bwdEnd → plan.egressValid = true → bar = plan.egressEnd →
            t.get .RES_STEP_STATE_PHASE = 4) ∧
          (bar ≠ plan.fwdEnd → bar ≠ plan.bwdEnd → (plan.egressValid = false ∨ bar ≠ plan.egressEnd) →
            (bar = plan.reduceEnd → t.get .RES_STEP_STATE_PHASE = 5 ∧ t.get .RES_STEP_STATE_STABLE = 0 ∧
              t.v = v ∧ t.skip = (s.on .NUM_LS_EN && v)) ∧
            (bar ≠ plan.reduceEnd → bar = plan.updateEnd → t.get .RES_STEP_STATE_PHASE = 6) ∧
            (bar ≠ plan.reduceEnd → bar ≠ plan.updateEnd → bar = plan.swapEnd →
              t.get .RES_STEP_STATE_PHASE = 7 ∧ t.quiet.isSome = true))) ∧
    exec (.barrierRelease sys id (!v)) s = .next s ∧
    (s.gateBar ≠ some bar → b.complete ≤ b.released ∨ (s.reduceEnd = some bar ∧ s.drainHolds = true) →
      exec (.barrierRelease sys id v) s = .next s) ∧
    ((s.barMissing bar).1 = true → s.gateBar ≠ some bar → s.job = true →
      ∃ t, exec (.barrierWatchdog sys id) s = .next t ∧ t.job = false ∧ t.faulted = true ∧
        t.get .RES_FAULT_CAUSE = 6 ∧ t.get .RES_FAULT_REGION = routerRegion rec.router % 512 ∧ t.Irq 6) ∧
    ((s.barMissing bar).1 = false → exec (.barrierWatchdog sys id) s = .next s)) ∧
  (∀ (s : State) (sys : Bool) (id : BitVec 8) (rec : BarrierRec) (ovf : Bool),
    let bar := barNo sys id
    s.barRec bar = some rec → s.barRemote bar = true → s.gateBar ≠ some bar → s.unitFlit rec.router bar 6 true = none →
    exec (.barrierRelease sys id ovf) s = .next s) ∧
  (∀ (s : State) (r : RouterRef) (bar i : Nat) (v : Bool) (news : Option News) (f : Flit) (rest : List Flit),
    let x := s.router r.no
    s.stopped (routerRegion r.no) = false → i < 7 → f.vc = .sync → f.path = .release bar → f.load = .release bar v news →
    x.input i 0 = f :: rest → s.wants r.no f = [4] → s.eligible r.no 4 0 = [i] →
    (∀ j c h hs, j < 7 → c < 4 → x.input j c = h :: hs →
      s.taken r.no h = true ∧ (∀ n, h.load ≠ .leafAck n) ∨
      ∃ b ∈ s.wants r.no h, h.forks = false ∨ s.sendable r.no b c = true ∨ s.holdable r.no b c = false) →
    ∃ t, exec (.flitGrant r .loc) s = .next t ∧
      (∀ p, mget 0 (t.core p).releases bar = mget 0 (s.core p).releases bar +
        if p ∈ s.barMembers bar ∧ s.attach p = (r.no, 4) then 1 else 0) ∧
      (∀ p, (t.core p).posts = (s.core p).posts ∧ (t.core p).sregs = (s.core p).sregs) ∧
      (news = none → t.mem = s.mem) ∧
      ∀ w p, news = some w → p ∈ s.barMembers bar → s.attach p = (r.no, 4) →
        (t.core p).step = w.step ∧ (t.core p).bufSel = w.bufSel ∧ (t.core p).mayWriteUnique = w.write)

/-! ### Memory tiers -/

/-- Stacked-SRAM reads (R203 to R206): a request joins the open window of its line, and has the line at once where the
window has been served; it opens one while fewer than 32 are held, or is served alone; MERGE_WINDOW_CLOSE leaves no open
window of the line; a bank grant serves a window by one read, delivers the line to every port in it and counts the reads it
spared; of two ports it serves the next in the order that starts at a port one further each fc. Where the line is
uncorrectable, every core of a running job that it was read for traps with cause 0x0A (R230, R231). The model's choices it
rests on: log entry 16. -/
def Obligations.StackedReads : Prop :=
  (∀ (s : State) (c : ClusterRef) (port : Fin 17) (line : Fin 393216),
    let x := s.stack c.no
    (∀ w, x.windows = [w] → w.line = line.val → w.isOpen = true →
      ∃ t, exec (.stackedReadRequest c port line) s = .next t ∧
        (t.stack c.no).windows = [{ w with ports := w.ports ++ [port.val] }] ∧ (t.stack c.no).alone = x.alone ∧
        (t.unit c.no).merge = (if w.granted then ((s.unit c.no).merge + 1) % 2 ^ 32 else (s.unit c.no).merge) ∧
        (w.granted = true → mget none (t.stack c.no).delivered port = some ⟨line, w.data⟩) ∧
        (w.granted = false ∨ w.data ≠ none ∨ s.job = false → t.mem = s.mem ∧ t.regs = s.regs) ∧
        (w.granted = true → w.data = none → s.job = true → t.get .CORE_TRAP_CAUSE (c.no * 17 + port) = 0x0A ∧
          t.get .CORE_TRAP_INFO (c.no * 17 + port) = 2 ∧ t.get .CORE_STATUS_STATE (c.no * 17 + port) = 3 ∧ t.job = false)) ∧
    ((∀ w ∈ x.windows, w.line = line.val → w.isOpen = false) →
      ∃ t, exec (.stackedReadRequest c port line) s = .next t ∧ t.mem = s.mem ∧ t.units = s.units ∧
        (x.windows.length < 32 → (t.stack c.no).windows = x.windows ++ [⟨line, [port.val], true, false, none⟩] ∧
          (t.stack c.no).alone = x.alone) ∧
        (32 ≤ x.windows.length → (t.stack c.no).windows = x.windows ∧
          (t.stack c.no).alone = x.alone ++ [(port.val, line.val)])) ∧
    (∃ t, exec (.mergeWindowClose c line) s = .next t ∧ t.mem = s.mem ∧ (t.stack c.no).alone = x.alone ∧
      (∀ w ∈ (t.stack c.no).windows, w.line = line.val → w.isOpen = false ∧ w.granted = false) ∧
      ∀ w ∈ x.windows, w.line ≠ line.val → (w.isOpen = true ∨ w.granted = false) → w ∈ (t.stack c.no).windows)) ∧
  (∀ (s : State) (c : ClusterRef) (bank : Fin 8), s.NoErrors →
    let x := s.stack c.no
    let data (line : Nat) : List Byte := memRead s.mem (stackedAddr c.no (line * 128)) 128
    (∀ w : Window, x.windows = [w] → x.alone = [] → w.granted = false → lineBank w.line = bank.val →
      w.ports.headD 0 < 17 →
      ∃ t, exec (.stackedBankGrant c bank) s = .next t ∧
        (∀ p ∈ w.ports, mget none (t.stack c.no).delivered p = some ⟨w.line, some (data w.line)⟩) ∧
        (t.unit c.no).merge = ((s.unit c.no).merge + (w.ports.length - 1)) % 2 ^ 32 ∧
        (t.stack c.no).windows = (if w.isOpen then [{ w with granted := true, data := some (data w.line) }] else []) ∧
        t.mem = s.mem ∧ t.regs = s.regs) ∧
    (∀ p q lp lq : Nat, x.windows = [] → x.alone = [(p, lp), (q, lq)] → lineBank lp = bank.val → lineBank lq = bank.val →
      p < 17 → q < 17 → p ≠ q →
      let turn (k : Nat) : Nat := (k + 17 - s.fc % 17) % 17
      ∃ t, exec (.stackedBankGrant c bank) s = .next t ∧ t.mem = s.mem ∧ t.regs = s.regs ∧
        (turn p < turn q → (t.stack c.no).alone = [(q, lq)] ∧
          mget none (t.stack c.no).delivered p = some ⟨lp, some (data lp)⟩) ∧
        (turn q < turn p → (t.stack c.no).alone = [(p, lp)] ∧
          mget none (t.stack c.no).delivered q = some ⟨lq, some (data lq)⟩))) ∧
  (∀ (s : State) (c : ClusterRef) (bank : Fin 8) (w : Window),
    let x := s.stack c.no
    x.windows = [w] → x.alone = [] → w.granted = false → lineBank w.line = bank.val → w.ports.headD 0 < 17 →
    (s.readPhys (stackedAddr c.no (w.line * 128)) 128).2 = none → s.job = true →
    ∃ t, exec (.stackedBankGrant c bank) s = .next t ∧ (w.ports ≠ [] → t.job = false ∧ t.get .RES_FAULT_CAUSE = 1) ∧
      ∀ p ∈ w.ports, p < 17 → mget none (t.stack c.no).delivered p = some ⟨w.line, none⟩ ∧
        t.get .CORE_TRAP_CAUSE (c.no * 17 + p) = 0x0A ∧ t.get .CORE_TRAP_INFO (c.no * 17 + p) = 2 ∧
        t.get .CORE_STATUS_STATE (c.no * 17 + p) = 3)

/-- SCRUB_ACCESS and PATROL_READ read the next word or line: a good one passes, one bad position is corrected, written back
and counted, two are uncorrectable and counted; the position moves on. While a request waits for the bank or channel the
access waits, until SCRUB_FORCED or PATROL_FORCED serves it. Positions that a word or line does not have change nothing. The
model's choices it rests on: log entries 14 and 17. -/
def Obligations.ScrubAndPatrol : Prop :=
  ∀ (s : State) (c : ClusterRef) (ch : RingChan) (upset : List Nat) (asked : Bool),
    let reads (i : Instr) (u k words : Nat) : Prop :=
      let e := s.unit u
      mget [] s.bad k = [] → e.pos + 1 < words → ∃ t, exec i s = .next t ∧ (t.unit u).pos = e.pos + 1 ∧
        (t.unit u).waiting = false ∧ t.mem = s.mem ∧
        (upset = [] → mget [] t.bad k = [] ∧ (t.unit u).ce = e.ce ∧ (t.unit u).ue = e.ue ∧ t.regs = s.regs) ∧
        (∀ a, upset = [a] → mget [] t.bad k = [] ∧ (t.unit u).ce = min (e.ce + 1) 0xFFFFFFFF ∧ (t.unit u).ue = e.ue ∧
          t.get .MEM_TOTAL_CE_COUNT = min (s.get .MEM_TOTAL_CE_COUNT + 1) 0xFFFFFFFF) ∧
        (∀ a b, a ≠ b → upset = [a, b] → s.allocated k = false →
          mget [] t.bad k = [a, b] ∧ (t.unit u).ue = min (e.ue + 1) 0xFFFF ∧ (t.unit u).ce = e.ce ∧ t.job = s.job ∧
          t.get .MEM_TOTAL_UE_COUNT = min (s.get .MEM_TOTAL_UE_COUNT + 1) 0xFFFF ∧ t.Irq 13)
    let waits (i : Instr) (u : Nat) : Prop :=
      ∃ t, exec i s = .next t ∧ (t.unit u).waiting = true ∧ (t.unit u).pos = (s.unit u).pos ∧ t.mem = s.mem
    let serves (i : Instr) (u k words : Nat) : Prop :=
      (s.unit u).waiting = true → mget [] s.bad k = [] → (s.unit u).pos + 1 < words →
      ∃ t, exec i s = .next t ∧ (t.unit u).waiting = false ∧ (t.unit u).pos = (s.unit u).pos + 1 ∧ t.mem = s.mem
    let cu := c.no
    let cpos := (s.unit cu).pos
    let pu := 1600 + ch.val
    let ppos := (s.unit pu).pos
    let busy := (if cpos < stackedWords then (s.stack cu).portsWait (scrubBank cpos) else asked) = true
    (s.scrubRuns cu = true → (∀ a ∈ upset, a < 72) →
      (¬ busy → reads (.scrubAccess c ⟨upset, asked⟩) cu (scrubKey cu cpos) clusterWords) ∧
      (busy → waits (.scrubAccess c ⟨upset, asked⟩) cu)) ∧
    (s.scrubRuns cu = false → exec (.scrubAccess c ⟨upset, asked⟩) s = .next s) ∧
    (s.scrubRuns cu = true → ∀ bank : Fin 8, scrubBank cpos = bank.val →
      serves (.scrubForced c bank) cu (scrubKey cu cpos) clusterWords) ∧
    (s.patrolRuns ch = true → (∀ a ∈ upset, a < 35) → s.stackLost (ch / 16) = false → ppos < 2 ^ 26 →
      ((∀ x ∈ s.hostWait, x.1 ≠ ch.val) → reads (.patrolRead ch upset) pu (patrolKey ch ppos) s.channelLines) ∧
      ((∃ x ∈ s.hostWait, x.1 = ch.val) → waits (.patrolRead ch upset) pu) ∧
      serves (.patrolForced ch) pu (patrolKey ch ppos) s.channelLines) ∧
    (s.patrolRuns ch = false → exec (.patrolRead ch upset) s = .next s) ∧
    exec (.scrubAccess c ⟨upset, asked⟩) s = exec (.scrubAccess c ⟨upset.filter (· < 72), asked⟩) s ∧
    exec (.patrolRead ch upset) s = exec (.patrolRead ch (upset.filter (· < 35))) s

/-- UE_LOCATION_TEST after a class J fault leaves zeros in a location that passes, once the host does not cache it (R398), and marks the row, or loses the stack, of
a ring line that does not; MEM_CE_COPY takes its selection, and its end shows the selected unit's counts and clears them on
request. The model's choices it rests on: log entry 82. -/
def Obligations.LocationTestAndErrorCopy : Prop :=
  (∀ (s : State) (loc : MemLoc) (spareRow : Bool), s.faulted = true → 2 ≤ (mget [] s.bad loc.key).length →
    let cached := s.cachedLines (s.errSpan loc.key).1 (s.errSpan loc.key).2
    (∀ l, cached = [l] → (s.errSpan loc.key).1 / 64 = l → (s.errSpan loc.key).2 ≤ 64 - (s.errSpan loc.key).1 % 64 →
      ∃ t, exec (.ueLocationTest loc true spareRow) s = .next t ∧ t = { s with snoopWait :=
        s.snoopWait ++ [(l, (s.errSpan loc.key).1, List.replicate (s.errSpan loc.key).2 0)] }) ∧
    (cached = [] → ∃ t, exec (.ueLocationTest loc true spareRow) s = .next t ∧ mget [] t.bad loc.key = [] ∧
      (∀ k, k ≠ loc.key → mget [] t.bad k = mget [] s.bad k) ∧
      (∀ y, memByte t.mem y = if (s.errSpan loc.key).1 ≤ y ∧ y < (s.errSpan loc.key).1 + (s.errSpan loc.key).2 then 0
        else memByte s.mem y) ∧ t.regs = s.regs) ∧
    (∀ st line, loc = .ring st line → ∃ t, exec (.ueLocationTest loc false true) s = .next t ∧
      t.repairs = s.repairs ++ [(st.val, line / 64)] ∧ t.mem = s.mem ∧ t.bad = s.bad) ∧
    (∀ st line, loc = .ring st line → ∃ t, exec (.ueLocationTest loc false false) s = .next t ∧
      t.stackLost st = true ∧ t.mem = s.mem)) ∧
  (∀ (s : State) (loc : MemLoc) (passes spareRow : Bool), s.faulted = false →
    exec (.ueLocationTest loc passes spareRow) s = .next s) ∧
  (∀ (s : State) (v : Word), s.HostReady →
    (v.getLsbD 31 = true → s.get .MEM_CE_SEL_BUSY = 0 → ∃ t, exec (.memCeCopy v) s = .next t ∧ s.OnlyRegs t ∧
      t.get .MEM_CE_SEL_BUSY = 1 ∧ t.get .MEM_CE_SEL_KIND = v.toNat % 2 ∧ t.get .MEM_CE_SEL_INDEX = v.toNat / 2 % 2048 ∧
      t.log = s.log) ∧
    (v.getLsbD 31 = true → s.get .MEM_CE_SEL_BUSY ≠ 0 → ∃ t, exec (.memCeCopy v) s = .next t ∧ s.OnlyRegs t ∧
      t.get .MEM_CE_SEL_BUSY = s.get .MEM_CE_SEL_BUSY ∧ t.get .MEM_CE_SEL_INDEX 1 = s.get .MEM_CE_SEL_INDEX 1 ∧
      t.Newest 0x0B01 0 0 0 0x800020)) ∧
  (∀ s : State, s.get .MEM_CE_SEL_BUSY ≠ 0 →
    let kind := s.get .MEM_CE_SEL_KIND 1
    let i := s.get .MEM_CE_SEL_INDEX 1
    let e := s.unit i
    (kind = 0 → i < 1600 → s.stopped (clusterRegion i) = false → ∃ t, exec .memCeCopyDone s = .next t ∧
      t.get .MEM_CE_SEL_BUSY = 0 ∧ t.get .MEM_CE_SEL_STATUS = 0 ∧ t.get .MEM_CE_COUNT_COUNT = e.ce % 2 ^ 32 ∧
      t.get .MEM_CE_OVF_COUNT = e.ovf % 2 ^ 16 ∧ t.get .MEM_UE_COUNT_COUNT = e.ue % 2 ^ 16 ∧
      t.get .MEM_MERGE_COUNT = e.merge % 2 ^ 32 ∧
      (∀ n, n < 16 → (t.get .MEM_CE_ENTRY_LO_VALID n = 1 ↔ n < e.table.length)) ∧
      (s.get .MEM_CE_SEL_CLEAR 1 = 0 → t.units = s.units) ∧
      (s.get .MEM_CE_SEL_CLEAR 1 ≠ 0 → (t.unit i).ce = 0 ∧ (t.unit i).ovf = 0 ∧ (t.unit i).ue = 0 ∧ (t.unit i).table = [] ∧
        (t.unit i).pos = e.pos ∧ (t.unit i).merge = e.merge) ∧ t.mem = s.mem) ∧
    (kind = 0 → 1600 ≤ i → ∃ t, exec .memCeCopyDone s = .next t ∧ t.get .MEM_CE_SEL_BUSY = 0 ∧
      t.get .MEM_CE_SEL_STATUS = 2 ∧ t.units = s.units) ∧
    (kind = 0 → i < 1600 → s.stopped (clusterRegion i) = true → ∃ t, exec .memCeCopyDone s = .next t ∧
      t.get .MEM_CE_SEL_BUSY = 0 ∧ t.get .MEM_CE_SEL_STATUS = 1 ∧ t.units = s.units))

/-- HOST_RING_ACCESS: a read answers the bytes of the ring, a write stores them; beyond S × C and while the ring is in
self-refresh the access is refused with its event; behind the job it waits, and HOST_RING_WAIT_TIMEOUT serves the oldest.
An access of any size completes, and stores to no byte but its own. BACK_INVALIDATION_DONE: the host no longer holds the
line; a write that waited for it is stored, one that waits for another line keeps waiting, and a completion that waited for
it goes to its CQ. The model's choices it rests on:
log entries 14, 19, 32 and 80. -/
def Obligations.HostRingAccesses : Prop :=
  (∀ (s : State) (w : HostWindow) (addr : Nat) (busy : Bool), s.NoErrors → s.snoopWait = [] →
    let a := s.hostRingAddr w addr
    let run (op : HostOp) : Instr := .hostRingAccess w addr op busy
    let ok (op : HostOp) : Prop := op.wellFormed addr = true ∧ (w = .bar2 → addr < 2 ^ 36) ∧ s.hostUp = true
    (s.ringAsleep = false → s.hostWait = [] → (s.job && busy) = false →
      (∀ n, ok (.read n) → a + n ≤ s.ringTop → ∃ t, exec (run (.read n)) s = .next t ∧
        t.rsp = ⟨.ok, memRead s.mem a n⟩ ∧ t.mem = s.mem ∧ t.regs = s.regs) ∧
      (∀ d, ok (.write d) → a + d.length ≤ s.ringTop → ∃ t, exec (run (.write d)) s = .next t ∧ t.rsp.status = .ok ∧
        t.regs = s.regs ∧ ∀ y, memByte t.mem y = if a ≤ y ∧ y < a + d.length then d.getD (y - a) 0 else memByte s.mem y)) ∧
    (∀ op, ok op →
      (s.ringTop < a + op.size → ∃ t, exec (run op) s = .next t ∧ t.mem = s.mem ∧ t.Newest 0x0B04 0 0 0 0 ∧
        t.rsp.status = (if op.isWrite then .discarded else .unsupported)) ∧
      (a + op.size ≤ s.ringTop → s.ringAsleep = true → ∃ t, exec (run op) s = .next t ∧ t.mem = s.mem ∧
        t.Newest 0x0B01 0 0 0 0 ∧
        t.rsp.status = (if op.isWrite then .discarded else if w = .bar2 then .abort else .poisoned)) ∧
      (a + op.size ≤ s.ringTop → s.ringAsleep = false → s.job = true → busy = true →
        ∃ t, exec (run op) s = .next t ∧ t.mem = s.mem ∧ t.rsp.status = .waiting ∧
          t.hostWait = s.hostWait ++ [(s.ringChan a, w, a, op)])) ∧
    (∀ op, (w = .bar2 → addr < 2 ^ 36) → s.hostUp = true → s.hostWait = [] → ∃ t, exec (run op) s = .next t ∧
      ∀ y, op.isWrite = false ∨ y < a ∨ a + op.size ≤ y → memByte t.mem y = memByte s.mem y) ∧
    (s.hostUp = false → ∀ op, exec (run op) s = .next s) ∧
    (∀ (ch : RingChan) (rest : List (Nat × HostWindow × Nat × HostOp)),
      (∀ b n, s.hostWait = (ch.val, w, b, .read n) :: rest → ∃ t, exec (.hostRingWaitTimeout ch) s = .next t ∧
        t.hostWait = rest ∧ t.rsp = ⟨.ok, memRead s.mem b n⟩ ∧ t.mem = s.mem) ∧
      (∀ b d, s.hostWait = (ch.val, w, b, .write d) :: rest → ∃ t, exec (.hostRingWaitTimeout ch) s = .next t ∧
        t.hostWait = rest ∧
        ∀ y, memByte t.mem y = if b ≤ y ∧ y < b + d.length then d.getD (y - b) 0 else memByte s.mem y))) ∧
  (∀ (s : State) (line : Nat) (r : Fin 4) (irq : Bool) (e : List Byte), s.NoErrors → s.snoopAcks = [] → s.snoopWait = [] →
    s.quiet = none → s.snoop = [line] → s.cqWait = [(r.val, irq, e)] → s.get .HOST_RING_CFG_SIZE r ≤ 8 →
    ∃ t, exec (.backInvalidationDone line) s = .next t ∧ t.snoop = [] ∧ t.cqWait = [] ∧ (irq = true → t.Irq (1 + r.val)) ∧
      t.get .HOST_CQ_TAIL_INDEX r = (s.get .HOST_CQ_TAIL_INDEX r + 1) % s.ringEntries r) ∧
  (∀ (s : State) (line a other b : Nat) (bs cs : List Byte), s.NoErrors → s.snoopAcks = [] → other ≠ line →
    s.cqWait = [] → s.quiet = none →
    s.snoopWait = [(line, a, bs), (other, b, cs)] → s.snoop.Nodup →
    ∃ t, exec (.backInvalidationDone line) s = .next t ∧ line ∉ t.snoop ∧
      (∀ l, l ≠ line → (l ∈ t.snoop ↔ l ∈ s.snoop)) ∧ t.snoopWait = [(other, b, cs)] ∧ t.regs = s.regs ∧
      ∀ y, memByte t.mem y = if a ≤ y ∧ y < a + bs.length then bs.getD (y - a) 0 else memByte s.mem y)

/-- HOST_CLUSTER_ACCESS: over an open way a read answers the bytes and a write stores them, except one that touches a
numerics page, which is discarded with an event; a region whose clock stands still makes it wait, and
STALLED_ACCESS_COMPLETE serves it once the clock runs; a way that does not exist refuses it. The model's choices it rests
on: log entry 19. -/
def Obligations.HostClusterAccesses : Prop :=
  ∀ (s : State) (bar0 : Bool) (addr : Nat) (op : HostOp), s.NoErrors → s.snoopWait = [] →
    op.wellFormed addr = true → 0x400000000000 ≤ addr → addr < 0x401900000000 → s.ringTop ≤ addr →
    let run : Instr := .hostClusterAccess bar0 addr op
    let serves (i : Instr) (pa : Nat) : Prop := ∃ t, exec i s = .next t ∧
      (∀ n, op = .read n → t.rsp = ⟨.ok, memRead s.mem pa n⟩ ∧ t.mem = s.mem) ∧
      (∀ d, op = .write d → t.rsp.status = .ok ∧
        ∀ y, memByte t.mem y = if pa ≤ y ∧ y < pa + d.length then d.getD (y - pa) 0 else memByte s.mem y)
    let page := op.isWrite = true ∧ s.hitsPage addr (addr + op.size - 1) = true
    (∀ pa, s.hostUp = true → s.hostWay addr = .open → (s.place addr).phys = some pa →
      (¬ page → serves run pa) ∧
      (page → ∃ t, exec run s = .next t ∧ t.rsp.status = .discarded ∧ t.mem = s.mem ∧ t.Newest 0x0B01 0 0 0 0)) ∧
    (∀ reg, s.hostUp = true → s.hostWay addr = .waits reg → ∃ t, exec run s = .next t ∧ t.mem = s.mem ∧
      t.rsp.status = .waiting ∧ t.stalledQ = s.stalledQ ++ [⟨reg, bar0, addr, op⟩]) ∧
    (s.hostUp = true → s.hostWay addr = .refused → ∃ t, exec run s = .next t ∧ t.mem = s.mem ∧ t.Newest 0x0B01 0 0 0 0 ∧
      t.rsp.status = (if op.isWrite then .discarded else if bar0 then .abort else .poisoned)) ∧
    (∀ (r : RegionRef) pa, s.stalledQ = [⟨r.val, bar0, addr, op⟩] → s.stopped r = false → s.hostWay addr = .open →
      (s.place addr).phys = some pa → ¬ page → serves (.stalledAccessComplete r) pa) ∧
    (∀ r : RegionRef, s.stopped r = true → exec (.stalledAccessComplete r) s = .next s)

/-! ### The training step -/

/-- GATE_RELEASE: while any hold of the gate stands (the apply is complete only when no line of the numerics area waits for
the host's cache, R340, R398; a secure request is due) nothing changes; with none, the step count rises by one (not at the
first gate of a run), BUF_SEL flips unless the step was skipped, PHASE, MICRO and STABLE start the step, and every member
takes the step, its release and the numerics page. The model's choices it rests on: log entry 49. -/
def Obligations.GateReleases : Prop :=
  ∀ (s : State) (q : Quiet) (g : Nat), s.quiet = some q → s.gateBar = some g → s.job = true →
    let b := s.barrier g
    let late := ∃ i ∈ s.inputRings, s.ahead i s.nextStep < 1
    let stops := q.first = false ∧ (q.applied = false ∨ s.areaWaits = true ∨ q.stopAt = true ∨ q.ratioStop = true)
    let held := b.complete ≤ b.released ∨ stops ∨ s.commitWaits = true ∨ late ∨ s.due = true ∨
      (q.secureCounted = true ∧ s.drainHolds = true)
    (held → exec .gateRelease s = .next s) ∧
    (¬ held → ∃ t, exec .gateRelease s = .next t ∧
      t.stepCount = (if q.first then s.stepCount else (s.stepCount + 1) % 2 ^ 64) ∧
      t.get .RES_STEP_STATE_BUF_SEL = (if q.first = true ∨ s.skip = true then s.get .RES_STEP_STATE_BUF_SEL
        else if s.get .RES_STEP_STATE_BUF_SEL = 0 then 1 else 0) ∧
      t.get .RES_STEP_STATE_PHASE = 1 ∧ t.get .RES_STEP_STATE_MICRO = 0 ∧ t.get .RES_STEP_STATE_STABLE = 1 ∧
      t.get .RES_STEP_QP_LAST_FC = min (s.fc - q.startFc) 0xFFFFFF ∧
      t.quiet = none ∧ t.v = false ∧ t.skip = false ∧ t.job = true ∧
      (t.barrier g).released = b.released + 1 ∧ (t.barrier g).lastFc = s.fc ∧
      ∀ p ∈ s.barMembers g, (t.core p).step = BitVec.ofNat 64 t.stepCount ∧
        (t.core p).bufSel = t.on .RES_STEP_STATE_BUF_SEL ∧ (t.core p).mayWriteUnique = false ∧
        mget 0 (t.core p).releases g = mget 0 (s.core p).releases g + 1 ∧
        (s.get .NUM_PAGE_ADDR + 64 ≤ 0x100000 → ∀ k, k < 64 →
          memByte t.mem (nearAddr p (s.get .NUM_PAGE_ADDR) + k) = (t.pageBytes false).getD k 0))

/-- NUMERICS_APPLY: the loss scale falls by one and the skip is counted where the step overflowed, and rises by one after
CLEAN_STEPS clean steps; each tag's update exponent falls by one where values saturated, and rises by one where its crumbs
reach the threshold, within its limits, and stays where the step was skipped. The model's choices it rests on: log entries
20 and 86. -/
def Obligations.NumericsApplied : Prop :=
  ∀ (s : State) (q : Quiet), s.Masked → s.quiet = some q → q.first = false → q.applied = false → s.reportsWait q = false →
    ∃ t, exec .numericsApply s = .next t ∧ t.stepView = s.sinceQuiet ∧ t.sinceQuiet = [] ∧
      t.get .RES_STEP_STATE_SKIPPED = (if s.skip then 1 else 0) ∧ t.get .NUM_LS_STAT_LAST_OVF = (if s.v then 1 else 0) ∧
      (s.get .NUM_LS_EN = 0 → t.get .NUM_LS_EXP = s.get .NUM_LS_EXP ∧ t.get .NUM_LS_CLEAN = s.get .NUM_LS_CLEAN ∧
        t.get .NUM_LS_STAT_CONSEC = s.get .NUM_LS_STAT_CONSEC) ∧
      (s.get .NUM_LS_EN ≠ 0 → s.v = true →
        t.get .NUM_LS_EXP = s.get .NUM_LS_EXP - 1 ∧ t.get .NUM_LS_CLEAN = 0 ∧
        t.get .NUM_LS_STAT_SKIPS = min (s.get .NUM_LS_STAT_SKIPS + 1) 0xFFFF ∧
        t.get .NUM_LS_STAT_CONSEC = min (s.get .NUM_LS_STAT_CONSEC + 1) 0xFF ∧
        (s.get .NUM_LS_EXP = 0 → t.get .NUM_LS_STAT_FLOOR = 1)) ∧
      (s.get .NUM_LS_EN ≠ 0 → s.v = false →
        let n := s.get .NUM_LS_CFG_CLEAN_STEPS
        let k := min (s.get .NUM_LS_CLEAN + 1) 0xFFFF
        t.get .NUM_LS_STAT_CONSEC = 0 ∧
        if n ≠ 0 ∧ n ≤ k then t.get .NUM_LS_EXP = min (s.get .NUM_LS_EXP + 1) 24 ∧ t.get .NUM_LS_CLEAN = 0
        else t.get .NUM_LS_EXP = s.get .NUM_LS_EXP ∧ t.get .NUM_LS_CLEAN = k) ∧
      ∀ tag, tag < 4096 →
        let c := mget {} s.sinceQuiet tag
        let e := s.tagExp tag
        let thr := s.get .NUM_EXP_THR_RAISE_THRESH tag
        let sat := c.sats + c.ovf16 + c.ovfOther
        t.tagExp tag =
          if s.skip = true ∨ s.get .NUM_EXP_EN tag = 0 then e
          else if 0 < sat then (if signed (s.get .NUM_EXP_LIM_S_MIN tag) 8 < e then e - 1 else e)
          else if thr ≠ 0 ∧ thr ≤ c.crumbs then (if e < signed (s.get .NUM_EXP_LIM_S_MAX tag) 8 then e + 1 else e)
          else e

/-- QUIET_COMMIT_APPLY makes a pending profile the active one at the quiet point and ends its transaction with outcome 1;
COMMIT_APPLY_TIMEOUT ends every commit that is due with outcome 2 and code 0x08; neither does anything else. The model's
choices it rests on: log entry 64. -/
def Obligations.QuietPointCommits : Prop :=
  ∀ s : State,
    (s.commitsDue = false → exec .quietCommitApply s = .next s ∧ exec .commitApplyTimeout s = .next s) ∧
    (∀ i p, s.commitsDue = true → s.get .TXN_STATE_STATE 1 = 3 → s.get .TXN_STATE_STATE 2 = 0 → s.get .TXN_STATE_STATE 3 = 0 →
      s.applyBar 1 = none → (s.txn 1).find 1 = some (i, p) → p < 3 → p ≠ s.get .PWR_CAP_PROFILE →
      ∃ t, exec .quietCommitApply s = .next t ∧ t.get .PWR_CAP_PROFILE = p ∧ t.get .TXN_STATE_STATE 1 = 0 ∧
        t.get .TXN_RESULT_OUTCOME 1 = 1 ∧ t.Irq 8 ∧
        t.get .THERM_POINTS_THROTTLE_C = (if p = 2 then 90 else 95) ∧ t.get .THERM_POINTS_TRIP_C = (if p = 2 then 105 else 110) ∧
        (s.get .PWR_FEED_STAT_SAG = 0 → t.get .PWR_CAP_CAP_W = if p = 0 then 25000 else if p = 2 then 17000 else 21000)) ∧
    (s.commitsDue = true → ∃ t, exec .commitApplyTimeout s = .next t ∧ t.Irq 8 ∧
      ∀ sc, 1 ≤ sc → sc ≤ 3 → s.commitDue (s.get .TXN_STATE_STATE sc) = true →
        t.get .TXN_STATE_STATE sc = 0 ∧ t.get .TXN_RESULT_OUTCOME sc = 2 ∧ t.get .TXN_RESULT_CODE sc = 8)

/-- MEM_IN_PROD_WRITE takes the producer step of a defined ring once no BAR2 write waits that was posted before it, and
records an overrun where it is more than DEPTH ahead of the step count in force;
NUMERICS_RESTART with LOST = 1 starts the initialisation while no step runs, else it is ignored with an event;
NUMERICS_RESTART_DONE leaves the starting values and the header of the numerics area. The model's choices it rests on: log
entries 84, 85 and 148. -/
def Obligations.InputRingsAndRestart : Prop :=
  ∀ s : State,
    (∀ (ring : Fin 8) (v : Word), s.HostReady →
      let ahead : Int := (v - BitVec.ofNat 32 (if s.ran then s.stepCount else s.startStep)).toInt
      (s.get .MEM_IN_CFG_VALID ring ≠ 0 → ∃ t, exec (.memInProdWrite ring v) s = .next t ∧
        t.get .MEM_IN_PROD_STEP ring = v.toNat ∧
        (∀ x, x ∈ t.hostWait → x.2.1 = .bar2 → x.2.2.2.isWrite = false) ∧
        ((∀ x, x ∈ s.hostWait → x.2.1 = .bar2 → x.2.2.2.isWrite = false) →
          s.OnlyRegs t ∧
        (ahead ≤ s.get .MEM_IN_CFG_DEPTH ring → t.log = s.log ∧
          t.get .MEM_IN_STAT_OVERRUNS ring = s.get .MEM_IN_STAT_OVERRUNS ring) ∧
        (s.get .MEM_IN_CFG_DEPTH ring < ahead → t.Newest 0x0306 0 0 ring v.toNat ∧
          t.get .MEM_IN_STAT_OVERRUNS ring = min (s.get .MEM_IN_STAT_OVERRUNS ring + 1) 0xFFFF))) ∧
      (s.get .MEM_IN_CFG_VALID ring = 0 → ∃ t, exec (.memInProdWrite ring v) s = .next t ∧ s.OnlyRegs t ∧
        t.get .MEM_IN_PROD_STEP ring = s.get .MEM_IN_PROD_STEP ring ∧ t.Newest 0x0B01 0 0 0 (0x800210 + 0x20 * ring))) ∧
    (∀ v : Word, s.HostReady →
      let free := s.get .RES_STEP_STATE_PHASE = 0 ∧ s.get .NUM_RESTART_BUSY = 0 ∧ s.hasPlan = true
      (v.getLsbD 0 = false → exec (.numericsRestart v) s = .next s) ∧
      (v.getLsbD 0 = true → free → ∃ t, exec (.numericsRestart v) s = .next t ∧ s.OnlyRegs t ∧
        t.get .NUM_RESTART_BUSY = 1 ∧ t.get .NUM_RESTART_DONE = 0 ∧ t.log = s.log) ∧
      (v.getLsbD 0 = true → ¬ free → ∃ t, exec (.numericsRestart v) s = .next t ∧ s.OnlyRegs t ∧
        t.get .NUM_RESTART_BUSY = s.get .NUM_RESTART_BUSY ∧ t.Newest 0x0B01 0 0 0 0x700150)) ∧
    (s.get .NUM_RESTART_BUSY ≠ 0 → ∃ t, exec .numericsRestartDone s = .next t ∧
      t.get .NUM_RESTART_BUSY = 0 ∧ t.get .NUM_RESTART_DONE = 1 ∧
      t.get .NUM_LS_EXP = (if s.get .NUM_LS_EN ≠ 0 then s.get .NUM_LS_CFG_INIT_EXP % 32 else 0) ∧
      t.get .NUM_LS_CLEAN = 0 ∧ t.get .NUM_LS_STAT_CONSEC = 0 ∧ t.get .NUM_MON_SETTLE_LEFT = 8 ∧
      (∀ tag, tag < 4096 → t.tagExp tag = 0) ∧
      (s.snoop = [] → s.lostStacks = 0 → s.areaBase + 0x221000 ≤ 2 ^ 46 → ∀ k, k < 64 →
        memByte t.mem (s.areaBase + k) = (t.headerLine 0).getD k 0)) ∧
    (s.get .NUM_RESTART_BUSY = 0 → exec .numericsRestartDone s = .next s)

/-! ### Optical ports -/

/-- PORT_TRANSMIT of an ACTIVE port: a flit asked for again goes first, as it was sent (R275); otherwise the first group of
its lowest ready channel, one with a group to send and a credit of the peer's receive buffers left (R273), a MAINT flit that
has waited 63 flit slots ahead of PLAN and GRAD; it takes a credit, has the next sequence number, brings back the credits of
the flits that have left the receive buffers, asks for a replay until the flit missed has come, and is kept for replay and
counted. A paced drain's copy goes at most once in 64 flit slots (R494); with nothing to send an idle flit carries credits
and the replay asked for. PORT_RECEIVE_PACKET: a replay request is taken from every flit, credits from one that is next in
sequence and has room; any other is discarded. An acknowledgement travels on to its writer by the route planned for it, or,
for a packet forwarded from another port, goes on by that port; a write packet whose last flit has come enters the attach
router whole, flit by flit on its entry's route, or, where the entry admits it not, is dropped whole and counted once, the
first with its cause (R287); a system barrier's arrival or release goes to the router's units. The model's choices it rests
on: log entries 31, 35 and 88. -/
def Obligations.PortPackets : Prop :=
  (∀ (s : State) (n : PortRef),
    let p := s.port n
    let q (v : Nat) : List Flit := mget [] p.tx v
    let room (v : Nat) : Nat := [32, 1536, 1536, 768].getD v 0
    let still (v : Nat) : Prop := nextGroup (q v) = [] ∨ room v ≤ mget 0 p.used v
    let active := s.get .OPT_PORT_STATE_STATE n = 7
    let framed (t : State) (k : FibrePacket) : Prop :=
      (t.port n).kept = (k :: p.kept).take 2048 ∧ k.seq = p.txSeq ∧ (t.port n).txSeq = p.txSeq + 1 ∧
        k.replay = (if p.asks then some p.rxSeq else none) ∧ (t.port n).asks = p.asks ∧ t.mem = s.mem ∧ t.cores = s.cores ∧
        ∀ c : Vc, (k.credits.filter (· = c)).length = s.leftPort n c.no ∧
          (mget [] (t.port n).owing c.no).length = (mget [] p.owing c.no).length - s.leftPort n c.no
    let sent (t : State) (k : FibrePacket) : Prop :=
      framed t k ∧ mget 0 (t.port n).used k.vc.no = mget 0 p.used k.vc.no + 1 ∧
        t.get .OPT_PORT_TX_FLITS n = (s.get .OPT_PORT_TX_FLITS n + 1) % 2 ^ 32
    (∀ (vc : Nat) (f : Flit) (rest : List Flit), active → p.resend = [] → p.copies = [] → vc < 4 → f.vc.no = vc →
      q vc = f :: rest → mget 0 p.used vc < room vc →
      ((p.maintWait < 63 ∧ ∀ v, v < vc → still v) ∨ (63 ≤ p.maintWait ∧ vc = 3 ∧ still 0)) →
      (∃ pkt, f.load = .onward pkt ∧ pkt.vc = f.vc) ∨ (∃ far off tag d, f.load = .remote far 0 off tag d) ∨
        (∃ bar v, f.load = .arrival bar v) →
      ∃ t k, exec (.portTransmit n) s = .next t ∧ sent t k ∧ k.vc = f.vc ∧
        mget [] (t.port n).tx vc = rest ∧ (∀ v, v ≠ vc → mget [] (t.port n).tx v = q v) ∧
        (∀ pkt, f.load = .onward pkt → k = { pkt with seq := k.seq, credits := k.credits, replay := k.replay }) ∧
        (∀ far off tag d, f.load = .remote far 0 off tag d →
          k.kind = .write ∧ k.farRoute = BitVec.ofNat 8 far ∧ k.egress = 0 ∧ k.offset = off ∧ k.data = d ∧ k.glazes = [] ∧
            k.last = f.last) ∧
        (∀ bar v, f.load = .arrival bar v → k.kind = .arrival (BitVec.ofNat 6 bar) v)) ∧
    (∀ (paced : Bool) (c : FibrePacket) (rest : List (Bool × FibrePacket)), active → p.resend = [] →
      p.copies = (paced, c) :: rest → (∀ v, v < 3 → still v) → q 3 = [] →
      (paced = true → s.drainsUnpaced = false → p.copyWait < 63 →
        ∃ t, exec (.portTransmit n) s = .next t ∧ (t.port n).copies = p.copies ∧ (t.port n).copyWait = p.copyWait + 1 ∧
          t.get .OPT_PORT_TX_FLITS n = s.get .OPT_PORT_TX_FLITS n) ∧
      (paced = false ∨ s.drainsUnpaced = true ∨ 63 ≤ p.copyWait → mget 0 p.used 3 < 768 →
        ∃ t k, exec (.portTransmit n) s = .next t ∧ sent t k ∧ (t.port n).copies = rest ∧ (t.port n).copyWait = 0 ∧
          k = { c with seq := k.seq, credits := k.credits, replay := k.replay })) ∧
    (active → p.resend = [] → p.copies = [] → (∀ v, v < 4 → still v) →
      let owes := s.creditsDue n ≠ [] ∨ p.asks = true
      (owes → ∃ t k, exec (.portTransmit n) s = .next t ∧ framed t k ∧ k.kind = .idle ∧ (t.port n).tx = p.tx ∧
        (t.port n).used = p.used ∧ t.regs = s.regs) ∧
      (¬ owes → ∃ t, exec (.portTransmit n) s = .next t ∧ (t.port n).kept = p.kept ∧ (t.port n).txSeq = p.txSeq ∧
        (t.port n).tx = p.tx ∧ t.regs = s.regs ∧ t.mem = s.mem)) ∧
    (∀ k ks, active → p.resend = k :: ks → ∃ t, exec (.portTransmit n) s = .next t ∧
      (t.port n).resend = ks ∧ (t.port n).tx = p.tx ∧ (t.port n).used = p.used ∧ (t.port n).txSeq = p.txSeq ∧
      (t.port n).kept.map (·.seq) = p.kept.map (·.seq) ∧ t.mem = s.mem ∧ t.cores = s.cores ∧
      t.get .OPT_PORT_TX_FLITS n = (if k.kind = .idle then s.get .OPT_PORT_TX_FLITS n
        else (s.get .OPT_PORT_TX_FLITS n + 1) % 2 ^ 32)) ∧
    (¬ active → exec (.portTransmit n) s = .next s)) ∧
  (∀ (s : State) (n : PortRef) (k : FibrePacket),
    let p := s.port n
    let entry (x : FibrePacket) : RxEntry := mget ⟨0, 0, 0, 0, false, 0, 0, 0⟩ p.rx x.farRoute.toNat
    let r := portRouter n
    let active := s.get .OPT_PORT_STATE_STATE n = 7
    let room := k.kind = .idle ∨ (mget [] p.owing k.vc.no).length + (p.parts.filter (·.vc = k.vc)).length <
      [32, 1536, 1536, 768].getD k.vc.no 0
    let taken := k.seq = p.rxSeq ∧ room
    let asked (t : State) : Prop := (k.replay = none → (t.port n).resend = p.resend) ∧
      ∀ a, k.replay = some a → (t.port n).resend = (p.kept.filter (fun x => a ≤ x.seq)).reverse
    let owes (t : State) (mesh : Nat) : Prop :=
      mget [] (t.port n).owing k.vc.no = mesh :: mget [] p.owing k.vc.no
    let whole := p.parts.filter (samePacketAs k) ++ [k]
    let owner (x : FibrePacket) : Nat := fibreOwner * (n + 1) + x.writer.no * 4 + x.chan
    let flits (x : FibrePacket) : List Flit :=
      if (entry x).forward then
        [⟨x.vc, .route (entry x).route, .onward { x with farRoute := BitVec.ofNat 8 (entry x).nextFarRoute }, x.last, owner x,
          x.farRoute.toNat⟩]
      else
        let loads := (if x.glazes = [] then [] else [FlitLoad.write ((entry x).glazeBase + x.offset / 128) x.glazes]) ++
          (cutAt 128 ((entry x).base + x.offset / egressPack (entry x).egress) x.data).map (fun y => FlitLoad.write y.1 y.2)
        loads.mapIdx (fun i l => ⟨x.vc, .route (entry x).route, l, x.last && i + 1 = loads.length, owner x, x.farRoute.toNat⟩)
    (¬ active → exec (.portReceivePacket n k) s = .next s) ∧
    (active → ¬ taken → ∃ t, exec (.portReceivePacket n k) s = .next t ∧ asked t ∧
      t = s.setPort n { p with resend := (t.port n).resend }) ∧
    (active → taken → ∃ t, exec (.portReceivePacket n k) s = .next t ∧ asked t ∧ (t.port n).rxSeq = p.rxSeq + 1 ∧
      (t.port n).asks = false ∧
      (∀ v, mget 0 (t.port n).used v = mget 0 p.used v - (k.credits.filter (·.no = v)).length) ∧
      t.get .OPT_PORT_RX_FLITS n = (if k.kind = .idle then s.get .OPT_PORT_RX_FLITS n
        else (s.get .OPT_PORT_RX_FLITS n + max 1 ((k.data.length + 127) / 128)) % 2 ^ 32) ∧
      (k.kind = .idle ∨ k.kind = .copy → t.routers = s.routers ∧ t.mem = s.mem ∧ t.cores = s.cores ∧
        (k.kind = .copy → owes t 0)) ∧
      (k.kind = .ack → s.relayOf k = none → t.mem = s.mem ∧
        (∀ e, s.sourceEntry k.writer.no 2 n k.vc.no = some e → t.cores = s.cores ∧ owes t 1 ∧ t.routers =
          (s.injectAt r 6 [⟨k.vc, .route e.ackRoute, .ack, true, k.writer.no * 4 + k.chan, 0⟩]).routers) ∧
        (∀ j rest, s.sourceEntry k.writer.no 2 n k.vc.no = none → (s.core k.writer.no).chan k.chan = j :: rest →
          (t.core k.writer.no).chan k.chan = { j with acksLeft := j.acksLeft - 1 } :: rest ∧ t.routers = s.routers)) ∧
      (∀ m x, k.kind = .ack → s.relayOf k = some (m, x) → (t.port m).relays = (s.port m).relays.erase x ∧ t.cores = s.cores ∧
        (s.portRoute r m k.vc = none → mget [] (t.port m).tx k.vc.no = mget [] (s.port m).tx k.vc.no ++
          [⟨k.vc, .route 0, .onward (fibreAck k.vc x.entry k.writer k.chan), true, 0, 0⟩]) ∧
        (∀ id, s.portRoute r m k.vc = some id → t.routers = (s.injectAt r 6
          [⟨k.vc, .route id, .onward (fibreAck k.vc x.entry k.writer k.chan), true, 0, 0⟩]).routers)) ∧
      (k.kind = .write → k.last = false → (t.port n).parts = p.parts ++ [k] ∧ t.routers = s.routers ∧ t.mem = s.mem ∧
        t.job = s.job) ∧
      (k.kind = .write → k.last = true → (∀ x ∈ whole, s.rxBad (entry x) x = none) →
        (t.port n).parts = p.parts.filter (fun x => !samePacketAs k x) ∧ t.mem = s.mem ∧ t.job = s.job ∧
        t.routers = (whole.foldl (fun u x => u.injectAt r 6 (flits x)) s).routers) ∧
      (∀ cause, k.kind = .write → k.last = true → whole.findSome? (fun x => s.rxBad (entry x) x) = some cause →
        (t.port n).parts = p.parts.filter (fun x => !samePacketAs k x) ∧
        t.get .OPT_PORT_CTRL_RX_DROPS n = min (s.get .OPT_PORT_CTRL_RX_DROPS n + 1) 0xFFFF ∧ t.get .OPT_EVENTS_RX_DROP = 1 ∧
        (s.get .OPT_PORT_CTRL_RX_DROPS n = 0 → t.get .OPT_PORT_CTRL_DROP_CAUSE n = cause ∧ t.job = false) ∧
        (s.get .OPT_PORT_CTRL_RX_DROPS n ≠ 0 → t.routers = s.routers ∧ t.job = s.job ∧ t.log = s.log ∧ t.mem = s.mem)) ∧
      (∀ id v, k.kind = .arrival id v → t.mem = s.mem ∧ owes t 1 ∧ t.routers = (s.injectAt r 6
        [⟨.sync, .unit 6, .arrival (256 + id.toNat) v, true, 0, 0⟩]).routers) ∧
      (∀ id v, k.kind = .release id v → t.mem = s.mem ∧ owes t 1 ∧ t.routers = (s.injectAt r 6
        [⟨.sync, .unit 6, .release (256 + id.toNat) v none, true, 0, 0⟩]).routers)))

/-- A training pass ends in DARK, LOCKING, REFUSED, LANES_UP or TRAINED with the cause of what it met first; a port that the
loaded image enables and that finds the peer it expects, or, with no expectation, the same peer as before, waits to become
active; with no expectation and another peer it is TRAINED and no longer enabled. The model's choices it rests on: log entry
89. -/
def Obligations.PortTraining : Prop :=
  ∀ (s : State) (n : PortRef) (l : PortLight), (s.port n).training = true → s.trainable n = true →
    ∃ t, exec (.portTrainingPass n l) s = .next t ∧ (t.port n).training = false ∧ t.mem = s.mem ∧ t.job = s.job ∧
      t.get .OPT_PORT_LINK_RETRAINS n = min (s.get .OPT_PORT_LINK_RETRAINS n + 1) 0xFFFF ∧
      t.get .OPT_PORT_STATE_DARK_LANES n = l.darkLanes.toNat ∧
      let ends (st cause : Nat) : Prop := t.get .OPT_PORT_STATE_STATE n = st ∧ t.get .OPT_PORT_STATE_CAUSE n = cause
      (l.darkLanes ≠ 0 → ends 1 0 ∧ t.get .OPT_PORT_PEER_VALID n = 0) ∧
      (l.darkLanes = 0 → l.locks = false → ends 2 0 ∧ t.get .OPT_PORT_PEER_VALID n = 0) ∧
      (l.darkLanes = 0 → l.locks = true → l.laneError = true → ends 5 7 ∧ t.get .OPT_PORT_PEER_VALID n = 0) ∧
      (l.darkLanes = 0 → l.locks = true → l.laneError = false →
        (t.get .OPT_PORT_STATE_REMAPPED n = if l.exchanged then 1 else 0) ∧
        (s.get .RES_MODULE_ID_ASSIGNED = 0 → ends 3 5) ∧
        (s.get .RES_MODULE_ID_ASSIGNED ≠ 0 → l.peerId = none → ends 3 6) ∧
        ∀ peer, s.get .RES_MODULE_ID_ASSIGNED ≠ 0 → l.peerId = some peer →
          t.get .OPT_PORT_PEER_VALID n = 1 ∧ t.get .OPT_PORT_PEER_MODULE_ID n = peer.toNat ∧
          t.get .OPT_PORT_PEER_TILE n = l.peerTile.toNat ∧ t.get .OPT_PORT_PEER_PORT n = l.peerPort.toNat ∧
          t.get .OPT_PORT_LINK_FIBRE_NS n = min l.fibreNs 2047 ∧
          (peer.toNat = s.get .RES_MODULE_ID_MODULE_ID → ends 5 2) ∧
          (peer.toNat ≠ s.get .RES_MODULE_ID_MODULE_ID → 1000 < l.fibreNs → ends 5 3) ∧
          (peer.toNat ≠ s.get .RES_MODULE_ID_MODULE_ID → l.fibreNs ≤ 1000 → l.peerRefuses = true → ends 5 4) ∧
          (peer.toNat ≠ s.get .RES_MODULE_ID_MODULE_ID → l.fibreNs ≤ 1000 → l.peerRefuses = false →
            let met (x : PortRec) : Prop :=
              x.moduleId = peer.toNat ∧ x.tile = l.peerTile.toNat ∧ x.peerPort = l.peerPort.toNat
            (∀ x, (s.port n).expect = some x → x.expect = true → ¬ met x → ends 5 1) ∧
            ((∀ x, (s.port n).expect = some x → x.expect = true → met x) →
              (s.get .OPT_PORT_STATE_ENABLED n = 0 → ends 4 0) ∧
              (s.get .OPT_PORT_STATE_ENABLED n ≠ 0 → (∃ x, (s.port n).expect = some x ∧ x.expect = true) → ends 6 0) ∧
              (s.get .OPT_PORT_STATE_ENABLED n ≠ 0 → (∀ x, (s.port n).expect = some x → x.expect = false) →
                let same := s.get .OPT_PORT_PEER_MODULE_ID n = peer.toNat ∧ s.get .OPT_PORT_PEER_TILE n = l.peerTile.toNat ∧
                  s.get .OPT_PORT_PEER_PORT n = l.peerPort.toNat
                (same → ends 6 0) ∧ (¬ same → ends 4 0 ∧ t.get .OPT_PORT_STATE_ENABLED n = 0)))))

/-- What else happens to a port's link: timers and RETRAIN ask for a pass, link losses and engine faults take it down and
fault a job that runs, DISABLE turns it off unless the loaded image enables it, PORT_PEER_ENABLE makes it ACTIVE. FEC
replays and corrections are counted, and the next flit sent asks for the replay; the sixteenth replay in a row of one flit
loses an enabled link; a rate above OPT_FEC_LIMIT
raises FEC_HIGH. An engine fault fails the fitted ports of its tile and no other. The model's choices it rests on: log entry
89. -/
def Obligations.PortStates : Prop :=
  (∀ (s : State) (n : PortRef),
    let st := s.get .OPT_PORT_STATE_STATE n
    let idle := st ≠ 6 ∧ st ≠ 7
    (s.trainable n = true → st = 1 ∨ st = 2 ∨ st = 3 ∨ st = 5 → ∃ t, exec (.portRetrainTimer n) s = .next t ∧
      (t.port n).training = true ∧ t.regs = s.regs ∧ t.mem = s.mem) ∧
    (s.trainable n = false ∨ st = 4 ∨ st = 6 ∨ st = 7 → exec (.portRetrainTimer n) s = .next s) ∧
    (∀ why : LinkLoss, (idle → exec (.portLinkLost n why) s = .next s) ∧
      (st = 6 ∨ st = 7 → ∃ t, exec (.portLinkLost n why) s = .next t ∧
        (∀ lanes, why = .dark lanes → t.get .OPT_PORT_STATE_STATE n = 1 ∧ t.get .OPT_PORT_STATE_DARK_LANES n = lanes.toNat) ∧
        (why = .lock ∨ why = .replays → t.get .OPT_PORT_STATE_STATE n = 2 ∧ t.get .OPT_PORT_STATE_DARK_LANES n = 0) ∧
        t.get .OPT_PORT_PEER_VALID n = 0 ∧ (t.port n).training = true ∧ (t.port n).tx = [] ∧ t.get .OPT_EVENTS_LOST = 1 ∧
        t.job = false ∧ (s.job = true → t.get .RES_FAULT_CAUSE = 4))) ∧
    (st = 4 ∨ st = 6 ∨ st = 7 → ∃ t, exec (.portPeerEnable n) s = .next t ∧ t.get .OPT_PORT_STATE_PEER_ENABLED n = 1 ∧
      t.get .OPT_PORT_STATE_STATE n = (if st = 6 then 7 else st) ∧ t.mem = s.mem) ∧
    (st ≠ 4 ∧ idle → exec (.portPeerEnable n) s = .next s) ∧
    (∀ lanes : BitVec 8, (1 ≤ st ∧ st ≤ 5 ∧ lanes ≠ 0 → ∃ t, exec (.receiveLaneDark n lanes) s = .next t ∧
        t.get .OPT_PORT_STATE_STATE n = 1 ∧ t.get .OPT_PORT_PEER_VALID n = 0 ∧ t.job = s.job ∧
        t.get .OPT_PORT_STATE_DARK_LANES n = (s.get .OPT_PORT_STATE_DARK_LANES n ||| lanes.toNat) % 256) ∧
      (st = 0 ∨ 5 < st ∨ lanes = 0 → exec (.receiveLaneDark n lanes) s = .next s)) ∧
    (s.HostReady → s.portFitted n = true → st ≠ 8 → s.get .OPT_PORT_STATE_ENABLED n = 0 →
      (∀ v : Word, v.getLsbD 0 = true → s.get .OPT_PORT_CTRL_DISABLE n = 0 → ∃ t, exec (.portDisable n v) s = .next t ∧
        t.get .OPT_PORT_STATE_STATE n = 9 ∧ t.get .OPT_PORT_CTRL_DISABLE n = 1 ∧ t.get .OPT_PORT_PEER_VALID n = 0 ∧
        (t.port n).tx = []) ∧
      (∀ v : Word, v.getLsbD 0 = false → s.get .OPT_PORT_CTRL_DISABLE n = 1 → ∃ t, exec (.portDisable n v) s = .next t ∧
        t.get .OPT_PORT_STATE_STATE n = 1 ∧ t.get .OPT_PORT_CTRL_DISABLE n = 0 ∧ (t.port n).training = true) ∧
      (s.get .OPT_PORT_CTRL_DISABLE n = 0 → ∃ t, exec (.portRetrain n) s = .next t ∧ (t.port n).training = true ∧
        t.get .OPT_PORT_STATE_STATE n = st ∧ t.mem = s.mem)) ∧
    (s.HostReady → s.portFitted n = true → s.get .OPT_PORT_STATE_ENABLED n ≠ 0 → ∀ v : Word,
      ∃ t, exec (.portDisable n v) s = .next t ∧ s.OnlyRegs t ∧ t.Newest 0x0B01 0 0 0 (0x90101C + 0x20 * n) ∧
        t.get .OPT_PORT_STATE_STATE n = st ∧ t.get .OPT_PORT_CTRL_DISABLE n = s.get .OPT_PORT_CTRL_DISABLE n)) ∧
  ((∀ (s : State) (n : PortRef) (same : Bool),
    let st := s.get .OPT_PORT_STATE_STATE n
    let failed := if same then (s.port n).failed + 1 else 1
    (st ≠ 4 → st ≠ 6 → st ≠ 7 → exec (.fecReplay n same) s = .next s) ∧
    (st = 4 ∨ st = 6 ∨ st = 7 → ∃ t, exec (.fecReplay n same) s = .next t ∧
      t.get .OPT_PORT_FEC_BAD_UNCORRECTABLE n = min (s.get .OPT_PORT_FEC_BAD_UNCORRECTABLE n + 1) 0xFFFF ∧
      t.get .OPT_PORT_FEC_BAD_REPLAYS n = min (s.get .OPT_PORT_FEC_BAD_REPLAYS n + 1) 0xFFFF ∧
      (failed < 16 ∨ st = 4 → t.mem = s.mem ∧ (t.port n).failed = failed ∧ (t.port n).asks = true ∧ t.get .OPT_PORT_STATE_STATE n = st ∧ t.job = s.job ∧
        ((s.port n).logged = true → t.log = s.log) ∧ ((s.port n).logged = false → t.Newest 0x0504 1 n 0 0)) ∧
      (16 ≤ failed → st ≠ 4 → t.get .OPT_PORT_STATE_STATE n = 2 ∧ t.get .OPT_PORT_PEER_VALID n = 0 ∧ t.job = false))) ∧
  (∀ (s : State) (n : PortRef) (corrected : Nat),
    let lim := s.get .OPT_FEC_LIMIT_LIMIT
    (s.portFitted n = false → exec (.fecRateCheck n corrected) s = .next s) ∧
    (s.portFitted n = true → ∃ t, exec (.fecRateCheck n corrected) s = .next t ∧ s.OnlyRegs t ∧
      t.get .OPT_PORT_FEC_CW_CORRECTED n = (s.get .OPT_PORT_FEC_CW_CORRECTED n + corrected) % 2 ^ 32 ∧
      (lim ≠ 0 → lim < corrected → t.get .OPT_EVENTS_FEC_HIGH = 1 ∧ t.Irq 14) ∧
      (lim = 0 ∨ corrected ≤ lim → t.get .OPT_EVENTS_FEC_HIGH = s.get .OPT_EVENTS_FEC_HIGH))) ∧
  (∀ (s : State) (tile : Fin 40), ∃ t, exec (.opticalEngineFault tile) s = .next t ∧ (s.job = false → t.mem = s.mem) ∧
    ∀ m : PortRef, (m.val / 4 = tile.val ∧ s.portFitted m = true →
        t.get .OPT_PORT_STATE_STATE m = 8 ∧ t.get .OPT_PORT_STATE_CAUSE m = 8 ∧ t.get .OPT_PORT_PEER_VALID m = 0 ∧
        (s.get .OPT_PORT_STATE_ENABLED m ≠ 0 ∨ (6 ≤ s.get .OPT_PORT_STATE_STATE m ∧ s.get .OPT_PORT_STATE_STATE m ≤ 7) →
          t.job = false)) ∧
      (m.val / 4 ≠ tile.val ∨ s.portFitted m = false →
        t.get .OPT_PORT_STATE_STATE m = s.get .OPT_PORT_STATE_STATE m)))

/-! ### Eloap -/

/-- A command does nothing before its turn, completes with 0x03 until the module is READY and with 0x08 out of band where
OOB_ADMIN does not admit it. A completion goes to the mailbox, the out-of-band endpoint or the ring's CQ, whose tail moves
on and whose phase turns as it wraps, and waits while the host caches its line (R398); an orphan's is discarded. The model's choices it rests on: log entries 40 and 41. -/
def Obligations.CommandsTakeTurns : Prop :=
  (∀ (s : State) (i : Instr) (c : Ctx), commandOf i = some c →
    let always := i.opcode = 0x60 ∨ i.opcode = 0x61
    let ready := s.get .RES_START_STATE_READY ≠ 0
    (s.turn c i = false → exec i s = .next s) ∧
    (s.turn c i = true → ¬ ready → ¬ always → s.Answers i c 3 0 0 0 s) ∧
    (s.turn c i = true → ready ∨ always → c.src.oob = true → adminOpcode i.opcode = true → s.policyBit 0 = false →
      s.Answers i c 8 0 0 0 s)) ∧
  (∀ (s : State) (c : Ctx) (op status detail r0 r1 : Nat), s.OnlyCommand c op →
    let t := s.complete c op status detail r0 r1
    let u : State := { s with accepted := [] }
    let bytes (phase : Nat) : List Byte := completionBytes c.tag op status phase c.src.code detail r0 r1
    (c ∈ s.orphans → t = { u with orphans := s.orphans.erase c }) ∧
    (c ∉ s.orphans → c.src = .mailbox → u.OnlyRegs t ∧ t.MailDone (bytes 0)) ∧
    (c ∉ s.orphans → c.src = .oobSmbus → t = { u with
      oobOut := s.oobOut ++ [1 :: bytes 0], oobBusy := s.oobBusy &&& 2, smbusDriving := false }) ∧
    (c ∉ s.orphans → c.src = .oobPcie → t = { u with oobOut := s.oobOut ++ [1 :: bytes 0], oobBusy := s.oobBusy &&& 1 }) ∧
    ∀ r : Fin 4, c ∉ s.orphans → c.src = .ring r → s.get .HOST_RING_CFG_SIZE r ≤ 8 →
      let far := s.get .HOST_RING_CFG_HOST_MEM r ≠ 0
      let tail := s.get .HOST_CQ_TAIL_INDEX r
      let after := (tail + 1) % s.ringEntries r
      let entry := bytes (if s.phase.getLsbD r then 1 else 0)
      let a := s.cqBase r + 32 * tail
      (s.cqHeld r = true → t = { u with cqWait := s.cqWait ++ [(r.val, c.irq, bytes 0)] }) ∧
      ((∀ w ∈ s.cqWait, w.1 ≠ r.val) → far ∨ (s.NoErrors ∧ s.snoop = []) →
        t.accepted = [] ∧ t.get .HOST_CQ_TAIL_INDEX r = after ∧
        t.phase = (if after = 0 then s.phase ^^^ BitVec.ofNat 4 (2 ^ r.val) else s.phase) ∧
        (c.irq = true → t.Irq (1 + r.val)) ∧ (c.irq = false → t.word .HOST_IRQ_STATUS_SRC = s.word .HOST_IRQ_STATUS_SRC) ∧
        (far → t.hostMem = msetRange 0 s.hostMem a entry ∧ t.mem = s.mem) ∧
        (¬ far → t.hostMem = s.hostMem ∧
          ∀ y, memByte t.mem y = if a ≤ y ∧ y < a + 32 then entry.getD (y - a) 0 else memByte s.mem y)))

/-- TXN_BEGIN opens a scope's transaction with the next sequence number, TXN_WRITE stages an item at its place, TXN_COMMIT
applies the transaction, makes it pending or ends it with outcome 2 and its code (a patch waits for the clocks of the regions
it raises), TXN_ROLLBACK ends it with outcome 3, and TXN_TIMEOUT with outcome 4 once its seconds, as of TXN_BEGIN, have
passed. The model's choices it rests on: log entries 9, 59 and 62. -/
def Obligations.Transactions : Prop :=
  ∀ (s : State) (c : Ctx) (sc : Fin 4),
    let st := s.get .TXN_STATE_STATE sc
    let x := s.txn sc
    let ended (m : State) (outcome code item : Nat) : Prop :=
      m.get .TXN_STATE_STATE sc = 0 ∧ m.get .TXN_STATE_ITEMS sc = 0 ∧ m.get .TXN_RESULT_OUTCOME sc = outcome ∧
        m.get .TXN_RESULT_CODE sc = code ∧ m.get .TXN_RESULT_ITEM sc = item % 4096 ∧ (m.txn sc).items = []
    (∀ set : RegionSet, s.Admits c (.txnBegin c sc set) →
      let i : Instr := .txnBegin c sc set
      let wrong := sc = 0 ↔ set = 0
      (wrong → s.Answers i c 2 0 0 0 s) ∧
      (¬ wrong → st ≠ 0 → s.Answers i c 6 9 0 0 s) ∧
      (¬ wrong → st = 0 → ∃ m, let seq := (s.get .TXN_AGE_SEQ sc + 1) % 65536
        s.Answers i c 0 0 seq 0 m ∧ m.get .TXN_STATE_STATE sc = 1 ∧ m.get .TXN_STATE_ITEMS sc = 0 ∧
        m.get .TXN_STATE_REQUESTER sc = requesterOf c.src ∧ m.get .TXN_AGE_SEQ sc = seq ∧ (m.txn sc).items = [] ∧
        (m.txn sc).regions = set ∧ (m.txn sc).timeout = s.get .TXN_TIMEOUT_SECONDS ∧ (m.txn sc).startFc = s.fc ∧ m.log = s.log ∧ m.mem = s.mem ∧
        ∀ o : Fin 4, o ≠ sc → m.get .TXN_STATE_STATE o = s.get .TXN_STATE_STATE o ∧ m.txn o = s.txn o)) ∧
    (∀ (k : Word) (v : BitVec 64), s.Admits c (.txnWrite c k v) →
      let i : Instr := .txnWrite c k v
      (4 ≤ keyScope k → s.Answers i c 6 9 0 0 s) ∧
      (keyScope k = sc → st ≠ 1 → s.Answers i c 6 9 0 0 s) ∧
      (keyScope k = sc → st = 1 → 4096 ≤ x.items.length → s.Answers i c 3 0 0 0 s) ∧
      (keyScope k = sc → st = 1 → x.items.length < 4096 → ∃ m n, s.Answers i c 0 0 n 0 m ∧
        m.get .TXN_STATE_STATE sc = 1 ∧ m.get .TXN_STATE_ITEMS sc = (m.txn sc).items.length ∧ m.log = s.log ∧ m.mem = s.mem ∧
        (x.items.findIdx? (·.1 = k) = none → n = x.items.length ∧ (m.txn sc).items = x.items ++ [(k, v)]) ∧
        ∀ j, x.items.findIdx? (·.1 = k) = some j → n = j ∧
          (m.txn sc).items = x.items.map (fun e => if e.1 = k then (k, v) else e))) ∧
    (∀ quiet : Bool, s.Admits c (.txnCommit c sc quiet) →
      let i : Instr := .txnCommit c sc quiet
      let steps := s.get .RES_STEP_STATE_PHASE ≠ 0
      let loaded := s.get .IMG_STATE_STATE = 2
      let passes := s.commitBar sc quiet = none ∧ s.commitBad sc = none ∧ (sc = 0 → s.get .FUSE_REQ_CTRL_BUSY = 0)
      (st ≠ 1 → s.Answers i c 6 9 0 0 s) ∧
      (st = 1 → sc = 0 ∨ sc = 2 → ¬ loaded → ∃ m, s.Answers i c 6 7 0 0 m ∧ ended m 2 7 0) ∧
      (st = 1 → (sc = 0 ∧ loaded ∧ (quiet = true ∨ s.noJob = false)) ∨ (sc = 3 ∧ quiet = false ∧ steps) →
        ∃ m, s.Answers i c 6 6 0 0 m ∧ ended m 2 6 0) ∧
      (s.commitBar sc quiet = none → sc = 0 → s.get .FUSE_REQ_CTRL_BUSY ≠ 0 → s.Answers i c 3 0 0 0 s) ∧
      (∀ code item, s.commitBar sc quiet = none → (sc = 0 → s.get .FUSE_REQ_CTRL_BUSY = 0) →
        s.commitBad sc = some (code, item) → ∃ m, s.Answers i c 6 code 0 0 m ∧ ended m 2 code item) ∧
      (passes → sc ≠ 0 → quiet = true ∧ steps →
        ∃ m, s.Answers i c 0 0 1 0 m ∧ m.get .TXN_STATE_STATE sc = 2 ∧ m.txns = s.txns) ∧
      (passes → sc = 2 → ¬ (quiet = true ∧ steps) → ∃ m, s.Answers i c 0 0 0 0 m ∧ ended m 1 0 0 ∧
        ∀ v : BitVec 64, x.items = [(0x20000003, v)] → m.get .NUM_LS_CFG_SKIP_LIMIT = v.toNat) ∧
      (passes → sc = 1 → ¬ (quiet = true ∧ steps) →
        (∀ j p, s.applyBar 1 = none → x.find 1 = some (j, p) → ∃ m, s.Answers i c 0 0 0 0 m ∧ ended m 1 0 0 ∧
          m.get .PWR_CAP_PROFILE = p) ∧
        (∀ j why, s.applyBar 1 = some (j, why) → ∃ m, s.Answers i c 6 4 0 0 m ∧ ended m 2 4 j ∧
          m.get .PWR_CAP_PROFILE = s.get .PWR_CAP_PROFILE ∧ (∀ r, why = some r → m.get .TXN_COND_VALID 1 = 1))) ∧
      (∀ j p, passes → sc = 3 → ¬ (quiet = true ∧ steps) → s.pairing = none → x.find 1 = some (j, p) →
        (s.pairBar p = none → ∃ t, exec i s = .next t ∧ t.get .TXN_STATE_STATE sc = 3 ∧
          t.pairing = some ⟨some c, p, true⟩ ∧ c ∈ t.inProgress ∧
          t.accepted = s.accepted ++ (if (s.firstOf c.src).isSome then [] else [(c, leBytes 2 0x12)])) ∧
        (∀ d, s.pairBar p = some d → ∃ m, s.Answers i c 6 0x0A 0 0 m ∧ ended m 2 0x0A j ∧ m.get .RES_PAIR_REFUSAL = d)) ∧
      (∀ j addr, passes → sc = 0 → x.find 1 = some (j, addr) →
        (∀ r, (s.judgePatch addr x.regions).2 = .error r → ∃ m, s.Answers i c 6 5 0 0 m ∧ ended m 2 5 j ∧
          m.get .IMG_RESULT_CODE = r.1 % 256 ∧ m.get .IMG_RESULT_PATCH = 1 ∧ m.image = s.image) ∧
        (∀ u whole new d, s.judgePatch addr x.regions = (u, .ok (whole, new, d)) →
          ((u.raiseRegions new).clocksRun new = false → exec i s = .next s) ∧
          ((u.raiseRegions new).clocksRun new = true → ∃ m, s.Answers i c 0 0 0 0 m ∧ ended m 1 0 0 ∧
            m.image = some whole ∧ m.get .IMG_RESULT_CODE = 0 ∧
            m.patchChain = digest (leBytes 64 s.patchChain.toNat ++ leBytes 64 d.toNat))))) ∧
    (s.Admits c (.txnRollback c sc) →
      (st = 1 ∨ st = 2 → ∃ m, s.Answers (.txnRollback c sc) c 0 0 0 0 m ∧ ended m 3 0 0) ∧
      (st ≠ 1 → st ≠ 2 → s.Answers (.txnRollback c sc) c 6 9 0 0 s)) ∧
    (st = 1 → x.startFc + 1400000000 * x.timeout ≤ s.fc →
      ∃ t, exec (.txnTimeout sc) s = .next t ∧ ended t 4 0 0 ∧ t.Irq 8) ∧
    (st ≠ 1 ∨ s.fc < x.startFc + 1400000000 * x.timeout → exec (.txnTimeout sc) s = .next s)

/-- LOAD_IMAGE: what bars it leaves everything as it stands; a rejected image leaves none loaded, with the code; an accepted
one unloads the old and is applied by LOAD_IMAGE_DONE once the clocks of the regions it raises run, if the staged bytes
still have its digest; else what its tables have written stays and no image is loaded (R375). The model's choices it rests
on: log entries 9, 42, 44 and 57. -/
def Obligations.ImageLoading : Prop :=
  (∀ (s : State) (c : Ctx) (addr : BitVec 64), s.Admits c (.loadImage c addr) →
    let i : Instr := .loadImage c addr
    let a := addr.toNat
    let placed := a % 4096 = 0 ∧ a < s.ringTop
    let unloaded (m : State) : Prop := m.image = none ∧ m.job = false ∧
      (∀ sc : Fin 4, sc = 0 ∨ sc = 2 → s.get .TXN_STATE_STATE sc ≠ 0 →
        m.get .TXN_STATE_STATE sc = 0 ∧ m.get .TXN_RESULT_OUTCOME sc = 6)
    let rejected (m : State) (code : Nat) : Prop := unloaded m ∧ m.get .IMG_STATE_STATE = 0 ∧
      m.get .IMG_RESULT_CODE = code % 256 ∧ m.get .IMG_RESULT_PATCH = 0 ∧ m.loading = s.loading
    (¬ placed → s.Answers i c 2 0 0 0 s) ∧
    (placed → s.get .PWR_LADDER_MODULE ≠ 0 → s.Answers i c 4 0 0 0 s) ∧
    (placed → s.get .PWR_LADDER_MODULE = 0 → s.ringAsleep = false →
      (s.get .FUSE_REQ_CTRL_BUSY ≠ 0 → s.Answers i c 3 0 0 0 s) ∧
      (s.get .FUSE_REQ_CTRL_BUSY = 0 → s.noJob = false → ∃ m, s.Answers i c 6 0x30 0 0 m ∧ s.OnlyRegs m ∧
        m.get .IMG_RESULT_CODE = 0x30) ∧
      (s.get .FUSE_REQ_CTRL_BUSY = 0 → s.noJob = true → s.topCovers (s.peekTop a) = true → s.Answers i c 5 0 0 0 s)) ∧
    (s.loadBar a = none →
      (∀ r, (s.unload.inspect 0 a).2 = .error r → ∃ m, s.Answers i c 6 r.1 0 0 m ∧ rejected m r.1) ∧
      ∀ u h p, s.unload.inspect 0 a = (u, .ok (h, p)) →
        (∀ r, u.stages p (some a) = some r → ∃ m, s.Answers i c 6 r.1 0 0 m ∧ rejected m r.1) ∧
        (u.stages p (some a) = none → ∃ t, exec i s = .next t ∧ unloaded t ∧ t.get .IMG_STATE_STATE = 1 ∧
          t.loading = some ⟨some c, a, p.im⟩ ∧ c ∈ t.inProgress ∧
          t.accepted = s.accepted ++ (if (s.firstOf c.src).isSome then [] else [(c, leBytes 2 0x01)])))) ∧
  (∀ s : State, s.loading = none → exec .loadImageDone s = .next s) ∧
  (∀ (s : State) (j : LoadJob), s.loading = some j → (s.raiseRegions j.image).clocksRun j.image = false →
    ∃ t, exec .loadImageDone s = .next t ∧ t.loading = s.loading ∧ t.image = s.image ∧ t.cores = s.cores ∧
      t.get .IMG_STATE_STATE = s.get .IMG_STATE_STATE) ∧
  (∀ (s : State) (c : Ctx) (a : Nat) (im : Image), s.loading = some ⟨some c, a, im⟩ →
    (s.raiseRegions im).clocksRun im = true → s.NoErrors → s.snoop = [] → s.snoopWait = [] → im.preloads = [] →
    a + im.length ≤ 2 ^ 46 →
    let body := memRead s.mem (a + 0x700) (im.length - 0x700)
    (digest body = im.digest → ∃ m : State, exec .loadImageDone s = .next (m.complete c 1 0 0 0 0) ∧ m.image = some im ∧
      m.loading = none ∧ m.get .IMG_STATE_STATE = 2 ∧ m.get .IMG_RESULT_CODE = 0 ∧ m.stepCount = 0 ∧
      m.get .IMG_ARB_ARB = im.arb % 128 ∧ m.get .PWR_PLAN_PLANNED_W = im.plannedW % 65536 ∧
      (∀ w, w < 16 → m.get .IMG_DIGEST_WORD w = bits im.digest.toNat (32 * w) 32) ∧
      ∀ p, (m.core p).sregs = [] ∧ (m.core p).vregs = [] ∧ (m.core p).chans = []) ∧
    (digest body ≠ im.digest → ∃ m : State, exec .loadImageDone s = .next (m.complete c 1 6 0x31 0 0) ∧ m.image = none ∧
      m.left = some im ∧ m.stepCount = s.stepCount ∧ m.loading = none ∧ m.get .IMG_STATE_STATE = 0 ∧
      m.get .IMG_RESULT_CODE = 0x31))

/-- RUN releases every used core at pc 0 with cleared registers and counters and begins the first quiet point of a stepped
image; HALT stops the running cores, ends the step and abandons the open barriers, and completes once no partner's commit
is left; SECURE_NOW is only logged without a stepped job and a partner, starts or hastens the step's drain in the stable
window, an earlier drain going on beside it, and is deferred outside it, or merges into a request due at the quiet point in
progress. The model's choices it rests on: log entries 9, 38, 46, 47, 83 and 152. -/
def Obligations.RunHaltSecureNow : Prop :=
  ∀ (s : State) (c : Ctx),
    (s.Admits c (.run c) →
      let i : Instr := .run c
      let stands := s.get .IMG_STATE_STATE = 2 ∧ s.job = false ∧ s.noJob = true ∧ s.get .PWR_LADDER_MODULE = 0
      let cool := s.get .RES_COOL_CHECK_STATE = 2
      (s.scanDriven = true → s.Answers i c 8 0 0 0 s) ∧
      (s.scanDriven = false → ¬ cool → s.Answers i c 4 0x10 0 0 s) ∧
      (s.scanDriven = false → cool → ¬ stands → s.Answers i c 4 0 0 0 s) ∧
      (s.scanDriven = false → cool → stands → s.get .NUM_RESTART_BUSY ≠ 0 → s.Answers i c 3 0 0 0 s) ∧
      (s.runBar = none → s.image ≠ none → s.usedCores ≠ [] → (∀ p ∈ s.usedCores, p < 27200) →
        (s.hasPlan = true → s.NoErrors ∧ s.snoop = [] ∧ s.snoopWait = []) →
        ∃ m, s.Answers i c 0 0 0 0 m ∧ m.job = true ∧ m.runFc = s.fc ∧ m.stepCount = s.startStep ∧
          (m.get .RES_STEP_STATE_BUF_SEL = if s.get .RES_STEP_CTRL_START_BUF ≠ 0 then 1 else 0) ∧ m.image = s.image ∧
          (∀ p ∈ s.usedCores, m.get .CORE_STATUS_STATE p = 1 ∧ m.get .CORE_PC_PC p = 0 ∧ m.get .CORE_ISSUED_COUNT p = 0 ∧
            (m.core p).sregs = [] ∧ (m.core p).vregs = [] ∧ (m.core p).preds = 1 ∧
            (m.core p).istore = (s.core p).istore) ∧
          (s.hasPlan = true → m.get .RES_STEP_STATE_PHASE = 7 ∧ (∃ q, m.quiet = some q ∧ q.first = true) ∧
            (s.get .NUM_PAGE_ADDR + 64 ≤ 0x100000 → ∀ p ∈ s.usedCores, ∀ k, k < 64 →
              memByte m.mem (nearAddr p (s.get .NUM_PAGE_ADDR) + k) = (m.pageBytes false).getD k 0)))) ∧
    (s.Admits c (.halt c) →
      (s.job = false → s.Answers (.halt c) c 0 1 0 0 s) ∧
      (s.job = true →
        let halted (m : State) : Prop := m.job = false ∧ m.get .RES_STEP_STATE_PHASE = 0 ∧
          m.get .RES_STEP_STATE_STABLE = 0 ∧ m.quiet = none ∧ m.deferred = false ∧ m.due = false ∧
          (∀ k, (m.barrier k).complete = (m.barrier k).released) ∧
          ∀ p ∈ s.usedCores, p < 27200 → m.get .CORE_STATUS_STALLED p = 0 ∧
            m.get .CORE_STATUS_STATE p = if s.get .CORE_STATUS_STATE p = 1 then 0 else s.get .CORE_STATUS_STATE p
        let waits := 2 ≤ s.stopJob.get .TXN_STATE_STATE 3
        (s.get .TXN_STATE_STATE 3 < 2 → ¬ waits) ∧
        (¬ waits → ∃ m, s.Answers (.halt c) c 0 0 0 0 m ∧ m.halting = none ∧ halted m) ∧
        (waits → ∃ t, exec (.halt c) s = .next t ∧ t.halting = some c ∧ halted t))) ∧
    (s.Admits c (.secureNow c) →
      let i : Instr := .secureNow c
      let idle := s.job = false ∨ s.get .RES_PAIR_IN_EFFECT = 0 ∨ s.get .RES_STEP_STATE_PHASE = 0
      let stable := s.get .RES_STEP_STATE_STABLE ≠ 0
      (idle → ∃ m, s.Answers i c 4 0 0 0 m ∧ s.OnlyRegs m ∧ m.Newest 0x0901 0 0 4 0) ∧
      (¬ idle → ¬ stable → ∃ m, s.Answers i c 0 1 0 0 m ∧ m.due = s.due ∧ m.deferred = (s.deferred || !s.due) ∧
        m.drain = s.drain ∧ m.replies = s.replies ∧
        m.get .MNT_DRAIN_STATE = if s.drain.isSome ∨ s.replies ≠ [] then 3 else 2) ∧
      (¬ idle → stable → s.drainOf s.stepCount = false →
        (∀ n, s.lastDrain = some n → n.toNat ≠ s.stepCount) → s.stepCount < 2 ^ 64 → s.partnerPorts ≠ [] →
        ∃ m d, m.replies = s.replies ++ s.drain.toList ∧ s.Answers i c 0 0 0 0 m ∧ m.drain = some d ∧ d.step.toNat = s.stepCount ∧ d.urgent = true ∧
          d.unpaced = true ∧ d.flagged = false ∧ d.readDone = false ∧ m.deferred = s.deferred ∧
          m.get .MNT_DRAIN_STATE = (if s.deferred ∨ s.due then 3 else 1) ∧ m.get .MNT_DRAIN_UNPACED = 1) ∧
      (¬ idle → stable → s.drainOf s.stepCount = true →
        let fast (d : Drain) : Drain := if d.step.toNat = s.stepCount then { d with unpaced := true } else d
        ∃ m, s.Answers i c 0 0 0 0 m ∧ m.replies = s.replies.map fast ∧ m.drain = s.drain.map fast))

/-- PAIR sends this module's tags to a module of which a port is up, else is refused at once; the reply, or its absence,
makes the partner effective or sets the refusal; a received exchange makes this module the source's host where the copies
fit, and is answered with this module's own tags and hosting state. The model's choices it rests on: log entries 9, 45 and
68. -/
def Obligations.PairingExchange : Prop :=
  (∀ (s : State) (c : Ctx) (p : BitVec 14), s.Admits c (.pair c p) →
    let i : Instr := .pair c p
    let noSelf := s.get .RES_MODULE_ID_ASSIGNED = 0 ∨ s.get .RES_MODULE_ID_MODULE_ID = p.toNat
    let refused (d : Nat) : Prop := ∃ m, s.Answers i c 6 d 0 0 m ∧ s.OnlyRegs m ∧ m.get .RES_PAIR_REFUSAL = d ∧
      m.get .RES_PAIR_IN_EFFECT = s.get .RES_PAIR_IN_EFFECT ∧ m.Newest 0x0903 0 p.toNat d 0
    (noSelf → refused 6) ∧ (¬ noSelf → s.portsTo p.toNat = [] → refused 1) ∧
    (¬ noSelf → s.portsTo p.toNat ≠ [] →
      (s.pairing = none → let u : State := { s with
          pairing := some ⟨some c, p.toNat, false⟩
          partnerOut := s.partnerOut ++ [(s.portsTo p.toNat, .exchange s.ownTags)] }
        ((s.firstOf c.src).isSome = true → exec i s = .next u) ∧
        ((s.firstOf c.src).isSome = false → ∃ t, exec i s = .next t ∧ t.pairing = u.pairing ∧
          t.partnerOut = u.partnerOut ∧ t.accepted = s.accepted ++ [(c, leBytes 2 0x31)] ∧ t.mem = s.mem ∧ t.log = s.log ∧
          (c.src = .mailbox → t.get .HOST_MBX_CTRL_BUSY = 1))) ∧
      (s.pairing ≠ none → exec i s = .next s))) ∧
  (∀ (s : State) (reply : Option PairReply), s.pairing = none → exec (.pairingExchangeEnd reply) s = .next s) ∧
  (∀ (s : State) (j : PairJob) (reply : Option PairReply), s.pairing = some j → s.get .TXN_STATE_STATE 3 < 2 ∨ j.commit = true →
    ∃ t, exec (.pairingExchangeEnd reply) s = .next t ∧ t.pairing = none ∧
      let own := s.ownTags
      let fails (d : Nat) : Prop := t.get .RES_PAIR_REFUSAL = d ∧ t.get .RES_PAIR_IN_EFFECT = s.get .RES_PAIR_IN_EFFECT ∧
        (j.commit = true → t.get .TXN_STATE_STATE 3 = 0 ∧ t.get .TXN_RESULT_OUTCOME 3 = 2 ∧ t.get .TXN_RESULT_CODE 3 = 0x0A)
      (reply = none → fails 5) ∧
      ∀ r, reply = some r →
        let shares := sharesFeed own r.tags = true
        let barred := shares ∧ s.shadowBank.pairShared = false
        let small := slotBytes r.hostUnits < 4096 + own.uniqueUnits * 4096
        let taken := ∃ m, r.hosts = some m ∧ m ≠ own.moduleId
        (barred → fails 2) ∧ (¬ barred → small → fails 3) ∧ (¬ barred → ¬ small → taken → fails 4) ∧
        (¬ barred → ¬ small → ¬ taken → t.get .RES_PAIR_PARTNER_ID = j.partner % 2 ^ 14 ∧ t.get .RES_PAIR_IN_EFFECT = 1 ∧
          t.get .RES_PAIR_VERIFIED = 1 ∧ (t.get .RES_PAIR_SHARED = 1 ↔ shares) ∧ t.get .RES_PAIR_REFUSAL = 0 ∧
          t.partnerTags = some r.tags ∧
          (j.commit = true → t.get .TXN_STATE_STATE 3 = 0 ∧ t.get .TXN_RESULT_OUTCOME 3 = 1))) ∧
  (∀ (s : State) (n : PortRef) (src : PairTags),
    let id := src.moduleId.toNat
    let known := s.portUp n = true ∧ s.get .OPT_PORT_PEER_VALID n ≠ 0 ∧ s.get .OPT_PORT_PEER_MODULE_ID n = id
    let other := s.get .MNT_HOST_SRC_VALID ≠ 0 ∧ s.get .MNT_HOST_SRC_MODULE_ID ≠ id
    let room := 4096 + src.uniqueUnits * 4096 ≤ slotBytes (s.get .MNT_HOST_UNITS_UNITS)
    let shared := s.shadowBank.pairShared = false ∧ sharesFeed s.ownTags src = true
    let replied (hosts : Option (BitVec 14)) : State := { s with
      partnerOut := s.partnerOut ++ [(s.portsTo id, .reply ⟨s.ownTags, s.get .MNT_HOST_UNITS_UNITS, hosts⟩)] }
    (known → ¬ other → room → ¬ shared → ∃ t, exec (.pairingExchangeReceived n src) s = .next t ∧
      (replied (some src.moduleId)).OnlyRegs t ∧
      t.get .MNT_HOST_SRC_MODULE_ID = id ∧ t.get .MNT_HOST_SRC_VALID = 1 ∧ t.log = s.log) ∧
    (known → other ∨ ¬ room ∨ shared → exec (.pairingExchangeReceived n src) s = .next (replied
      (if s.get .MNT_HOST_SRC_VALID ≠ 0 then some (BitVec.ofNat 14 (s.get .MNT_HOST_SRC_MODULE_ID)) else none))) ∧
    (¬ known → exec (.pairingExchangeReceived n src) s = .next s))

/-- LADDER is refused with the DETAIL of its first failing condition or begins its transition; LADDER_DONE moves the module,
or the regions of the set, to the target, except regions that are latched off and those that have tripped, which stay in
Doze or go below it with the module; entering Vigil loses the image and memory, leaving it trains the ring, and a stack in
use that fails is lost. The model's choices it rests on: log entries 1, 9 and 69. -/
def Obligations.LadderMoves : Prop :=
  (∀ (s : State) (c : Ctx) (target : BitVec 8) (isSet : Bool) (set : RegionSet), s.Admits c (.ladder c target isSet set) →
    let i : Instr := .ladder c target isSet set
    let bad := 4 < target.toNat ∨ (isSet = true ∧ set = 0)
    (bad → s.Answers i c 2 0 0 0 s) ∧
    (¬ bad → isSet = false → target ≠ 0 → s.noJob = false → s.Answers i c 4 1 0 0 s) ∧
    (¬ bad → isSet = true → s.noJob = false → target.toNat ≤ 1 → s.Answers i c 4 1 0 0 s) ∧
    (¬ bad → isSet = true → s.noJob = true → (∃ r, r < 400 ∧ set.getLsbD r = true ∧ s.regionStuck r = true) →
      s.Answers i c 4 2 0 0 s) ∧
    (∀ d, ¬ bad → s.ladderDetail target.toNat isSet set = some d → s.Answers i c 4 d 0 0 s) ∧
    (¬ bad → s.ladderDetail target.toNat isSet set = none →
      let u : State := { s with laddering := some ⟨c, target.toNat, isSet, set, s.fc⟩ }
      ((s.firstOf c.src).isSome = true → exec i s = .next u) ∧
      ((s.firstOf c.src).isSome = false → ∃ t, exec i s = .next t ∧ t.laddering = u.laddering ∧
        t.accepted = s.accepted ++ [(c, leBytes 2 0x40)] ∧ t.mem = s.mem ∧ t.log = s.log ∧
        (c.src = .mailbox → t.get .HOST_MBX_CTRL_BUSY = 1)))) ∧
  (∀ s : State, s.laddering = none → exec .ladderDone s = .next s) ∧
  (∀ (s : State) (j : LadderJob), s.laddering = some j →
    (s.coolChecking = true → 2 ≤ j.target → exec .ladderDone s = .next s) ∧
    (s.coolChecking = false → j.target ≤ 4 → s.get .PWR_LADDER_MODULE ≤ 4 →
      ∃ m : State, exec .ladderDone s = .next (m.complete j.ctx 0x40 0 0 ((s.fc - j.startFc) / 28) 0) ∧ m.laddering = none ∧
        let runs (r code : Nat) : Prop := m.get .PWR_REGION_STATE r = code ∧
          ((s.region r).lockLost = false → (m.get .PWR_REGION_CLK r ≠ 0 ↔ code ≤ 1))
        let stays (r : Nat) : Prop := m.get .PWR_REGION_STATE r = s.get .PWR_REGION_STATE r ∧
          m.get .PWR_REGION_CLK r = s.get .PWR_REGION_CLK r
        let old := s.get .PWR_LADDER_MODULE
        let off (r : Nat) : Prop := s.get .PWR_REGION_SHORT r ≠ 0
        let tripped (r : Nat) : Prop := ¬ off r ∧ s.get .PWR_REGION_TRIPPED r ≠ 0
        (∀ r, r < 400 → off r → stays r) ∧
        (j.isSet = true → m.get .PWR_LADDER_MODULE = old ∧ m.lostStacks = s.lostStacks ∧
          ∀ r, r < 400 → ¬ off r →
            (j.regions.getLsbD r = true → ¬ tripped r → runs r (max j.target old)) ∧
            (j.regions.getLsbD r = true → tripped r → m.get .PWR_REGION_STATE r = max 2 old) ∧
            (j.regions.getLsbD r = false → stays r)) ∧
        (j.isSet = false → m.get .PWR_LADDER_MODULE = j.target ∧
          (∀ r, r < 400 → tripped r → m.get .PWR_REGION_STATE r = max 2 j.target) ∧
          (∀ r, r < 400 → s.regionStuck r = false → s.get .PWR_REGION_STATE r ≤ 4 →
            (j.target = 0 → s.imageLadder r ≤ 4 → runs r (s.imageLadder r)) ∧
            (j.target ≠ 0 → runs r (max (s.get .PWR_REGION_STATE r) j.target))) ∧
          (j.target = 4 → old ≠ 4 → m.image = none ∧ m.get .IMG_STATE_STATE = 0 ∧ m.mem = [] ∧ m.hosted = [] ∧
            ∀ sc : Fin 4, m.get .TXN_STATE_STATE sc = 0) ∧
          (j.target ≠ 4 → old = 4 → ∀ f : Fin 36, (Config.trainFails s.free).getLsbD f = true → f.val ∈ s.stacksInUse →
            m.lostStacks.getLsbD f = true) ∧
          (j.target ≠ 4 → old ≠ 4 → m.image = s.image ∧ m.lostStacks = s.lostStacks))))

/-! ### Maintenance -/

/-- MAINT_START is refused for its parameters, its condition or a full queue, else queued with the next sequence number and
started where nothing runs; each row performs the effect of the running activity of its code, once, and MAINT_ACTIVITY_END
reports its result. The model's choices it rests on: log entries 48, 92 and 93. -/
def Obligations.MaintenanceActivities : Prop :=
  (∀ (s : State) (c : Ctx) (code : BitVec 8) (params : List Byte), s.Admits c (.maintStart c code params) →
    let i : Instr := .maintStart c code params
    let good := maintParams code.toNat params = true
    let allowed := s.maintAllowed code.toNat params = true
    let waiting := s.activities.length - s.runningNow.length
    (¬ good → s.Answers i c 2 0 0 0 s) ∧ (good → ¬ allowed → s.Answers i c 4 0 0 0 s) ∧
    (good → allowed → 16 ≤ waiting → s.Answers i c 3 0 0 0 s) ∧
    (good → allowed → s.activities = [] → s.drain = none → s.replies = [] → ∃ m a, s.Answers i c 0 0 a.seq 0 m ∧ m.activities = [a] ∧
      a.seq = s.get .MNT_QUEUE_NEXT_SEQ ∧ a.code = code.toNat ∧ a.params = params ∧ a.started = true ∧ a.result = 16 ∧
      a.startFc = s.fc ∧ m.get .MNT_QUEUE_NEXT_SEQ = (a.seq + 1) % 65536 ∧ m.get .MNT_QUEUE_DEPTH = 0 ∧
      m.get .MNT_QUEUE_RUNNING = 2 ^ code.toNat ∧ m.mem = s.mem)) ∧
  (∀ (s : State) (a : Activity), s.activities = [a] → a.started = true → a.result = 16 →
    let done (i : Instr) (result : Nat) (p : State → Prop) : Prop :=
      ∃ t, exec i s = .next t ∧ t.activities = [{ a with result }] ∧ p t
    (a.code = 0 → done .fill 0 (fun t => t.regs = s.regs ∧
      ∀ r ∈ spanRegions a.params 0, s.regionStuck r = false → ∀ c ∈ regionClusters r,
        (∀ k, k < stackedSize → memByte t.mem (stackedAddr c k) = 0) ∧
        ∀ q k, q < 17 → k < nearSize → memByte t.mem (nearAddr (c * 17 + q) k) = 0)) ∧
    (a.code = 1 → s.NoErrors →
      (pfield a.params 0 1 = 0 → done .scrub 0 (fun t => t.mem = s.mem ∧
        ∀ r ∈ spanRegions a.params 2, s.get .PWR_REGION_CLK r ≠ 0 → ∀ c ∈ regionClusters r,
          (t.unit c).passes = (s.unit c).passes + 1)) ∧
      (pfield a.params 0 1 ≠ 0 → s.ringAsleep = true → done .scrub 1 (fun t => t.units = s.units ∧ t.mem = s.mem)) ∧
      (pfield a.params 0 1 ≠ 0 → s.ringAsleep = false → done .scrub 0 (fun t => t.mem = s.mem ∧
        ∀ u ∈ s.ringUnits, (t.unit u).passes = (s.unit u).passes + 1))) ∧
    (a.code = 2 → let fails (n : Nat) : Bool := (Config.trainFails s.free).getLsbD n && s.stacksInUse.contains n
      done .ringtrain 0 (fun t => t.mem = s.mem ∧
        ((∀ f : Fin 36, fails f = false) → t.regs = s.regs ∧ t.lostStacks = s.lostStacks) ∧
        ∀ f : Fin 36, t.lostStacks.getLsbD f = (s.lostStacks.getLsbD f || fails f))) ∧
    (a.code = 3 → ∀ light, done (.opttrain light) 0 (fun t =>
      (∀ id, s.flash.nextId = some id → t.flash.moduleId = some id ∧ t.flash.nextId = none ∧
        t.get .RES_MODULE_ID_MODULE_ID = id.toNat ∧ t.get .RES_MODULE_ID_ASSIGNED = 1 ∧ t.get .RES_MODULE_ID_PENDING = 0) ∧
      (s.flash.nextId = none → t.flash = s.flash ∧
        t.get .RES_MODULE_ID_MODULE_ID = s.get .RES_MODULE_ID_MODULE_ID))) ∧
    (a.code = 4 → done .fusesense 0 (fun t => t.get .FUSE_SENSE_COUNT = min (s.get .FUSE_SENSE_COUNT + 1) 0xFFFF ∧
      t.fuses = s.fuses ∧ t.shadowBank = s.shadowBank ∧
      (s.fuses.read = { s.shadowBank with lifecycle := BitVec.ofNat 2 s.pendingLifecycle } →
        t.get .FUSE_SENSE_MISMATCH = s.get .FUSE_SENSE_MISMATCH ∧ t.log = s.log) ∧
      (s.fuses.read ≠ { s.shadowBank with lifecycle := BitVec.ofNat 2 s.pendingLifecycle } →
        t.get .FUSE_SENSE_MISMATCH = 1 ∧ t.Newest 0x0A04 0 0 0 0))) ∧
    (a.code = 5 → done .tcal 0 (fun t => t.mem = s.mem ∧ t.regs = s.regs))) ∧
  (∀ s : State, (s.dueActivity 0 = none → exec .fill s = .next s) ∧ (s.dueActivity 1 = none → exec .scrub s = .next s) ∧
    (s.dueActivity 2 = none → exec .ringtrain s = .next s) ∧
    (s.dueActivity 3 = none → ∀ light, exec (.opttrain light) s = .next s) ∧
    (s.dueActivity 4 = none → exec .fusesense s = .next s) ∧ (s.dueActivity 5 = none → exec .tcal s = .next s)) ∧
  (∀ (s : State) (n : Fin 8) (failed : Bool),
    (∀ a, s.activities = [a] → a.started = true → a.code = n.val →
      let due := a.result = 16 ∧ (failed = false ∨ n = 6)
      let result := if failed = true ∧ n ≠ 6 then 1 else a.result
      (due → exec (.maintActivityEnd n failed) s = .next s) ∧
      (¬ due → ∃ t, exec (.maintActivityEnd n failed) s = .next t ∧ t.activities = [] ∧ t.get .MNT_LAST_ACTIVITY = n ∧
        t.get .MNT_LAST_RESULT = result % 16 ∧ t.get .MNT_LAST_SEQ = a.seq % 65536 ∧ t.get .MNT_QUEUE_RUNNING = 0 ∧
        t.Newest 0x0A03 0 n result a.seq ∧ t.Irq 9 ∧ t.mem = s.mem)) ∧
    ((∀ a ∈ s.activities, a.started = true → a.code ≠ n.val) → exec (.maintActivityEnd n failed) s = .next s))

/-- DRAIN in mode SECURE starts a drain of the state at hand, RESTORE writes the copy's ranges back and sets where RUN
starts, QUERY shows the partner's two slots, each with the result codes of Table 4; the three operations of DEFECT-UPDATE
change the soft entries of the defect map. The model's choices it rests on: log entries 94, 95 and 96. -/
def Obligations.DrainsAndDefectUpdates : Prop :=
  ∀ (s : State) (a : Activity), s.activities = [a] → a.started = true → a.result = 16 →
    let mode := pfield a.params 0 1
    let done (i : Instr) (result : Nat) (p : State → Prop) : Prop :=
      ∃ t, exec i s = .next t ∧ t.activities = [{ a with result }] ∧ p t
    let paired := s.partnerPorts ≠ [] ∧ s.get .RES_PAIR_IN_EFFECT ≠ 0
    (a.code = 6 →
      (mode = 0 → s.drain = none → s.replies = [] →
        (¬ paired → done .drainSecure 1 (fun t => t.drain = none ∧ t.get .MNT_DRAIN_RESULT = 1 ∧
          t.get .MNT_DRAIN_FAILS = min (s.get .MNT_DRAIN_FAILS + 1) 0xFFFF)) ∧
        (paired → ∃ t d, exec .drainSecure s = .next t ∧ t.activities = [a] ∧ t.drain = some d ∧ d.activity = true ∧
          d.urgent = false ∧ d.unpaced = false ∧ d.flagged = false ∧ d.readDone = false ∧
          let atFault := s.get .RES_FAULT_LOCAL_VALID ≠ 0
          let buf := s.get .RES_STEP_STATE_BUF_SEL ≠ 0
          d.step = BitVec.ofNat 64 (if atFault then s.stepCount else s.stepCount + 1) ∧
          (d.bufSel = true ↔ if atFault then s.get .RES_FAULT_BUF_SEL ≠ 0 else if s.skip then buf else ¬ buf))) ∧
      (mode ≠ 0 ∨ s.drain ≠ none ∨ s.replies ≠ [] → exec .drainSecure s = .next s) ∧
      (mode = 1 → ∀ (copy : Option CopyInfo) (data : List Byte),
        let step := pfield a.params 8 16
        let run : Instr := .drainRestore copy data
        let fails (result : Nat) : Prop := done run result (fun t => t.mem = s.mem ∧ t.Newest 0x0908 0 0 result 0 ∧
          t.get .RES_RESTORE_DONE = s.get .RES_RESTORE_DONE)
        (¬ paired → fails 1) ∧ (paired → copy = none → fails 8) ∧
        ∀ x, paired → copy = some x →
          let fits := x.ranges = s.uniqueRanges.map unitRange
          (s.copyMatches x step = false → fails 8) ∧ (s.copyMatches x step = true → ¬ fits → fails 7) ∧
          (s.copyMatches x step = true → fits → data.length ≠ s.uniqueBytes → fails 2) ∧
          (∀ base, s.copyMatches x step = true → fits → s.uniqueRanges = [(base, data.length)] → s.NoErrors →
            s.snoop = [] → done run 0 (fun t =>
              (∀ y, memByte t.mem y = if base ≤ y ∧ y < base + data.length then data.getD (y - base) 0
                else memByte s.mem y) ∧
              t.startStep = step % 2 ^ 64 ∧ (t.get .RES_STEP_CTRL_START_BUF = if x.bufSel then 1 else 0) ∧
              t.get .RES_RESTORE_DONE = 1 ∧
              (t.get .RES_RESTORE_DIGEST_DIFFERS = 1 ↔ ∃ im, s.image = some im ∧ im.digest ≠ x.digest)))) ∧
      (mode = 2 →
        (¬ paired → ∀ slots, done (.drainQuery slots) 1 (fun t => t.regs = s.regs)) ∧
        (paired → done (.drainQuery none) 2 (fun t => t.regs = s.regs)) ∧
        (paired → ∀ x y, done (.drainQuery (some (x, y))) 0 (fun t => t.mem = s.mem ∧
          t.get .MNT_PCOPY_STEP_STEP 0 = x.step.toNat % 2 ^ 32 ∧ t.get .MNT_PCOPY_STEP_STEP 1 = y.step.toNat % 2 ^ 32 ∧
          t.get .MNT_PCOPY_STAT_FLAGS 0 = copyFlags x ∧ t.get .MNT_PCOPY_STAT_FLAGS 1 = copyFlags y))) ∧
      (mode ≠ 1 → ∀ copy data, exec (.drainRestore copy data) s = .next s) ∧
      (mode ≠ 2 → ∀ slots, exec (.drainQuery slots) s = .next s)) ∧
    (a.code = 7 →
      let d : Word := BitVec.ofNat 32 (pfield a.params 4 8)
      let soft := s.flash.softDefects
      let listed := ∃ e ∈ s.defectMap, defKind e = defKind d ∧ defLoc e = defLoc d
      (mode = 0 →
        (s.addDefect d = none → done .defectUpdateAdd 2 (fun t => t.flash = s.flash ∧ t.log = s.log)) ∧
        (defKind d = 5 ∨ defKind d = 6 →
          (listed → done .defectUpdateAdd 2 (fun t => t.flash = s.flash)) ∧
          (¬ listed → done .defectUpdateAdd 0 (fun t => t.flash.softDefects = soft ++ [d] ∧
            t.Newest 0x0A01 0 (defEventLoc d) (defCause d) d.toNat))) ∧
        (defKind d = 4 → regionBarred s.defectMap (defLoc d % 512) = false →
          done .defectUpdateAdd 0 (fun t => t.flash.softDefects =
            soft.filter (fun e => !(defKind e ≤ 3 && defRegion e = defLoc d % 512)) ++ [d])) ∧
        (defKind d = 1 → regionBarred s.defectMap (defRegion d) = false → clusterLost s.defectMap (defCluster d) = false →
          badCores s.defectMap (defCluster d) = [] → done .defectUpdateAdd 0 (fun t => t.flash.softDefects = soft ++ [d]))) ∧
      (mode = 1 →
        let named (e : Word) : Prop := sameDefect e d = true
        ((∃ e ∈ s.fuses.read.defects, named e) → done .defectUpdateClear 1 (fun t => t.flash = s.flash)) ∧
        ((∀ e ∈ s.fuses.read.defects, ¬ named e) → (∀ e ∈ soft, ¬ named e) →
          done .defectUpdateClear 2 (fun t => t.flash = s.flash)) ∧
        ((∀ e ∈ s.fuses.read.defects, ¬ named e) → (∃ e ∈ soft, named e) → done .defectUpdateClear 0 (fun t =>
          t.flash.softDefects = soft.filter (fun e => !sameDefect e d) ∧ t.fuses = s.fuses))) ∧
      (mode = 2 →
        ((∀ e ∈ soft, defKind e ≠ defKind d) → done .defectUpdateClearKind 2 (fun t => t.flash = s.flash)) ∧
        ((∃ e ∈ soft, defKind e = defKind d) → done .defectUpdateClearKind 0 (fun t =>
          t.flash.softDefects = soft.filter (fun e => defKind e != defKind d) ∧ t.fuses = s.fuses))) ∧
      (mode ≠ 0 → exec .defectUpdateAdd s = .next s) ∧ (mode ≠ 1 → exec .defectUpdateClear s = .next s) ∧
      (mode ≠ 2 → exec .defectUpdateClearKind s = .next s))

/-! ### The host interface -/

/-- GO hands the mailbox's descriptor over; doorbells take an index or stop the ring with CAUSE 3; EN checks SIZE and the
placement; SQ_FETCH takes the entry at the head of the ring whose turn it is, the first after the last one served that has
an entry and room in its CQ; a reset of the host interface disables every ring, rolls back, and leaves what was accepted from
it to run without a completion. The model's choices it rests on: log entries 113, 114 and 118. -/
def Obligations.HostQueues : Prop :=
  ∀ s : State,
    (s.HostReady →
      let d := s.mailDescriptor
      let c := descCtx .mailbox d
      (s.get .HOST_MBX_CTRL_BUSY ≠ 0 → exec .mailboxSubmit s = .next s) ∧
      (s.get .HOST_MBX_CTRL_BUSY = 0 → s.accepted = [] → (∀ x ∈ s.inProgress, x.src ≠ .mailbox) →
        (∀ i, decodeDescriptor c d = .ok i → ∃ t, exec .mailboxSubmit s = .next t ∧ t.accepted = [(c, d)] ∧
          t.get .HOST_MBX_CTRL_BUSY = 1 ∧ t.log = s.log ∧ t.mem = s.mem) ∧
        (∀ st, decodeDescriptor c d = .error st → c ∉ s.orphans → ∃ t, exec .mailboxSubmit s = .next t ∧ t.accepted = [] ∧
          t.MailDone (completionBytes c.tag (dfield d 0 2) st 0 4 0 0 0) ∧ t.mem = s.mem)) ∧
      ∀ (r : Fin 4) (v : Word),
        let n := s.ringEntries r
        let idx := v.toNat % 4096
        let on := s.get .HOST_RING_CFG_EN r ≠ 0
        let stops (i : Instr) : Prop := ∃ t, exec i s = .next t ∧ s.OnlyRegs t ∧ t.get .HOST_RING_CFG_EN r = 0 ∧
          t.get .HOST_RING_STAT_FAULT r = 1 ∧ t.get .HOST_RING_STAT_CAUSE r = 3 ∧ t.Newest 0x0B03 0 r 3 0 ∧ t.Irq 18
        let takes (i : Instr) (f : Field) : Prop := ∃ t, exec i s = .next t ∧ s.OnlyRegs t ∧ t.get f r = idx ∧
          t.get .HOST_RING_CFG_EN r = s.get .HOST_RING_CFG_EN r ∧ t.log = s.log
        let sq := s.get .HOST_SQ_TAIL_INDEX r
        let cq := s.get .HOST_CQ_HEAD_INDEX r
        let room := (s.get .HOST_SQ_HEAD_INDEX r + n - sq + n - 1) % n
        let held := (s.get .HOST_CQ_TAIL_INDEX r + n - cq) % n
        (on → n ≤ idx ∨ room < (idx + n - sq) % n → stops (.sqDoorbell r v)) ∧
        (¬ on ∨ (idx < n ∧ (idx + n - sq) % n ≤ room) → takes (.sqDoorbell r v) .HOST_SQ_TAIL_INDEX) ∧
        (on → n ≤ idx ∨ held < (idx + n - cq) % n → stops (.cqDoorbell r v)) ∧
        (¬ on ∨ (idx < n ∧ (idx + n - cq) % n ≤ held) → takes (.cqDoorbell r v) .HOST_CQ_HEAD_INDEX) ∧
        (let size := v.toNat % 16
         let u := (s.put .HOST_RING_CFG_HOST_MEM (bits v.toNat 5 1) r).put .HOST_RING_CFG_SIZE size r
         (¬ on → size ≤ 8 → u.ringPlaced r = true → ∃ t, exec (.ringEnable r v) s = .next t ∧
           t.get .HOST_RING_CFG_EN r = 1 ∧ t.get .HOST_RING_CFG_SIZE r = size ∧
           t.get .HOST_RING_CFG_HOST_MEM r = v.toNat / 32 % 2 ∧ t.get .HOST_SQ_TAIL_INDEX r = 0 ∧
           t.get .HOST_SQ_HEAD_INDEX r = 0 ∧ t.get .HOST_CQ_TAIL_INDEX r = 0 ∧ t.get .HOST_CQ_HEAD_INDEX r = 0 ∧
           t.phase.getLsbD r = true ∧ t.log = s.log) ∧
         (¬ on → size ≤ 8 → u.ringPlaced r = false → ∃ t, exec (.ringEnable r v) s = .next t ∧ s.OnlyRegs t ∧
           t.get .HOST_RING_CFG_EN r = 0 ∧ t.get .HOST_RING_STAT_FAULT r = 1 ∧ t.get .HOST_RING_STAT_CAUSE r = 2) ∧
         (¬ on → 8 < size → ∃ t, exec (.ringEnable r v) s = .next t ∧ s.OnlyRegs t ∧ t.get .HOST_RING_CFG_EN r = 0 ∧
           t.get .HOST_RING_STAT_CAUSE r = 1) ∧
         (on → ∃ t, exec (.ringEnable r v) s = .next t ∧ s.OnlyRegs t ∧
           t.get .HOST_RING_CFG_EN r = s.get .HOST_RING_CFG_EN r ∧ t.get .HOST_RING_CFG_SIZE r = s.get .HOST_RING_CFG_SIZE r ∧
           t.get .HOST_SQ_HEAD_INDEX r = s.get .HOST_SQ_HEAD_INDEX r ∧
           (size ≠ s.get .HOST_RING_CFG_SIZE r → t.Newest 0x0B01 0 0 0 (0x108 + 0x40 * r))) ∧
         (∃ t, exec (.ringDisable r v) s = .next t ∧ s.OnlyRegs t ∧ t.get .HOST_RING_CFG_EN r = 0 ∧
           t.get .HOST_SQ_HEAD_INDEX r = s.get .HOST_SQ_HEAD_INDEX r))) ∧
    (∀ r : Fin 4,
      let head := s.get .HOST_SQ_HEAD_INDEX r
      let n := s.ringEntries r
      let a := s.sqBase r + 64 * head
      let can (q : Fin 4) : Prop := s.get .HOST_RING_CFG_EN q ≠ 0 ∧
        s.get .HOST_SQ_HEAD_INDEX q ≠ s.get .HOST_SQ_TAIL_INDEX q ∧ s.cqRoom q = true ∧ s.ringAsleep = false ∧ s.hostUp = true
      let place (q : Fin 4) : Nat := (q.val + 4 - s.fetchTurn.toNat) % 4
      let ready := can r ∧ ∀ q, place q < place r → ¬ can q
      let d := memRead s.mem a 64
      let c := descCtx (.ring r) d
      (¬ ready → exec (.sqFetch r) s = .next s) ∧
      (ready → (s.readPhys a 64).2 = none → ∃ t, exec (.sqFetch r) s = .next t ∧ t.get .HOST_RING_CFG_EN r = 0 ∧
        t.get .HOST_RING_STAT_FAULT r = 1 ∧ t.get .HOST_RING_STAT_CAUSE r = 4 ∧ t.get .HOST_SQ_HEAD_INDEX r = head ∧ t.Irq 18) ∧
      (∀ i, ready → s.NoErrors → s.snoopWait = [] → s.accepted = [] → s.get .HOST_RING_CFG_SIZE r ≤ 8 →
        decodeDescriptor c d = .ok i → ∃ t, exec (.sqFetch r) s = .next t ∧ t.accepted = [(c, d)] ∧
          t.fetchTurn.toNat = (r.val + 1) % 4 ∧
          t.get .HOST_SQ_HEAD_INDEX r = (head + 1) % n ∧ t.log = s.log ∧ t.mem = s.mem)) ∧
    (let off (t : State) : Prop := (∀ r : Fin 4, t.get .HOST_RING_CFG_EN r = 0) ∧ t.get .HOST_MBX_CTRL_BUSY = 0 ∧
        t.get .HOST_MBX_CTRL_DONE = 0 ∧ t.get .HOST_BAR2_BASE_GIB = 0 ∧ t.stalledQ = [] ∧
        (∀ w, w < 8 → t.get .HOST_MBX_CPL_WORD w = 0) ∧
        ∀ sc : Fin 4, s.get .TXN_STATE_STATE sc = 1 ∨ s.get .TXN_STATE_STATE sc = 2 → s.get .TXN_STATE_REQUESTER sc = 0 →
          t.get .TXN_STATE_STATE sc = 0 ∧ t.get .TXN_RESULT_OUTCOME sc = 5 ∧ t.Irq 8
     (∃ t, exec (.hostInterfaceReset .linkReset) s = .next t ∧ off t ∧ t.perst = s.perst ∧ t.accepted = s.accepted ∧
        t.cqWait = [] ∧
        t.orphans = s.orphans.filter (fun c => c.src.oob) ++ (s.accepted.map (·.1)).filter (fun c => !c.src.oob)) ∧
     (∃ t, exec (.hostInterfaceReset (.perst true)) s = .next t ∧ off t ∧ t.perst = true ∧ t.get .RES_MGMT_PERST = 1) ∧
     ∃ t, exec (.hostInterfaceReset (.perst false)) s = .next t ∧ t.perst = false ∧ t.get .RES_MGMT_PERST = 0 ∧
       t.stalledQ = s.stalledQ ∧ ∀ r : Fin 4, t.get .HOST_RING_CFG_EN r = s.get .HOST_RING_CFG_EN r)

/-- Out of band: one command per endpoint, the next answered 0x03, and on SMBus only one sent to the module's address
(R413); a new EID rolls its transactions back, and an SMBus one gives the address. PLDM writes the
package over the firmware copy that does not run, answers one that does not verify with its failure and changes nothing
else, and reads sensors; SPDM measures and opens sessions where the identity key unwraps, and installs an owner's chain that
certifies and carries the device's key; an SMBus timeout releases the bus and starts its interface afresh, and ALERT# ends
with the answer to an Alert Response read. The model's choices it rests on: log entries 14, 61, 120, 150, 151 and 155. -/
def Obligations.OutOfBandServices : Prop :=
  (∀ (s : State) (link : OobLink) (d : List Byte),
    let pcie := link = .pcieVdm
    let src : CmdSource := if pcie then .oobPcie else .oobSmbus
    let bit : BitVec 2 := if pcie then 2 else 1
    let c := descCtx src d
    let reaches := d.length = 64 ∧ (∀ a, link = .smbus a → a = s.smbusAddr) ∧ s.sourceUp src = true
    let run := exec (.mctpCommand link d) s
    (¬ reaches → run = .next s) ∧
    (reaches → s.oobBusy &&& bit ≠ 0 → run =
      .next { s with oobOut := s.oobOut ++ [1 :: completionBytes c.tag (dfield d 0 2) 3 0 5 0 0 0] }) ∧
    (∀ i, reaches → s.oobBusy &&& bit = 0 → s.accepted = [] → decodeDescriptor c d = .ok i →
      run = .next { s with
        oobBusy := s.oobBusy ||| bit
        smbusDriving := if pcie then s.smbusDriving else true
        accepted := [(c, d)] }) ∧
    ∃ t, exec (.mctpEidAssigned link) s = .next t ∧ t.mem = s.mem ∧ (pcie → t.smbusAddr = s.smbusAddr) ∧
      (∀ a, link = .smbus a → t.smbusAddr = a) ∧ ∀ sc : Fin 4,
      let mine := (s.get .TXN_STATE_STATE sc = 1 ∨ s.get .TXN_STATE_STATE sc = 2) ∧
        s.get .TXN_STATE_REQUESTER sc = if pcie then 2 else 1
      (mine → t.get .TXN_STATE_STATE sc = 0 ∧ t.get .TXN_RESULT_OUTCOME sc = 5 ∧ t.Irq 8) ∧
      (¬ mine → t.get .TXN_STATE_STATE sc = s.get .TXN_STATE_STATE sc ∧ t.txn sc = s.txn sc)) ∧
  (∀ (s : State) (package : List Byte),
    let good := s.firmwareGood package = true
    (s.answers = true → good →
      ∃ t, exec (.pldmFirmwareUpdate package) s = .next t ∧ t = { s with flash := t.flash, pldmRefused := false } ∧
      ((∃ x, s.firmware = some (false, x)) → t.flash = { s.flash with fwB := some package }) ∧
      ((∀ x, s.firmware ≠ some (false, x)) → t.flash = { s.flash with fwA := some package })) ∧
    (s.answers = true → ¬ good → exec (.pldmFirmwareUpdate package) s = .next { s with pldmRefused := true }) ∧
    (s.answers = false → exec (.pldmFirmwareUpdate package) s = .next s)) ∧
  (∀ s : State,
    let reads (x : Sensor) (v : Int) : Prop := exec (.pldmSensorRead x) s = .next { s with sensor := v }
    (s.firmware ≠ none → reads .feedAVolts (signed (s.get .PWR_FEED_A_VOLTS) 16) ∧ reads .feedAAmps (s.get .PWR_FEED_A_AMPS) ∧
      reads .feedBVolts (signed (s.get .PWR_FEED_B_VOLTS) 16) ∧ reads .feedBAmps (s.get .PWR_FEED_B_AMPS) ∧
      reads .inputPower (s.get .PWR_BUS_WATTS) ∧ reads .coolantInlet (signed (s.get .THERM_COOL_INLET) 16) ∧
      reads .coolantOutlet (signed (s.get .THERM_COOL_OUTLET) 16) ∧
      ∀ r tj, s.hottest = some (r, tj) → reads .hottestJunction (signed tj 16)) ∧
    (s.firmware = none → ∀ x, exec (.pldmSensorRead x) s = .next s)) ∧
  (∀ s : State,
    let able := s.firmware ≠ none ∧ s.shadowBank.lifecycle ≠ 3 ∧ s.flash.identity.under = s.fuses.read.secret
    (able → ∃ t, exec .spdmGetMeasurements s = .next t ∧ t = { s with measured := t.measured } ∧
      t.measured.take 64 = leBytes 64 Config.romDigest.toNat ∧
      ∀ x, s.firmware = some x → (t.measured.drop 64).take 64 = leBytes 64 x.2.2.toNat) ∧
    (¬ able → exec .spdmGetMeasurements s = .next s) ∧
    (∀ (slot : Nat) (chain : List Byte) (key : BitVec 4096),
      let named := ∃ i, i < chain.length ∧ (chain.drop i).take 512 = (leBytes 512 s.flash.identityPublic.toNat).reverse
      let takes := s.firmware ≠ none ∧ s.shadowBank.lifecycle = 2 ∧ slot = 1 ∧ key = s.flash.identityPublic ∧ named
      (takes → exec (.spdmSetCertificate slot chain key) s = .next { s with flash := { s.flash with cert1 := chain } }) ∧
      (¬ takes → exec (.spdmSetCertificate slot chain key) s = .next s)) ∧
    (able → exec (.spdmKeyExchange false) s = .next { s with sessions := s.sessions ||| 1 }) ∧
    (able → s.hostUp = true → exec (.spdmKeyExchange true) s = .next { s with sessions := s.sessions ||| 2 }) ∧
    (¬ able → ∀ doe, exec (.spdmKeyExchange doe) s = .next s) ∧
    (s.hostUp = false → exec (.spdmKeyExchange true) s = .next s)) ∧
  (∀ s : State,
    (∃ t, exec .smbusTimeout s = .next t ∧ t = { s with
          regs := t.regs
          smbusDriving := false
          oobBusy := s.oobBusy &&& 2
          orphans := s.orphans.filter (fun c => c.src != .oobSmbus) ++
            (s.accepted.map (·.1)).filter (fun c => c.src = .oobSmbus) } ∧
      t.get .RES_MGMT_SMB_TIMEOUT_SEEN = 1 ∧ t.get .RES_MGMT_ALERT = s.get .RES_MGMT_ALERT) ∧
    (s.get .RES_MGMT_ALERT ≠ 0 → ∃ t, exec (.smbusAlertResponse true) s = .next t ∧ t = { s with regs := t.regs } ∧
      t.get .RES_MGMT_ALERT = 0) ∧
    (s.get .RES_MGMT_ALERT = 0 → exec (.smbusAlertResponse true) s = .next s) ∧
    exec (.smbusAlertResponse false) s = .next s)

/-- STATE_QUERY and LOG_READ complete with the module's state and the log's entries; BAR0 reads of a hole bring zeros and an
event, as do accesses of another size than 4 or 8 or not aligned to it, and an aligned read of 4 bytes brings every field of
its register at its lowest bit, a WO field as zeros, one that shows no other part of the state as it stands; PWR_AC_LO latches
its high half. A write of any offset is done by `State.regWrite`; where no other rule bars or widens it (`State.PlainWrite`),
it takes effect by the access code of each field (RW takes the bits, W1C clears those written as 1, RO and WO keep), on no
other field, and in a hole it leaves an event; a write waits behind a posted write that waits, or for a stopped region's clock. The model's choices it rests
on: log entries 14, 19 and 119. -/
def Obligations.RegisterAccesses : Prop :=
  (∀ (s : State) (c : Ctx), s.Admits c (.stateQuery c) → s.Answers (.stateQuery c) c 0 0 s.stepCount s.queryWord s) ∧
  (∀ (s : State) (c : Ctx) (first : Word) (count : BitVec 16) (dest : BitVec 64) (inline : Bool),
    s.Admits c (.logRead c first count dest inline) →
    let i : Instr := .logRead c first count dest inline
    let n := count.toNat
    let a := dest.toNat
    let es := s.logEntries first.toNat n
    let bytes := es.flatMap LogEntry.bytes
    let bad := 4096 < n ∨ (inline = true ∧ (c.src.oob = false ∨ 4 < n)) ∨ (inline = false ∧ a % 32 ≠ 0)
    let meets := ((0, s.imageTop) :: s.enabledSpans).any (spansMeet (a, 32 * n)) = true
    (bad → s.Answers i c 2 0 0 0 s) ∧
    (¬ bad → inline = true → ∃ m : State, exec i s = .next (m.complete c 0x61 0 0 es.length s.newestSeq bytes) ∧
      m.sinceRead = 0 ∧ m.mem = s.mem ∧ m.regs = s.regs ∧ m.log.length = s.log.length ∧
      ∀ e ∈ es, ∃ e' ∈ m.log, e' = { e with covered := true }) ∧
    (¬ bad → inline = false → s.ringTop < a + 32 * n ∨ s.ringAsleep = true → s.Answers i c 9 0 0 0 s) ∧
    (¬ bad → inline = false → a + 32 * n ≤ s.ringTop → s.ringAsleep = false → meets → s.Answers i c 5 0 0 0 s) ∧
    (¬ bad → inline = false → a + 32 * n ≤ s.ringTop → s.ringAsleep = false → ¬ meets → s.NoErrors → s.snoop = [] →
      ∃ m, s.Answers i c 0 0 es.length s.newestSeq m ∧ m.sinceRead = 0 ∧ m.regs = s.regs ∧
        ∀ y, memByte m.mem y = if a ≤ y ∧ y < a + 32 * es.length then bytes.getD (y - a) 0 else memByte s.mem y)) ∧
  (∀ (s : State) (off : Nat) (op : HostOp),
    let i : Instr := .bar0HoleAccess off op
    let good := off < 0x4000000
    let event (t : State) : Prop := t.Newest 0x0B04 0 0 0 off ∧ t.mem = s.mem ∧ t.cores = s.cores
    (¬ good → exec i s = .next s) ∧ (good → s.hostUp = false → exec i s = .next s) ∧
    (good → s.hostUp = true → s.holds off = none →
      (∀ n, op = .read n → accessWords off n = [] → ∃ t, exec i s = .next t ∧ event t ∧ t.rsp = ⟨.ok, List.replicate n 0⟩) ∧
      (op = .read 4 → off % 4 = 0 → (off < 0x100000 ∨ 0x200000 ≤ off) → off ≠ 0x200080 → fieldsAt off ≠ [] →
        ∃ t, exec i s = .next t ∧ t = { s with rsp := t.rsp } ∧
          t.rsp = ⟨.ok, leBytes 4 ((fieldsAt off).map (fun x => s.show' x.1 x.2 % 2 ^ x.1.info.width * 2 ^ x.1.info.lo)).sum⟩ ∧
          ∀ f i, (f, i) ∈ fieldsAt off →
            (f.info.acc = .wo → s.show' f i = 0) ∧
            (f.info.acc ≠ .wo → f.info.kind = .array 32 160 → s.portFitted i = false → f ≠ .OPT_PORT_STATE_STATE →
              s.show' f i = 0) ∧
            (f.info.acc ≠ .wo → (f.info.kind = .array 32 160 → s.portFitted i = true) → s.fuseView f i = none →
              s.windowView f i = none → s.stepView' f = none → s.powerView f i = none → s.show' f i = s.get f i)) ∧
      (op = .read 4 → off % 4 = 0 → s.regRead off = none → ∃ t, exec i s = .next t ∧ event t ∧ t.rsp = ⟨.ok, [0, 0, 0, 0]⟩) ∧
      (∀ d, op = .write d → s.HostReady → accessWords off d.length = [] → ∃ t, exec i s = .next t ∧ event t ∧
        t.rsp = s.rsp)) ∧
    (∀ r, good → s.hostUp = true → op.isWrite = false → s.holds off = some r → exec i s = .next { s with
      stalledQ := s.stalledQ ++ [⟨r, true, 0x7F0000000000 + off, op⟩], rsp := ⟨.waiting, []⟩ })) ∧
  (∀ s : State, (s.hostUp = false → exec .acCounterRead s = .next s) ∧
    (s.hostUp = true → ∃ t, exec .acCounterRead s = .next t ∧ t.rsp = ⟨.ok, leBytes 4 s.ac⟩ ∧
      t.get .PWR_AC_HI_COUNT = s.ac / 2 ^ 32 % 2 ^ 32 ∧ t.log = s.log)) ∧
  (∀ (s : State) (v : Word),
    let wr (off : Nat) : Instr := .registerWrite off v
    (∀ off, 0x4000000 ≤ off → exec (wr off) s = .next s) ∧
    (∀ off, off < 0x4000000 → s.hostUp = false → exec (wr off) s = .next s) ∧
    (∀ off, off < 0x4000000 → s.hostUp = true → s.stalledQ.any Stalled.posted = true → ∃ r, exec (wr off) s = .next
      { s with stalledQ := s.stalledQ ++ [⟨r, true, 0x7F0000000000 + off, .write (leBytes 4 v.toNat)⟩] }) ∧
    let hole (t : State) (off : Nat) : Prop := s.OnlyRegs t ∧ t.Newest 0x0B04 0 0 0 off ∧
      ∀ f i, f ≠ .LOG_LOST_COUNT → f ≠ .HOST_IRQ_STATUS_SRC → t.word f i = s.word f i
    (∀ off, off < 0x4000000 → s.HostReady → s.holds off = none →
      (off % 4 = 0 → exec (wr off) s = .next (s.regWrite off v.toNat)) ∧
      (off % 4 ≠ 0 → ∃ t, exec (wr off) s = .next t ∧ hole t off) ∧
      (off % 4 = 0 → s.Masked → s.PlainWrite off v.toNat → ∃ t, exec (wr off) s = .next t ∧ s.OnlyRegs t ∧
        (fieldsAt off = [] → hole t off) ∧
        (fieldsAt off ≠ [] → t.log = s.log ∧
          ∀ f i, (f, i) ∉ fieldsAt off → f ≠ .NUM_MON_FLAGS_FLAGS → t.word f i = s.word f i) ∧
        ∀ f i, (f, i) ∈ fieldsAt off →
          let x := v.toNat / 2 ^ f.info.lo % 2 ^ f.info.width
          (f.info.acc = .rw ∨ f.info.acc = .rwf → t.get f i = x) ∧
          (f.info.acc = .ro ∨ f.info.acc = .wo → t.word f i = s.word f i) ∧
          (f.info.acc = .w1c →
            let j := if f = .NUM_MON_FLAGS_FLAGS then s.get .NUM_MON_FLAG_SEL_WORD else i
            ∀ b, b < 32 → (t.word f j).getLsbD b = ((s.word f j).getLsbD b && !x.testBit b)))) ∧
    (s.HostReady →
      let ignored (t : State) (off : Nat) : Prop := s.OnlyRegs t ∧ t.Newest 0x0B01 0 0 0 off
      (∃ t, exec (wr 0x84) s = .next t ∧ s.OnlyRegs t ∧ t.log = s.log ∧ (s.Masked → ∀ b, b < 19 →
        (t.word .HOST_IRQ_STATUS_SRC).getLsbD b = ((s.word .HOST_IRQ_STATUS_SRC).getLsbD b && !v.getLsbD b))) ∧
      (v.toNat % 65536 ≠ 0 → ∃ t, exec (wr 0x600010) s = .next t ∧ s.OnlyRegs t ∧ t.log = s.log ∧
        t.get .TXN_TIMEOUT_SECONDS = v.toNat % 65536) ∧
      (v.toNat % 65536 = 0 → ∃ t, exec (wr 0x600010) s = .next t ∧ ignored t 0x600010 ∧
        t.get .TXN_TIMEOUT_SECONDS = s.get .TXN_TIMEOUT_SECONDS) ∧
      exec (wr 0x200008) s = .next s ∧
      (∃ t, exec (wr 0x300020) s = .next t ∧ s.OnlyRegs t ∧ t.log = s.log ∧ t.get .THERM_SEL_REGION = v.toNat % 512) ∧
      (s.shadowBank.lockPolicy = true → ∃ t, exec (wr 0x400200) s = .next t ∧ s.OnlyRegs t ∧
        t.Newest 0x0B02 0 0 0 0x400200 ∧ t.get .FUSE_POLICY_OOB_ADMIN = s.get .FUSE_POLICY_OOB_ADMIN) ∧
      (s.shadowBank.lockPolicy = false → ∃ t, exec (wr 0x400200) s = .next t ∧ s.OnlyRegs t ∧ t.log = s.log ∧
        t.get .FUSE_POLICY_OOB_ADMIN = v.toNat % 2 ∧ t.get .FUSE_POLICY_DEBUG_SOFT = v.toNat / 2 % 2)))

/-! ### Power, clocks and heat -/

/-- Feeds: a sample sets the readings and the range counts, a feed out of range is isolated and one in range readmitted,
and one isolated that moves to another range takes its state; three overcurrents latch it. The bus: at 40 V or less a class M
reset, also while start-up waits to run, the sag warning with its 6 kW cap and its end, the hold-up store, which supplies the
bus while it has energy. The cap loop samples the power of both feeds and moves the level one step by its 10 µs average. The model's choices it rests on: log entries 99,
100 and 101. -/
def Obligations.FeedsAndBus : Prop :=
  (∀ (s : State) (f : FeedName),
    let g := feedRegs f
    let c := s.feedCtr f
    let up := s.get g.state = 0
    (∀ r : FeedReading, ∃ t, exec (.feedSample f r) s = .next t ∧ t.mem = s.mem ∧ t.job = s.job ∧
      t.get g.volts = (BitVec.ofInt 16 r.volts).toNat ∧ t.get g.amps = min r.amps 0xFFFF ∧ t.get g.state = s.get g.state ∧
      (t.get g.carry = 1 ↔ up ∧ 100 < r.amps) ∧
      (t.feedCtr f).low = (if r.volts < 3600 ∧ -100 ≤ r.volts then c.low + 1 else 0) ∧
      (t.feedCtr f).high = (if 6000 < r.volts then c.high + 1 else 0) ∧
      let near := (3600 ≤ r.volts ∧ r.volts < 4000) ∨ (5800 < r.volts ∧ r.volts ≤ 6000)
      (t.feedCtr f).range = (if near then c.range + 1 else 0) ∧ (¬ near → t.get g.range = 0 ∧ t.log = s.log) ∧
      (near → 9 ≤ c.range → s.get g.range = 0 → t.get g.range = 1 ∧ (¬ up → t.log = s.log) ∧
        (up → t.Newest 0x0103 0 (feedNo f) 0 (BitVec.ofInt 16 r.volts).toNat))) ∧
    (∀ st, up → s.feedDue f = some st → ∃ t, exec (.feedIsolate f) s = .next t ∧ s.OnlyRegs t ∧ t.get g.state = st ∧
      t.get g.isoSeen = 1 ∧ t.get g.carry = 0 ∧
      t.get .PWR_EVENTS_ISOLATIONS = min (s.get .PWR_EVENTS_ISOLATIONS + 1) 0xFFFF ∧ t.Irq 15 ∧
      t.Newest 0x0101 0 (feedNo f) st (s.get g.volts)) ∧
    (s.feedVolts f < -100 → s.feedDue f = some 2) ∧
    (-100 ≤ s.feedVolts f → 2 ≤ c.high → s.feedDue f = some 3) ∧
    (-100 ≤ s.feedVolts f → c.high < 2 → 10 ≤ c.low → s.feedDue f = some 1) ∧
    (∀ st, ¬ up → s.feedDue f = some st → ∃ t, exec (.feedIsolate f) s = .next t ∧ s.OnlyRegs t ∧ t.get g.state = st ∧
      t.log = s.log ∧ t.get .PWR_EVENTS_ISOLATIONS = s.get .PWR_EVENTS_ISOLATIONS) ∧
    (s.feedDue f = none → exec (.feedIsolate f) s = .next s) ∧
    (let back := ¬ up ∧ 4000 ≤ s.feedVolts f ∧ s.feedVolts f ≤ 5800 ∧ c.latched = false
     (back → ∃ t, exec (.feedReadmit f) s = .next t ∧ s.OnlyRegs t ∧ t.get g.state = 0 ∧
       t.Newest 0x0102 0 (feedNo f) 0 (s.get g.volts)) ∧
     (¬ back → exec (.feedReadmit f) s = .next s)) ∧
    (up → ∃ t, exec (.feedOvercurrent f) s = .next t ∧ t.get g.state = 1 ∧ t.Newest 0x0101 0 (feedNo f) 4 (s.get g.volts) ∧
      ((t.feedCtr f).latched = true ↔ c.latched = true ∨
        2 ≤ (c.openings.filter (fun x => s.fc < x + 84000000000)).length)) ∧
    (¬ up → exec (.feedOvercurrent f) s = .next s)) ∧
  (∀ (s : State) (v : Nat),
    ∃ t, exec (.busSample v) s = .next t ∧ t.power.bus = v ∧
      let sag := s.get .PWR_FEED_STAT_SAG ≠ 0
      let armed := s.get .PWR_HOLDUP_ARMED ≠ 0
      let starts := s.power.inReset = false ∨ s.power.goodFeeds = true
      (s.power.inReset = true → ¬ (starts ∧ v ≤ 4000) → t.power = { s.power with bus := v } ∧
        t.get .PWR_BUS_VOLTS = min v 0xFFFF ∧ t.log = s.log ∧ t.flash = s.flash) ∧
      (starts → v ≤ 4000 → t.power.goodFeeds = false ∧ t.get .RES_RESET_CAUSE = 1 ∧ t.power.inReset = true ∧ t.image = none ∧
        t.mem = [] ∧ t.job = false ∧ t.Newest 0x0802 4 0 1 0 ∧ s.Flushed t) ∧
      (s.power.inReset = false → 4000 < v → t.get .PWR_BUS_VOLTS = min v 0xFFFF ∧
        (v ≤ 4600 → ¬ sag → t.get .PWR_FEED_STAT_SAG = 1 ∧ t.get .PWR_FEED_STAT_SAG_SEEN = 1 ∧ t.get .PWR_CAP_CAP_W = 6000 ∧
          t.get .PWR_CAP_LEVEL = 15 ∧ t.get .PWR_EVENTS_SAGS = min (s.get .PWR_EVENTS_SAGS + 1) 0xFFFF ∧ t.Irq 15 ∧
          (s.job = false → t.Newest 0x0104 0 0 0 v)) ∧
        (4700 ≤ v → sag → t.get .PWR_FEED_STAT_SAG = 0 ∧ t.get .PWR_CAP_CAP_W =
          if s.get .PWR_CAP_PROFILE = 0 then 25000 else if s.get .PWR_CAP_PROFILE = 2 then 17000 else 21000) ∧
        ((4600 < v ∧ v < 4700) ∨ (v ≤ 4600 ∧ sag) ∨ (4700 ≤ v ∧ ¬ sag) → t.log = s.log ∧
          t.get .PWR_CAP_CAP_W = s.get .PWR_CAP_CAP_W ∧ t.get .PWR_FEED_STAT_SAG = s.get .PWR_FEED_STAT_SAG) ∧
        (armed → v < 4500 → s.get .PWR_HOLDUP_JOULES ≠ 0 → t.get .PWR_HOLDUP_ACTIVE = 1) ∧
        (armed → v ≤ 4700 → s.get .PWR_HOLDUP_JOULES = 0 → t.get .PWR_HOLDUP_ACTIVE = s.get .PWR_HOLDUP_ACTIVE) ∧
        t.get .PWR_HOLDUP_READY = s.get .PWR_HOLDUP_READY ∧
        (armed → 4700 < v → s.get .PWR_HOLDUP_ACTIVE ≠ 0 → t.get .PWR_HOLDUP_ACTIVE = 0) ∧
        (¬ armed → t.get .PWR_HOLDUP_ACTIVE = s.get .PWR_HOLDUP_ACTIVE))) ∧
  (∀ s : State,
    let good := s.power.inReset = true ∧ s.power.tripLatched = false ∧ 4700 ≤ s.power.bus ∧
      (s.feedConnected .a = true ∨ s.feedConnected .b = true)
    (good → exec .goodFeeds s = .next { s with power := { s.power with goodFeeds := true } }) ∧
    (¬ good → exec .goodFeeds s = .next s) ∧
    ∀ joules : Nat,
      let fitted := s.get .PWR_HOLDUP_FITTED ≠ 0
      let charges := s.get .PWR_HOLDUP_ARMED ≠ 0 ∧ s.get .PWR_HOLDUP_ACTIVE = 0 ∧ 4700 ≤ s.power.bus
      let held := s.get .PWR_HOLDUP_JOULES
      (fitted → ∃ t, exec (.holdupStoreReady joules) s = .next t ∧ s.OnlyRegs t ∧
        (charges → t.get .PWR_HOLDUP_JOULES = min joules 0xFFFF) ∧
        (¬ charges → t.get .PWR_HOLDUP_JOULES = min joules held) ∧
        (t.get .PWR_HOLDUP_READY = 1 ↔ 400 ≤ t.get .PWR_HOLDUP_JOULES) ∧
        (t.get .PWR_HOLDUP_JOULES = 0 → t.get .PWR_HOLDUP_ACTIVE = 0) ∧
        (t.get .PWR_HOLDUP_JOULES ≠ 0 → t.get .PWR_HOLDUP_ACTIVE = s.get .PWR_HOLDUP_ACTIVE)) ∧
      (¬ fitted → exec (.holdupStoreReady joules) s = .next s)) ∧
  (∀ s : State, s.get .PWR_CAP_LEVEL ≤ 15 →
    let power (f : FeedName) : Nat := (s.feedVolts f).toNat * s.get (feedRegs f).amps
    let ws := ((power .a + power .b) :: s.power.watts).take 100
    let ten := (ws.take 10).sum
    let n := min ws.length 10
    let cap := 1000 * s.get .PWR_CAP_CAP_W
    let k := s.get .PWR_CAP_LEVEL
    let below := if ten * 10 < 9 * cap * n then s.power.below + 1 else 0
    ∃ t, exec (.capLoopTick 0) s = .next t ∧ (∀ n, exec (.capLoopTick (n + 1)) s = exec (.capLoopTick n) t) ∧
      t.power.watts = ws ∧ t.power.below = min below 20 ∧ t.mem = s.mem ∧
      t.get .PWR_BUS_WATTS = min (ws.sum / ws.length / 1000) 0xFFFF ∧ t.get .PWR_CAP_CAP_W = s.get .PWR_CAP_CAP_W ∧
      t.get .PWR_CAP_LEVEL = (if cap * n < ten then min (k + 1) 15 else if 20 ≤ below then k - 1 else k))

/-- A short latches a region off with its defect entry; two samples in a row at the trip point, or a lost lock, trip it to
Doze; each faults a job that runs. The 120 °C comparator resets the module and holds THERM_TRIP# until every sensor has read
below 80 °C. A relock shows LOCKED again. The model's choices it rests on: log entry 106. -/
def Obligations.HeatAndClocks : Prop :=
  ∀ (s : State) (r : RegionRef), s.get .PWR_LADDER_MODULE ≤ 4 →
    let st := s.get .PWR_REGION_STATE r
    let faults (t : State) (cause : Nat) : Prop := t.job = false ∧
      (s.job = true → t.get .RES_FAULT_CAUSE = cause ∧ t.get .RES_FAULT_REGION = r.val ∧ t.faulted = true)
    let trips (t : State) : Prop := t.get .PWR_REGION_STATE r = max 2 (s.get .PWR_LADDER_MODULE) ∧ t.get .PWR_REGION_CLK r = 0 ∧
      t.get .PWR_REGION_LOCKED r = 0 ∧ t.get .PWR_REGION_TRIPPED r = 1 ∧ t.Irq 16 ∧ faults t 3
    (s.get .PWR_REGION_SHORT r ≠ 0 ∨ st = 4 → exec (.regionSupplyShort r) s = .next s) ∧
    (s.get .PWR_REGION_SHORT r = 0 → st ≠ 4 → ∃ t, exec (.regionSupplyShort r) s = .next t ∧ t.get .PWR_REGION_STATE r = 4 ∧
      t.get .PWR_REGION_SHORT r = 1 ∧ t.get .PWR_REGION_CLK r = 0 ∧ regionBarred t.defectMap r = true ∧ faults t 2) ∧
    (s.get .PWR_REGION_CLK r = 0 → exec (.pllLockLoss r) s = .next s) ∧
    (s.get .PWR_REGION_CLK r ≠ 0 → ∃ t, exec (.pllLockLoss r) s = .next t ∧ trips t ∧ (t.region r).lockLost = true ∧
      t.get .PWR_REGION_EVT_LOCK_LOSS r = min (s.get .PWR_REGION_EVT_LOCK_LOSS r + 1) 255) ∧
    ((s.region r).lockLost = true → s.get .PWR_REGION_SHORT r = 0 → ∃ t, exec (.pllRelock r) s = .next t ∧
      t.get .PWR_REGION_LOCKED r = 1 ∧ (t.region r).lockLost = false ∧ t.get .PWR_REGION_STATE r = st ∧ t.log = s.log) ∧
    ((s.region r).lockLost = false ∨ s.get .PWR_REGION_SHORT r ≠ 0 → exec (.pllRelock r) s = .next s) ∧
    (∀ tj : BitVec 16,
      let v := tj.toInt
      let k := s.get .THERM_REGION_LEVEL r
      let start : Int := s.get .THERM_POINTS_THROTTLE_C * 16
      let limit : Int := s.get .THERM_POINTS_TRIP_C * 16
      let free := s.power.tripLatched = false
      (free → s.get .THERM_REGION_VALID r = 0 → exec (.thermalSample r tj) s = .next s) ∧
      (free → s.get .THERM_REGION_VALID r ≠ 0 → k ≤ 12 → ∃ t, exec (.thermalSample r tj) s = .next t ∧
        t.get .THERM_REGION_TJ r = tj.toNat ∧
        t.get .PWR_REGION_THERM_LEVEL r = t.get .THERM_REGION_LEVEL r ∧
        (start ≤ v → k < 12 → (k : Int) * 16 ≤ v - start → t.get .THERM_REGION_LEVEL r = k + 1) ∧
        (0 < k → v < start + k * 16 - 24 → t.get .THERM_REGION_LEVEL r = k - 1) ∧
        (k = 0 → v < start → t.get .THERM_REGION_LEVEL r = 0) ∧
        (v < limit → (t.region r).hot = 0 ∧ t.get .PWR_REGION_STATE r = st ∧ t.job = s.job ∧ t.mem = s.mem) ∧
        (limit ≤ v → 1 ≤ (s.region r).hot → s.get .PWR_REGION_TRIPPED r = 0 →
          trips t ∧ t.get .THERM_SUM_TRIPS = min (s.get .THERM_SUM_TRIPS + 1) 0xFFFF)) ∧
      (¬ free → ∃ t, exec (.thermalSample r tj) s = .next t ∧
        (∀ i, i < 400 → t.power.hotMask.getLsbD i =
          if i = r.val then decide (80 * 16 ≤ v) else s.power.hotMask.getLsbD i) ∧
        (t.power.tripLatched = true ↔ t.power.hotMask ≠ 0) ∧
        (t.power.hotMask = 0 → t.get .RES_MGMT_THERM_TRIP = 0) ∧
        (t.power.hotMask ≠ 0 → t.get .RES_MGMT_THERM_TRIP = s.get .RES_MGMT_THERM_TRIP) ∧ t.log = s.log)) ∧
    (s.power.tripLatched = true → exec (.thermalComparatorTrip r) s = .next s) ∧
    (s.power.tripLatched = false → ∃ t, exec (.thermalComparatorTrip r) s = .next t ∧ t.get .RES_MGMT_THERM_TRIP = 1 ∧
      t.power.tripLatched = true ∧ t.power.hotMask = BitVec.allOnes 400 ∧ t.get .RES_RESET_CAUSE = 2 ∧
      t.power.inReset = true ∧ t.image = none ∧ t.mem = [] ∧ t.job = false ∧ t.Newest 0x0802 4 0 2 0 ∧ s.Flushed t)

/-- A coolant sample sets the readings, raises and clears the warnings after their counts, and drives the coolant check,
whose evaluation, by the mean difference of the 10 s that end the count, passes, fails as swapped, repeats or ends
inconclusive; a check that failed starts again after 5 s of low flow. The model's choices it rests on: log entries 105, 142
and 152. -/
def Obligations.CoolantWarningsAndCheck : Prop :=
  (∀ (s : State) (inlet outlet flow : BitVec 16),
    ∃ t, exec (.coolantSample inlet outlet flow) s = .next t ∧ t.get .THERM_COOL_INLET = inlet.toNat ∧
      t.get .THERM_COOL_OUTLET = outlet.toNat ∧ t.get .THERM_FLOW_FLOW = flow.toNat ∧ t.job = s.job ∧
      let limit : Int := s.get .THERM_POINTS_OUTLET_C * 16
      let hot := limit ≤ outlet.toInt
      let out := inlet.toInt < 18 * 16 ∨ 40 * 16 < inlet.toInt ∨ flow.toNat < 450
      let warned := t.get .THERM_FLOW_WARN_SEEN = 1 ∧ t.Irq 16
      (hot → 4 ≤ s.cool.high → s.get .THERM_FLOW_OUTLET_WARN = 0 → t.get .THERM_FLOW_OUTLET_WARN = 1 ∧ warned) ∧
      (outlet.toInt < limit - 32 → 4 ≤ s.cool.low → t.get .THERM_FLOW_OUTLET_WARN = 0) ∧
      (¬ hot → limit - 32 ≤ outlet.toInt → t.get .THERM_FLOW_OUTLET_WARN = s.get .THERM_FLOW_OUTLET_WARN) ∧
      (out → 99 ≤ s.cool.bad → s.get .THERM_FLOW_RANGE_WARN = 0 → t.get .THERM_FLOW_RANGE_WARN = 1 ∧ warned) ∧
      (¬ out → 99 ≤ s.cool.good → t.get .THERM_FLOW_RANGE_WARN = 0) ∧
      let checks := s.cool.checkOn = true ∧ s.get .RES_COOL_CHECK_STATE ≤ 1
      (checks → 450 ≤ flow.toNat → t.get .RES_COOL_CHECK_STATE = 1 ∧ t.cool.flowFor = s.cool.flowFor + 1 ∧
        t.cool.deltas = ((outlet.toInt - inlet.toInt) :: s.cool.deltas).take 9000) ∧
      (checks → flow.toNat < 450 → t.get .RES_COOL_CHECK_STATE = 0 ∧ t.get .RES_COOL_CHECK_REPEATS = 0 ∧ t.cool.flowFor = 0 ∧
        t.cool.deltas = []) ∧
      (¬ checks → t.get .RES_COOL_CHECK_STATE = s.get .RES_COOL_CHECK_STATE ∧ t.cool.flowFor = s.cool.flowFor ∧
        t.cool.deltas = s.cool.deltas)) ∧
  (∀ (s : State) (delta : BitVec 16),
    let n := s.get .RES_COOL_CHECK_REPEATS
    let ten := (s.cool.deltas.drop (s.cool.flowFor - (3000 + 1000 * n))).take 1000
    let m : Int := ten.length
    let due := s.cool.checkOn = true ∧ s.get .RES_COOL_CHECK_STATE = 1 ∧ 3000 + 1000 * n ≤ s.cool.flowFor ∧ ten ≠ [] ∧
      ten.sum < (delta.toInt + 1) * m ∧ (delta.toInt - 1) * m < ten.sum
    (¬ due → exec (.coolantCheckEval delta) s = .next s) ∧
    (due → ∃ t, exec (.coolantCheckEval delta) s = .next t ∧ t.get .RES_COOL_CHECK_DELTA = delta.toNat ∧ t.job = s.job ∧
      (4 * m ≤ ten.sum → t.get .RES_COOL_CHECK_STATE = 2 ∧ t.log = s.log) ∧
      (ten.sum ≤ -4 * m → t.get .RES_COOL_CHECK_STATE = 3 ∧ t.Irq 16 ∧ t.Newest 0x0206 0 0 3 delta.toNat) ∧
      (-4 * m < ten.sum → ten.sum < 4 * m → n < 6 → t.get .RES_COOL_CHECK_STATE = 1 ∧
        t.get .RES_COOL_CHECK_REPEATS = n + 1 ∧ t.log = s.log) ∧
      (-4 * m < ten.sum → ten.sum < 4 * m → 6 ≤ n → t.get .RES_COOL_CHECK_STATE = 4 ∧ t.Irq 16 ∧
        t.Newest 0x0206 0 0 4 delta.toNat))) ∧
  (∀ s : State,
    let again := (s.get .RES_COOL_CHECK_STATE = 3 ∨ s.get .RES_COOL_CHECK_STATE = 4) ∧ 500 ≤ s.cool.lowFlow
    (again → ∃ t, exec .coolantCheckRestart s = .next t ∧ t.get .RES_COOL_CHECK_STATE = 0 ∧
      t.get .RES_COOL_CHECK_REPEATS = 0 ∧ t.cool.flowFor = 0 ∧ t.cool.deltas = [] ∧ t.log = s.log) ∧
    (¬ again → exec .coolantCheckRestart s = .next s))

/-- STARTUP senses the fuses, stops where they are BLANK or no firmware copy verifies, and else runs the copy, fills every
memory with zeros and is READY unless no stack is usable. A fuse request is checked, runs, and blows both fuses of each bit;
the lifecycle it sets waits for
the next reset. Scan drive, the firmware watchdog and a lost edge bridge have the effects of their class. The model's
choices it rests on: log entries 103, 108, 109 and 140. -/
def Obligations.StartupFusesAndTest : Prop :=
  (∀ (s : State) (found : StartupFindings),
    let go := s.power.goodFeeds = true ∧ s.power.inReset = true
    let life := s.fuses.read.lifecycle
    let u : State := { s with shadowBank := s.fuses.read }
    let copies := s.flash.fwA = none ∧ s.flash.fwB = none
    (¬ go → exec (.startup found) s = .next s) ∧
    (go → ∃ t, exec (.startup found) s = .next t ∧ t.power.inReset = false ∧ t.fuses = s.fuses ∧
      t.shadowBank = s.fuses.read ∧
      (life = 0 → t.get .RES_START_STATE_STEP = 2 ∧ t.get .RES_START_STATE_READY = 0 ∧ t.firmware = s.firmware) ∧
      (life ≠ 0 → copies → found.copyA = none → found.copyB = none → t.get .RES_START_STATE_STEP = 3 ∧
        t.get .RES_START_STATE_READY = 0 ∧ t.get .RES_START_STATE_RECOVERY = 1) ∧
      (∀ p, life ≠ 0 → s.flash.fwA = some p → s.flash.fwB = none → found.copyB = none →
        (u.firmwareGood p = true →
          t.firmware = some (false, BitVec.ofNat 7 (parseHeader p).arb, (parseHeader p).digest)) ∧
        (u.firmwareGood p = false → t.get .RES_START_STATE_STEP = 3 ∧ t.get .RES_START_STATE_RECOVERY = 1)) ∧
      (∀ arb, life ≠ 0 → copies → found.copyA = some arb → found.copyB = none → s.fuses.read.slot0.isSome = true →
        s.fuses.read.fwCount ≤ arb →
        t.firmware = some (false, arb, found.digestA) ∧ t.mem = [] ∧ t.bad = [] ∧
        let usable := ∃ st, st < 36 ∧ ∀ d ∈ t.defectMap, defKind d = 5 → defLoc d % 64 ≠ st
        (usable → t.get .RES_START_STATE_READY = 1 ∧ t.get .RES_START_STATE_FAIL = 0 ∧
          t.get .MEM_RING_CFG_RING_FILLED = 1 ∧ t.get .MEM_RING_CFG_SRAM_FILLED = 1) ∧
        (found.logRestored = true → s.flash.log ≠ [] → t.get .LOG_FLASH_RESTORED = 1) ∧
        (¬ usable → t.get .RES_START_STATE_READY = 0 ∧ t.get .RES_START_STATE_FAIL = 1 ∧
          t.get .RES_START_STATE_STEP = 7)))) ∧
  (∀ (s : State) (v : Word), s.HostReady →
    let addr := s.get .FUSE_REQ_LO_ADDR + 2 ^ 32 * s.get .FUSE_REQ_HI_ADDR
    let idle := s.get .FUSE_REQ_CTRL_BUSY = 0
    let shows (t : State) (busy result record : Nat) : Prop := t.get .FUSE_REQ_CTRL_BUSY = busy ∧
      t.get .FUSE_REQ_CTRL_RESULT = result ∧ t.get .FUSE_REQ_CTRL_RECORD = record ∧ t.fuses = s.fuses
    (v.getLsbD 0 = false ∨ ¬ idle → exec (.fuseRequest v) s = .next s) ∧
    (v.getLsbD 0 = true → idle → addr % 4096 ≠ 0 ∨ s.ringTop ≤ addr → ∃ t, exec (.fuseRequest v) s = .next t ∧
      s.OnlyRegs t ∧ shows t 0 8 0) ∧
    (∀ res i, v.getLsbD 0 = true → idle → (s.fuseRead addr).2 = .error (res, i) → ∃ t, exec (.fuseRequest v) s = .next t ∧
      shows t 0 (res % 16) (i % 256) ∧ t.fuseOps = s.fuseOps) ∧
    (∀ ops, v.getLsbD 0 = true → idle → (s.fuseRead addr).2 = .ok ops → ∃ t, exec (.fuseRequest v) s = .next t ∧
      shows t 1 0 0 ∧ t.fuseOps = ops)) ∧
  (∀ (s : State) (k : Nat),
    let busy := s.get .FUSE_REQ_CTRL_BUSY ≠ 0
    (¬ busy → exec (.fuseRequestDone .good) s = .next s ∧ exec (.fuseRequestDone (.failed k)) s = .next s) ∧
    (busy → ∃ t, exec (.fuseRequestDone .good) s = .next t ∧ t.fuses.one = blowAll s.fuseOps s.fuses.one ∧
      t.fuses.two = blowAll s.fuseOps s.fuses.two ∧ t.fuseOps = [] ∧
      t.get .FUSE_REQ_CTRL_BUSY = 0 ∧ t.shadowBank.lifecycle = s.shadowBank.lifecycle ∧ s.fuses.Le t.fuses ∧
      (∀ n data, s.fuseOps = [⟨3, n, data⟩] → s.fuses.read.fwCount.toNat < n → n ≤ 127 →
        t.fuses.read.fwCount = BitVec.ofNat 7 n) ∧
      (∀ data, s.fuseOps = [⟨2, 2, data⟩] → s.fuses.read.lifecycle = 1 → t.fuses.read.lifecycle = 2)) ∧
    (busy → k < s.fuseOps.length → ∃ t, exec (.fuseRequestDone (.failed k)) s = .next t ∧ s.fuses.Le t.fuses ∧
      t.fuseOps = [] ∧ t.get .FUSE_REQ_CTRL_BUSY = 0 ∧ t.get .FUSE_REQ_CTRL_RESULT = 7 ∧
      t.get .FUSE_REQ_CTRL_RECORD = k % 256 ∧ t.shadowBank.lifecycle = s.shadowBank.lifecycle) ∧
    (busy → s.fuseOps.length ≤ k → exec (.fuseRequestDone (.failed k)) s = .next s)) ∧
  (∀ s : State,
    (s.feature 1 = true → ∃ t, exec (.scanChainDrive true) s = .next t ∧ t.scanDriven = true ∧ t.job = false ∧
      (s.job = true → t.get .RES_FAULT_CAUSE = 9)) ∧
    (s.feature 1 = false → exec (.scanChainDrive true) s = .next s) ∧
    exec (.scanChainDrive false) s = .next { s with scanDriven := false } ∧
    (s.firmware = none → exec .firmwareWatchdog s = .next s) ∧
    (s.firmware ≠ none → ∃ t, exec .firmwareWatchdog s = .next t ∧ t.get .RES_RESET_CAUSE = 3 ∧ t.power.inReset = true ∧
      t.image = none ∧ t.mem = [] ∧ t.job = false ∧ t.Newest 0x0802 4 0 3 0 ∧ s.Flushed t)) ∧
  (∀ (s : State) (b : Fin 18), ∃ t, exec (.edgeBridgeFault b) s = .next t ∧ t.mem = s.mem ∧ t.cores = s.cores ∧
    (∀ st, st < 36 → t.stackLost st = (s.stackLost st || decide (st / 2 = b.val))) ∧
    ∀ st, st < 36 → st / 2 = b.val → ∃ d ∈ t.defectMap, defKind d = 5 ∧ defLoc d = st)

/-! ### Securing state -/

/-- A scheduled drain starts as its slot opens, a deferred one at the quiet point, an earlier drain going on beside it;
reading its last byte frees the gate, and the copy goes out over the partner ports in turn, 128 B at a time, data before
header; an uncorrectable error on the way ends it and faults the job; the partner's answer, or none, gives the result of the
oldest drain. The model's choices it rests on: log entry 83. -/
def Obligations.DrainLife : Prop :=
  ∀ s : State,
    let paired := s.partnerPorts ≠ [] ∧ s.get .RES_PAIR_IN_EFFECT ≠ 0
    let opens (t : State) (step : Nat) (urgent : Bool) : Prop := ∃ d, t.drain = some d ∧ d.step = BitVec.ofNat 64 step ∧
      d.urgent = urgent ∧ d.unpaced = urgent ∧ d.readDone = false ∧ d.startFc = s.fc ∧ d.activity = false ∧
      t.replies = s.replies ++ s.drain.toList
    let failsAtOnce (t : State) : Prop := t.drain = none ∧ t.replies = s.replies ++ s.drain.toList ∧ t.get .MNT_DRAIN_RESULT = 1 ∧ t.Irq 10 ∧
      t.get .MNT_DRAIN_FAILS = min (s.get .MNT_DRAIN_FAILS + 1) 0xFFFF
    (let due := s.scheduled = true ∧ s.job = true ∧ s.get .RES_STEP_STATE_STABLE ≠ 0 ∧ s.slotReached = true
     (due → ∃ t, exec .drainStart s = .next t ∧ t.scheduled = false ∧ t.mem = s.mem ∧
       (paired → opens t s.stepCount false) ∧ (¬ paired → failsAtOnce t)) ∧
     (¬ due → exec .drainStart s = .next s)) ∧
    (let due := (∃ q, s.quiet = some q ∧ (q.first = true ∨ (q.applied = true ∧ s.areaWaits = false))) ∧
       s.commitWaits = false ∧ s.due = true
     (∀ q, due → s.quiet = some q → ∃ t, exec .deferredDrainStart s = .next t ∧ t.due = false ∧
       t.deferred = s.deferred ∧ t.mem = s.mem ∧
       (q.secureCounted = false → t.get .RES_STEP_HOLDS_SECURE = min (s.get .RES_STEP_HOLDS_SECURE + 1)
         Field.RES_STEP_HOLDS_SECURE.mask.toNat) ∧
       (paired → opens t (if q.first then s.stepCount else s.stepCount + 1) true) ∧ (¬ paired → failsAtOnce t)) ∧
     (¬ due → exec .deferredDrainStart s = .next s)) ∧
    ((∀ d ∈ s.drains, d.readDone = true) → exec .drainReadDone s = .next s) ∧
    (∀ d, s.nextRead = some d → s.NoErrors → ∃ t, exec .drainReadDone s = .next t ∧ s.OnlyRegs
        { t with drain := s.drain, replies := s.replies, sentCopy := s.sentCopy, ports := s.ports } ∧
      (let us := (s.fc - d.startFc) * 20 / 28000
       let read (x : Drain) : Drain := if x = d then { x with readDone := true, readUs := us } else x
       t.drain = s.drain.map read ∧ t.replies = s.replies.map read ∧ t.get .MNT_DRAIN_TIME_US = min us 0xFFFFFFFF) ∧
      ∀ a n, s.uniqueRanges = [(a, n)] → s.snoopWait = [] →
        let head := copyHeader (s.ownCopy d) n
        let data := memRead s.mem a n
        t.sentCopy = head ++ data ∧ s.Sends t s.partnerPorts true (data ++ head)) ∧
    (∀ d k x y, s.replies = [] → s.drain = some d → d.readDone = false → s.lostStacks = 0 → s.bad = [(k, [x, y])] →
      s.inUnique k = true → s.activities = [] →
      ∃ t, exec .drainReadDone s = .next t ∧ t.drain = none ∧ t.get .MNT_DRAIN_RESULT = 6 ∧ t.job = false ∧
        (s.job = true → t.get .RES_FAULT_CAUSE = 8)) ∧
    (s.drain = none → s.replies = [] →
      ∀ reply, exec (.drainEnd reply) s = .next s ∧ exec .drainPartnerTimeout s = .next s) ∧
    (∀ d rest, s.replies = d :: rest ∨ (s.replies = [] ∧ s.drain = some d) →
      (d.readDone = false → exec (.drainEnd .complete) s = .next s) ∧
      (s.activities = [] →
        let ends (i : Instr) (result : Nat) (p : State → Prop) : Prop := ∃ t, exec i s = .next t ∧
          (s.replies = [] → t.drain = none ∧ t.replies = []) ∧
          (s.replies = d :: rest → t.drain = s.drain ∧ t.replies = rest) ∧
          t.get .MNT_DRAIN_RESULT = result ∧ t.get .MNT_DRAIN_STATE =
            (if t.drain.isSome ∨ t.replies ≠ [] then 1 else 0) + (if s.deferred ∨ s.due then 2 else 0) ∧ t.Irq 10 ∧
          t.Newest 0x0902 0 0 result d.step.toNat ∧ t.mem = s.mem ∧ p t
        let failed (t : State) : Prop := t.redrain = true ∧ t.lastDrain = s.lastDrain ∧ t.drainTimes = s.drainTimes ∧
          t.get .MNT_DRAIN_FAILS = min (s.get .MNT_DRAIN_FAILS + 1) 0xFFFF
        (d.readDone = true → ends (.drainEnd .complete) 0 (fun t => t.lastDrain = some d.step ∧
          t.get .MNT_DRAIN_STEP_STEP = d.step.toNat % 2 ^ 32 ∧ t.get .MNT_SEC_EFF_SINCE = 0 ∧
          t.drainTimes = (d.readUs :: s.drainTimes).take 8)) ∧
        ends (.drainEnd .unavailable) 2 failed ∧ ends (.drainEnd .slotTooSmall) 3 failed ∧
        ends (.drainEnd .otherSource) 4 failed ∧ ends (.drainEnd .portsLost) 5 failed ∧
        ends .drainPartnerTimeout 2 failed))

/-- A copy that its source, its slot and the ring admit goes into the slot that does not hold the newest, header after data,
and leaves that slot invalid where its data breaks off; the source is told that it is complete, or why it is refused; a
request is answered, over the ports to the source, with the headers or the copy of a step; releasing the source, or moving
the hosted area, drops the copies; an area that does not fit is ignored, and a write at another offset is a write of the
register there. The model's choices it rests on: log entries 98 and 115. -/
def Obligations.HostedCopies : Prop :=
  (∀ (s : State) (copy : CopyInfo) (data : List Byte),
    let size := (copy.ranges.map (fun r => r.2 * 4096)).sum
    let other := s.get .MNT_HOST_SRC_VALID = 0 ∨ s.get .MNT_HOST_SRC_MODULE_ID ≠ copy.sourceId.toNat
    let small := (s.copySlot 0).2 < 4096 + size
    let ports := s.portsTo copy.sourceId.toNat
    let told (r : DrainReply) := if ports = [] then s.partnerOut else s.partnerOut ++ [(ports, .copied copy.step r)]
    let tells (r : DrainReply) : Prop :=
      exec (.hostedCopyWrite copy data) s = .next { s with partnerOut := told r }
    (other → tells .otherSource) ∧ (¬ other → s.ringAsleep = true → tells .unavailable) ∧
    (¬ other → s.ringAsleep = false → small → tells .slotTooSmall) ∧
    (¬ other → s.ringAsleep = false → ¬ small → s.NoErrors → s.snoop = [] → ∃ t k,
      exec (.hostedCopyWrite copy data) s = .next t ∧ k < 2 ∧ t.hostedCopy (1 - k) = s.hostedCopy (1 - k) ∧
      (data.length < size → t.hostedCopy k = none ∧ t.get .MNT_HCOPY_STAT_VALID k = 0 ∧ t.partnerOut = s.partnerOut) ∧
      (size ≤ data.length → t.hostedCopy k = some copy ∧ t.get .MNT_HCOPY_STAT_VALID k = 1 ∧
        t.get .MNT_HCOPY_STEP_STEP k = copy.step.toNat % 2 ^ 32 ∧ t.partnerOut = told .complete) ∧
      (∀ x y, s.hostedCopy 0 = some x → s.hostedCopy 1 = some y → k = if y.counter.toNat < x.counter.toNat then 1 else 0) ∧
      (∀ x, s.hostedCopy 0 = some x → s.hostedCopy 1 = none → k = 1) ∧ (s.hostedCopy 0 = none → k = 0) ∧
      let base := (s.copySlot k).1
      ∀ y, memByte t.mem y =
        if base ≤ y ∧ y < base + 4096 ∧ size ≤ data.length then (copyHeader copy size).getD (y - base) 0
        else if base + 4096 ≤ y ∧ y < base + 4096 + min size data.length then data.getD (y - (base + 4096)) 0
        else memByte s.mem y)) ∧
  (∀ s : State,
    let off := s.get .MNT_HOST_SRC_VALID = 0 ∨ s.ringAsleep = true
    let replies (step : Option (BitVec 64)) (bytes : List Byte) : Prop :=
      ∃ t, exec (.hostedCopyRequest step) s = .next t ∧ t = { s with hostedReply := bytes, ports := t.ports } ∧
        s.Sends t (s.portsTo (s.get .MNT_HOST_SRC_MODULE_ID)) false bytes
    let size (x : CopyInfo) : Nat := (x.ranges.map (fun r => r.2 * 4096)).sum
    let header (k : Nat) : List Byte := if (s.hostedCopy k).isSome then memRead s.mem (s.copySlot k).1 4096
      else List.replicate 4096 0
    (off → ∀ step, replies step []) ∧
    (¬ off → s.NoErrors → s.snoopWait = [] → replies none (header 0 ++ header 1) ∧
      (∀ n, (∀ k x, k < 2 → s.hostedCopy k = some x → x.step ≠ n) → replies (some n) []) ∧
      (∀ x, s.hostedCopy 0 = some x → replies (some x.step) (memRead s.mem (s.copySlot 0).1 (4096 + size x))) ∧
      (∀ x, s.hostedCopy 1 = some x → (∀ y, s.hostedCopy 0 = some y → y.step ≠ x.step) →
        replies (some x.step) (memRead s.mem (s.copySlot 1).1 (4096 + size x))))) ∧
  (∀ (s : State) (v : Word),
    (∀ off, exec (.hostedAreaWrite off v) s = exec (.registerWrite off v) s) ∧
    (s.HostReady →
      let gone (t : State) : Prop := t.hosted = [] ∧ ∀ k, k < 2 → t.get .MNT_HCOPY_STAT_VALID k = 0
      (v.getLsbD 15 = false → exec (.hostedSourceRelease v) s = .next s) ∧
      (v.getLsbD 15 = true → ∃ t, exec (.hostedSourceRelease v) s = .next t ∧ gone t ∧ t.get .MNT_HOST_SRC_VALID = 0 ∧
        t.get .MNT_HOST_SRC_MODULE_ID = 0 ∧ t.mem = s.mem) ∧
      let writes (off : Nat) (f : Field) (x : Nat) : Prop :=
        let u := s.put f x
        let i : Instr := .hostedAreaWrite off v
        (u.hostedPlaced = false → ∃ t, exec i s = .next t ∧ s.OnlyRegs t ∧ t.Newest 0x0B01 0 0 0 off ∧
          t.hostedSpan = s.hostedSpan) ∧
        (u.hostedPlaced = true → ∃ t, exec i s = .next t ∧ t.get f = x ∧ t.log = s.log ∧ t.mem = s.mem ∧
          (u.hostedSpan = s.hostedSpan → t.hosted = s.hosted) ∧ (u.hostedSpan ≠ s.hostedSpan → gone t))
      writes 0xA00050 .MNT_HOST_BASE_LO_ADDR v.toNat ∧ writes 0xA00054 .MNT_HOST_BASE_HI_ADDR (v.toNat % 65536) ∧
      writes 0xA00058 .MNT_HOST_UNITS_UNITS (v.toNat % 2 ^ 28)))

/-- The SECURE_NOW# pin raises one request per assertion, and none until it has been deasserted for 100 µs, motion above the threshold for its time another; feed and site
tags that change make a pairing unverified, and a hosting partner reports its own; NEXT_ID waits in flash; the fault history decays and is saved every hour. The
model's choices it rests on: log entry 33. -/
def Obligations.SensingAndTags : Prop :=
  (∀ s : State,
    let windowShut := s.job = true ∧ s.get .RES_PAIR_IN_EFFECT ≠ 0 ∧ s.get .RES_STEP_STATE_PHASE ≠ 0 ∧
      s.get .RES_STEP_STATE_STABLE = 0
    let asks (t : State) (source : Nat) : Prop := (s.job = false → t.Newest 0x0901 0 0 source 0 ∧ t.drain = s.drain) ∧
      (windowShut → t.due = s.due ∧ t.deferred = (s.deferred || !s.due) ∧ t.drain = s.drain)
    let spent := s.sense.pinUsed = true ∧ s.fc < s.sense.pinFc + 140000
    (∀ level, s.sense.pin = level → exec (.secureNowPin level) s = .next s) ∧
    (s.sense.pin = false → ∃ t, exec (.secureNowPin true) s = .next t ∧ t.sense.pin = true ∧ t.sense.pinUsed = true ∧
      t.get .RES_MGMT_SECURE_NOW = 1 ∧ (¬ spent → asks t 1) ∧
      (spent → t.log = s.log ∧ t.drain = s.drain ∧ t.deferred = s.deferred ∧ t.due = s.due)) ∧
    (s.sense.pin = true → ∃ t, exec (.secureNowPin false) s = .next t ∧ t.sense.pin = false ∧ t.sense.pinFc = s.fc ∧
      t.sense.pinUsed = s.sense.pinUsed ∧ t.get .RES_MGMT_SECURE_NOW = 0 ∧ t.get .RES_MGMT_SN_HELD = 0 ∧ t.log = s.log) ∧
    (s.sense.pin = true → s.get .RES_MGMT_SN_HELD = 0 → ∃ t, exec .snHeld s = .next t ∧ s.OnlyRegs t ∧
      t.get .RES_MGMT_SN_HELD = 1 ∧ t.get .RES_MGMT_SN_HELD_SEEN = 1 ∧ t.log = s.log) ∧
    (s.sense.pin = false ∨ s.get .RES_MGMT_SN_HELD ≠ 0 → exec .snHeld s = .next s) ∧
    ∀ m : Nat,
      let th := s.get .MNT_MOTION_CFG_THRESH
      let high := th ≠ 0 ∧ th ≤ m
      let calm := th = 0 ∨ 2 * m < th
      let sustained := s.get .MNT_MOTION_CFG_SUSTAIN ≤ s.sense.above + 1
      ∃ t, exec (.motionSample m) s = .next t ∧
        t.get .MNT_MOTION_STAT_PEAK = min (max (s.get .MNT_MOTION_STAT_PEAK) m) 511 ∧
        (s.sense.episode = false → high → sustained → t.sense.episode = true ∧ t.get .MNT_MOTION_STAT_TRIGGERED = 1 ∧ asks t 2) ∧
        (s.sense.episode = false → high → ¬ sustained → t.sense.above = s.sense.above + 1 ∧ t.sense.episode = false ∧
          t.log = s.log) ∧
        (s.sense.episode = true → calm → 999 ≤ s.sense.quiet → t.sense.episode = false ∧ t.log = s.log) ∧
        (s.sense.episode = true → ¬ calm → t.sense.episode = true ∧ t.sense.quiet = 0 ∧ t.log = s.log)) ∧
  (∀ s : State,
    let tied := s.get .RES_PAIR_IN_EFFECT ≠ 0 ∧ s.get .RES_PAIR_VERIFIED ≠ 0
    let loosens (t : State) (why : Nat) : Prop := t.get .RES_PAIR_IN_EFFECT = s.get .RES_PAIR_IN_EFFECT ∧
      (tied → t.get .RES_PAIR_VERIFIED = 0 ∧ t.Newest 0x0904 0 (s.get .RES_PAIR_PARTNER_ID) why 0)
    let tagA := s.get .RES_FEED_TAGS_FEED_A_TAG
    let tagB := s.get .RES_FEED_TAGS_FEED_B_TAG
    let hosts := s.get .MNT_HOST_SRC_VALID ≠ 0
    let ports := s.portsTo (s.get .MNT_HOST_SRC_MODULE_ID)
    let tells (t : State) : Prop := (¬ hosts ∨ ports = [] → t.partnerOut = s.partnerOut) ∧
      (hosts → ports ≠ [] → t.partnerOut.getLast? = some (ports, .tags t.ownTags))
    (∀ a b : BitVec 4,
      (s.get .RES_START_STATE_STEP < 4 ∨ (a.toNat = tagA ∧ b.toNat = tagB) → exec (.feedTagSample a b) s = .next s) ∧
      (4 ≤ s.get .RES_START_STATE_STEP → ∃ t, exec (.feedTagSample a b) s = .next t ∧
        ({ s with partnerOut := t.partnerOut } : State).OnlyRegs t ∧ (a.toNat ≠ tagA ∨ b.toNat ≠ tagB → tells t) ∧
        t.get .RES_FEED_TAGS_FEED_A_TAG = a.toNat ∧ t.get .RES_FEED_TAGS_FEED_B_TAG = b.toNat ∧
        (a.toNat ≠ tagA → t.get .RES_FEED_TAGS_A_CHANGED = 1) ∧ (b.toNat ≠ tagB → t.get .RES_FEED_TAGS_B_CHANGED = 1) ∧
        (a.toNat ≠ tagA ∨ b.toNat ≠ tagB → tied → t.get .RES_PAIR_VERIFIED = 0))) ∧
    (∀ v : Word, s.HostReady →
      (∃ t, exec (.siteTagWrite v) s = .next t ∧ t.get .RES_SITE_TAG_SITE_TAG = v.toNat % 65536 ∧
        t.flash = { s.flash with siteTag := BitVec.ofNat 16 v.toNat } ∧ loosens t 1 ∧ tells t ∧ (¬ tied → t.log = s.log)) ∧
      ∃ t, exec (.nextIdWrite v) s = .next t ∧ t.get .RES_MODULE_ID_NEXT_ID = v.toNat / 65536 % 16384 ∧
        t.get .RES_MODULE_ID_PENDING = 1 ∧ t.get .RES_MODULE_ID_MODULE_ID = s.get .RES_MODULE_ID_MODULE_ID ∧
        t.flash = { s.flash with nextId := some (BitVec.ofNat 14 (v.toNat / 65536)) } ∧ t.log = s.log) ∧
    (s.partnerPorts = [] ∨ ¬ tied → exec .partnerTagReport s = .next s) ∧
    (s.partnerPorts ≠ [] → tied → ∃ t, exec .partnerTagReport s = .next t ∧ s.OnlyRegs t ∧ loosens t 2)) ∧
  (∀ s : State, ∃ t, exec .faultHistoryUpdate s = .next t ∧ t.history ≤ s.history ∧ t.regs = s.regs ∧ t.mem = s.mem ∧
    (s.historySecs < 3599 → t.historySecs = s.historySecs + 1 ∧ t.flash = s.flash) ∧
    (3599 ≤ s.historySecs → t.historySecs = 0 ∧ t.flash = { s.flash with history := t.history }))
end

