-- ==== Sys2Proof/Laws/Map.lean ====
section
/-!
SUPPORT. Laws of the sparse maps and of memory (Machine/Ops.lean): what a read answers after each kind of write, and that
every write keeps the canonical form.
-/
namespace Sys2Proof.Machine

variable {α : Type}

/-! ### Reads -/

theorem mget_append (d : α) (a b : SMap α) (k : Nat) :
    mget d (a ++ b) k = if a.any (fun e => e.1 = k) then mget d a k else mget d b k := by
  induction a with
  | nil => simp
  | cons e a ih =>
    obtain ⟨j, v⟩ := e
    by_cases h : j = k
    · simp [mget, h]
    · simp only [List.cons_append, mget, if_neg h, ih, List.any_cons, decide_eq_false h, Bool.false_or]

theorem mget_filter (d : α) (m : SMap α) (q : Nat → Bool) (k : Nat) :
    mget d (m.filter (fun e => q e.1)) k = if q k then mget d m k else d := by
  induction m with
  | nil => simp [mget]
  | cons e m ih =>
    obtain ⟨j, v⟩ := e
    by_cases hj : q j
    · by_cases h : j = k
      · subst h; simp [mget, hj]
      · simp [mget, hj, h, ih]
    · by_cases h : j = k
      · subst h; simp [hj, ih]
      · simp [mget, hj, h, ih]

theorem any_filter_key (m : SMap α) (q : Nat → Bool) (k : Nat) (h : q k = false) :
    (m.filter (fun e => q e.1)).any (fun e => e.1 = k) = false := by
  simp only [List.any_filter, List.any_eq_false]
  intro e _
  by_cases he : e.1 = k
  · simp [he, h]
  · simp [he]

theorem mget_absent (d : α) (m : SMap α) (k : Nat) (h : m.any (fun e => e.1 = k) = false) : mget d m k = d := by
  induction m with
  | nil => rfl
  | cons e m ih =>
    obtain ⟨j, v⟩ := e
    simp only [List.any_cons, Bool.or_eq_false_iff, decide_eq_false_iff_not] at h
    simp [mget, h.1, ih h.2]

theorem mget_pieces (d : α) (p q : Nat → Bool) (m c : SMap α) (k : Nat) :
    mget d (m.filter (fun e => p e.1) ++ (c ++ m.filter (fun e => q e.1))) k =
      if p k && m.any (fun e => e.1 = k) then mget d m k
      else if c.any (fun e => e.1 = k) then mget d c k else if q k then mget d m k else d := by
  rw [mget_append, mget_append, mget_filter, mget_filter]
  have key : (m.filter (fun e => p e.1)).any (fun e => e.1 = k) = (p k && m.any (fun e => e.1 = k)) := by
    cases hp : p k
    · simpa using any_filter_key m p k hp
    · simp only [List.any_filter, Bool.true_and]
      congr 1; funext e
      by_cases he : e.1 = k
      · simp [he, hp]
      · simp [he]
  rw [key]
  cases hp : p k <;> simp

variable [DecidableEq α]

@[simp] theorem mget_mset_same (d : α) (m : SMap α) (k : Nat) (v : α) : mget d (mset d m k v) k = v := by
  unfold mset
  rw [mget_pieces d (fun x => decide (x < k)) (fun x => decide (k < x))]
  by_cases h : v = d <;> simp [h, mget]

/-- Another key, with another map default for the read. -/
theorem mget_mset_any (d e : α) (m : SMap α) (v : α) {k j : Nat} (h : k ≠ j) : mget e (mset d m k v) j = mget e m j := by
  unfold mset
  rw [mget_pieces e (fun x => decide (x < k)) (fun x => decide (k < x))]
  have hc : (if v = d then [] else [(k, v)] : SMap α).any (fun e => e.1 = j) = false := by
    split <;> simp [h]
  rw [hc]
  rcases Nat.lt_or_gt_of_ne h with hl | hg
  · simp [hl, Nat.not_lt_of_lt hl]
  · have : ¬ k < j := Nat.not_lt_of_lt hg
    by_cases hm : m.any (fun e => e.1 = j)
    · simp only [hg, hm, decide_true, Bool.and_self, if_true]
    · have h0 := mget_absent e m j (Bool.eq_false_of_not_eq_true hm)
      simp only [Bool.eq_false_of_not_eq_true hm, Bool.and_false, Bool.false_eq_true, if_false, h0, ite_self]

theorem mget_mset_ne (d : α) (m : SMap α) {k j : Nat} (v : α) (h : k ≠ j) : mget d (mset d m k v) j = mget d m j :=
  mget_mset_any d d m v h

theorem mget_mset (d : α) (m : SMap α) (k j : Nat) (v : α) : mget d (mset d m k v) j = if k = j then v else mget d m j := by
  by_cases h : k = j
  · subst h; simp
  · simp [h, mget_mset_ne d m v h]

theorem mget_mcells (d : α) (k : Nat) (vs : List α) (j : Nat) :
    mget d (mcells d k vs) j = if k ≤ j ∧ j < k + vs.length then vs.getD (j - k) d else d := by
  induction vs generalizing k with
  | nil => simp [mcells, mget]
  | cons v vs ih =>
    have step : mget d (mcells d k (v :: vs)) j = if k = j then v else mget d (mcells d (k + 1) vs) j := by
      rw [mcells]
      by_cases hv : v = d
      · subst hv
        by_cases hj : k = j
        · subst hj; simp [ih]
        · simp [hj]
      · simp [hv, mget]
    rw [step, ih]
    by_cases hj : k = j
    · subst hj; simp
    · by_cases hc : k + 1 ≤ j ∧ j < k + 1 + vs.length
      · obtain ⟨n, rfl⟩ : ∃ n, j = k + 1 + n := ⟨j - (k + 1), by omega⟩
        have e1 : k + 1 + n - k = n + 1 := by omega
        have hn : n < vs.length := by omega
        simp [hj, hn, e1, show k ≤ k + 1 + n by omega, show k + 1 + n < k + (vs.length + 1) by omega]
      · rw [if_neg hj, if_neg hc, if_neg]
        simp only [List.length_cons]; omega

theorem any_mcells (d : α) (k : Nat) (vs : List α) (j : Nat) (h : j < k ∨ k + vs.length ≤ j) :
    (mcells d k vs).any (fun e => e.1 = j) = false := by
  induction vs generalizing k with
  | nil => simp [mcells]
  | cons v vs ih =>
    have h' : j < k + 1 ∨ k + 1 + vs.length ≤ j := by simp only [List.length_cons] at h; omega
    have hk : ¬ k = j := by simp only [List.length_cons] at h; omega
    unfold mcells
    split
    · exact ih _ h'
    · simp [hk, ih _ h']

/-- A byte of a range of new values, and every other one. -/
theorem mget_msetRange (d : α) (m : SMap α) (k : Nat) (vs : List α) (j : Nat) :
    mget d (msetRange d m k vs) j = if k ≤ j ∧ j < k + vs.length then vs.getD (j - k) d else mget d m j := by
  unfold msetRange
  rw [mget_pieces d (fun x => decide (x < k)) (fun x => decide (k + vs.length ≤ x))]
  by_cases hc : k ≤ j ∧ j < k + vs.length
  · have h1 : ¬ j < k := by omega
    have h2 : ¬ k + vs.length ≤ j := by omega
    rw [if_pos hc]
    simp only [h1, h2, decide_false, Bool.false_and, Bool.false_eq_true, if_false]
    by_cases ha : (mcells d k vs).any (fun e => e.1 = j)
    · rw [if_pos ha, mget_mcells, if_pos hc]
    · have h0 := mget_absent d (mcells d k vs) j (Bool.eq_false_of_not_eq_true ha)
      rw [mget_mcells, if_pos hc] at h0
      rw [if_neg ha, h0]
  · rw [if_neg hc, any_mcells d k vs j (by omega)]
    by_cases h1 : j < k
    · have h2 : ¬ k + vs.length ≤ j := by omega
      by_cases hm : m.any (fun e => e.1 = j)
      · simp [h1, hm]
      · have h0 := mget_absent d m j (Bool.eq_false_of_not_eq_true hm)
        simp only [Bool.eq_false_of_not_eq_true hm, Bool.and_false, Bool.false_eq_true, if_false, h0, ite_self]
    · have h2 : k + vs.length ≤ j := by omega
      simp [h1, h2]

omit [DecidableEq α] in
theorem mget_mclear (d : α) (m : SMap α) (k n j : Nat) :
    mget d (mclear m k n) j = if k ≤ j ∧ j < k + n then d else mget d m j := by
  unfold mclear
  rw [mget_filter d m (fun x => decide (x < k) || decide (k + n ≤ x))]
  by_cases hc : k ≤ j ∧ j < k + n
  · have h1 : ¬ j < k := by omega
    have h2 : ¬ k + n ≤ j := by omega
    simp [hc, h1]
  · rw [if_neg hc]
    by_cases h1 : j < k
    · simp [h1]
    · have h2 : k + n ≤ j := by omega
      simp [h2]

omit [DecidableEq α] in
theorem mspread_length (d : α) (m : SMap α) (k n : Nat) : (mspread d k n m).length = n := by
  induction n generalizing k m with
  | zero => cases m <;> rfl
  | succ n ih =>
    cases m with
    | nil => simp [mspread, ih]
    | cons e m =>
      obtain ⟨j, v⟩ := e
      simp only [mspread]; split <;> simp [ih]

omit [DecidableEq α] in
@[simp] theorem mgetRange_length (d : α) (m : SMap α) (k n : Nat) : (mgetRange d m k n).length = n :=
  mspread_length _ _ _ _

@[simp] theorem leBytes_length (n v : Nat) : (leBytes n v).length = n := by
  induction n generalizing v with
  | zero => rfl
  | succ n ih => simp [leBytes, ih]

/-! ### The canonical form -/

theorem mwf_iff (d : α) (m : SMap α) :
    mwf d m = true ↔ m.Pairwise (fun a b => a.1 < b.1) ∧ ∀ e ∈ m, e.2 ≠ d := by
  simp [mwf]

theorem mwf_nil (d : α) : mwf d ([] : SMap α) = true := by simp [mwf]

theorem mwf_filter (d : α) (m : SMap α) (q : Nat × α → Bool) (h : mwf d m = true) : mwf d (m.filter q) = true := by
  rw [mwf_iff] at h ⊢
  exact ⟨h.1.filter q, fun e he => h.2 e (List.mem_filter.mp he).1⟩

theorem mwf_append (d : α) (a b : SMap α) (ha : mwf d a = true) (hb : mwf d b = true)
    (hab : ∀ x ∈ a, ∀ y ∈ b, x.1 < y.1) : mwf d (a ++ b) = true := by
  rw [mwf_iff] at *
  refine ⟨List.pairwise_append.mpr ⟨ha.1, hb.1, hab⟩, fun e he => ?_⟩
  rcases List.mem_append.mp he with h | h
  · exact ha.2 e h
  · exact hb.2 e h

/-- A write of one key keeps the canonical form. -/
theorem mwf_mset (d : α) (m : SMap α) (k : Nat) (v : α) (h : mwf d m = true) : mwf d (mset d m k v) = true := by
  unfold mset
  refine mwf_append d _ _ (mwf_filter d m _ h) (mwf_append d _ _ ?_ (mwf_filter d m _ h) ?_) ?_
  · by_cases hv : v = d
    · simp [hv, mwf]
    · simp [hv, mwf]
  · intro x hx y hy
    have hy := (List.mem_filter.mp hy).2
    by_cases hv : v = d
    · simp [hv] at hx
    · simp [hv] at hx; subst hx; simpa using hy
  · intro x hx y hy
    have hx := (List.mem_filter.mp hx).2
    simp only [decide_eq_true_eq] at hx
    rcases List.mem_append.mp hy with hy | hy
    · by_cases hv : v = d
      · simp [hv] at hy
      · simp [hv] at hy; subst hy; exact hx
    · have hy := (List.mem_filter.mp hy).2
      simp only [decide_eq_true_eq] at hy
      omega

theorem mcells_keys (d : α) (k : Nat) (vs : List α) : ∀ e ∈ mcells d k vs, k ≤ e.1 ∧ e.1 < k + vs.length := by
  induction vs generalizing k with
  | nil => simp [mcells]
  | cons v vs ih =>
    intro e he
    unfold mcells at he
    simp only [List.length_cons]
    split at he
    · have := ih _ e he; omega
    · rcases List.mem_cons.mp he with rfl | he
      · simp
      · have := ih _ e he; omega

theorem mwf_mcells (d : α) (k : Nat) (vs : List α) : mwf d (mcells d k vs) = true := by
  induction vs generalizing k with
  | nil => simp [mcells, mwf]
  | cons v vs ih =>
    unfold mcells
    split
    · exact ih _
    · rename_i hv
      have h := (mwf_iff d _).mp (ih (k + 1))
      rw [mwf_iff]
      refine ⟨List.pairwise_cons.mpr ⟨fun e he => ?_, h.1⟩, fun e he => ?_⟩
      · have := (mcells_keys d (k + 1) vs e he).1
        simp only; omega
      · rcases List.mem_cons.mp he with rfl | he
        · exact hv
        · exact h.2 e he

/-- A write of a range keeps the canonical form. -/
theorem mwf_msetRange (d : α) (m : SMap α) (k : Nat) (vs : List α) (h : mwf d m = true) :
    mwf d (msetRange d m k vs) = true := by
  unfold msetRange
  refine mwf_append d _ _ (mwf_filter d m _ h) (mwf_append d _ _ (mwf_mcells d k vs) (mwf_filter d m _ h) ?_) ?_
  · intro x hx y hy
    have h1 := (mcells_keys d k vs x hx).2
    have hy := (List.mem_filter.mp hy).2
    simp only [decide_eq_true_eq] at hy
    omega
  · intro x hx y hy
    have hx := (List.mem_filter.mp hx).2
    simp only [decide_eq_true_eq] at hx
    rcases List.mem_append.mp hy with hy | hy
    · have := (mcells_keys d k vs y hy).1; omega
    · have hy := (List.mem_filter.mp hy).2
      simp only [decide_eq_true_eq] at hy
      omega

theorem mwf_mclear (d : α) (m : SMap α) (k n : Nat) (h : mwf d m = true) : mwf d (mclear m k n) = true :=
  mwf_filter d m _ h

/-! ### Memory -/

theorem memWrite_wf (m : List Host.Cell) (a : Nat) (bs : List Byte) (h : Memory.wf m = true) :
    Memory.wf (memWrite m a bs) = true := mwf_msetRange _ _ _ _ h

theorem memZero_wf (m : List Host.Cell) (a n : Nat) (h : Memory.wf m = true) : Memory.wf (memZero m a n) = true :=
  mwf_mclear _ _ _ _ h

/-- A byte after a write: the byte stored there, or what it was. -/
theorem memByte_memWrite (m : List Host.Cell) (a : Nat) (bs : List Byte) (x : Nat) :
    memByte (memWrite m a bs) x = if a ≤ x ∧ x < a + bs.length then bs.getD (x - a) 0 else memByte m x :=
  mget_msetRange _ _ _ _ _

theorem memByte_memZero (m : List Host.Cell) (a n x : Nat) :
    memByte (memZero m a n) x = if a ≤ x ∧ x < a + n then 0 else memByte m x := mget_mclear _ _ _ _ _

end Sys2Proof.Machine
end

