-- ==== Sys2Proof/Laws/State.lean ====
section
/-!
SUPPORT. Laws of the named state updates (Machine/Ops.lean): one lemma per field of `State` per update, true by `rfl`, so
that no proof unfolds a record update; and what a register field, a core, a router and the rest read as after an update.
-/
namespace Sys2Proof.Machine

/-! ### Register fields -/

theorem Field.num_inj {f g : Field} (h : f.num = g.num) : f = g := by
  have := congrArg Field.ofNat h
  simpa [Field.num, Field.ofNat_ctorIdx] using this

theorem Field.num_lt (f : Field) : f.num < 512 := by
  cases f <;> decide

theorem Field.key_mod (f : Field) (i : Nat) : f.key i % 512 = f.num := by
  have := f.num_lt
  unfold Field.key; omega

theorem Field.key_ne {f g : Field} (h : f ≠ g) (i j : Nat) : f.key i ≠ g.key j := fun e =>
  h (Field.num_inj (by rw [← f.key_mod i, ← g.key_mod j, e]))

theorem Field.key_idx (f : Field) {i j : Nat} (h : i ≠ j) : f.key i ≠ f.key j := by
  unfold Field.key; omega

/-- No field is wider than a word. -/
theorem Field.width_le (f : Field) : f.info.width ≤ 32 := by
  cases f <;> decide

theorem Field.width_pos (f : Field) : 0 < f.info.width := by
  cases f <;> decide

/-- Every Reset entry fits its field. -/
theorem Field.reset_masked (f : Field) : f.resetWord &&& f.mask = f.resetWord := by
  cases f <;> decide

theorem Field.mask_mask (f : Field) (v : Word) : (v &&& f.mask) &&& f.mask = v &&& f.mask := by
  rw [BitVec.and_assoc, BitVec.and_self]

theorem Field.toNat_and_mask (f : Field) (v : Word) : (v &&& f.mask).toNat = v.toNat % 2 ^ f.info.width := by
  have h := f.width_le
  have h2 : 2 ^ f.info.width - 1 < 2 ^ 32 := by
    have := Nat.pow_le_pow_right (n := 2) (by omega) h
    have : 0 < 2 ^ f.info.width := Nat.two_pow_pos _
    omega
  simp only [Field.mask, BitVec.toNat_and, BitVec.toNat_ofNat, Nat.mod_eq_of_lt h2, Nat.and_two_pow_sub_one_eq_mod]

namespace State

@[simp] theorem word_putWord_self (s : State) (f : Field) (v : Word) (i : Nat) : (s.putWord f v i).word f i = v &&& f.mask := by
  simp [word, putWord]

/-- Another field, of any instance. -/
@[simp] theorem word_putWord_field (s : State) {f g : Field} (h : f ≠ g) (v : Word) (i j : Nat) :
    (s.putWord f v i).word g j = s.word g j := by
  simp only [word, putWord]
  rw [mget_mset_any _ _ _ _ (Field.key_ne h i j)]

/-- Another instance of the same field. -/
@[simp] theorem word_putWord_idx (s : State) (f : Field) (v : Word) {i j : Nat} (h : i ≠ j) :
    (s.putWord f v i).word f j = s.word f j := by
  simp [word, putWord, mget_mset_ne _ _ _ (f.key_idx h)]


@[simp] theorem put_eq (s : State) (f : Field) (v i : Nat) : s.put f v i = s.putWord f (BitVec.ofNat 32 v) i := rfl

theorem get_eq (s : State) (f : Field) (i : Nat) : s.get f i = (s.word f i).toNat := rfl

/-- A field holds what was put, cut to its width. -/
theorem get_put_self (s : State) (f : Field) (v i : Nat) : (s.put f v i).get f i = v % 2 ^ f.info.width := by
  have h := Nat.pow_dvd_pow 2 f.width_le
  rw [put_eq, get_eq, word_putWord_self, Field.toNat_and_mask, BitVec.toNat_ofNat, Nat.mod_mod_of_dvd _ h]

theorem get_putWord_self (s : State) (f : Field) (v : Word) (i : Nat) :
    (s.putWord f v i).get f i = v.toNat % 2 ^ f.info.width := by
  rw [get_eq, word_putWord_self, Field.toNat_and_mask]

theorem get_putWord_field (s : State) {f g : Field} (h : f ≠ g) (v : Word) (i j : Nat) :
    (s.putWord f v i).get g j = s.get g j := by rw [get_eq, get_eq, word_putWord_field s h]

theorem get_putWord_idx (s : State) (f : Field) (v : Word) {i j : Nat} (h : i ≠ j) :
    (s.putWord f v i).get f j = s.get f j := by rw [get_eq, get_eq, word_putWord_idx s f v h]

theorem on_eq (s : State) (f : Field) (i : Nat) : s.on f i = (s.get f i != 0) := rfl

end State

/-! ### `putWord` changes `regs` alone -/

@[simp] theorem State.putWord_pending (s : State) (f : Field) (v : Word) (i : Nat) : (s.putWord f v i).pending = s.pending := rfl
@[simp] theorem State.putWord_fc (s : State) (f : Field) (v : Word) (i : Nat) : (s.putWord f v i).fc = s.fc := rfl
@[simp] theorem State.putWord_runFc (s : State) (f : Field) (v : Word) (i : Nat) : (s.putWord f v i).runFc = s.runFc := rfl
@[simp] theorem State.putWord_free (s : State) (f : Field) (v : Word) (i : Nat) : (s.putWord f v i).free = s.free := rfl
@[simp] theorem State.putWord_mem (s : State) (f : Field) (v : Word) (i : Nat) : (s.putWord f v i).mem = s.mem := rfl
@[simp] theorem State.putWord_bad (s : State) (f : Field) (v : Word) (i : Nat) : (s.putWord f v i).bad = s.bad := rfl
@[simp] theorem State.putWord_cores (s : State) (f : Field) (v : Word) (i : Nat) : (s.putWord f v i).cores = s.cores := rfl
@[simp] theorem State.putWord_routers (s : State) (f : Field) (v : Word) (i : Nat) : (s.putWord f v i).routers = s.routers := rfl
@[simp] theorem State.putWord_barriers (s : State) (f : Field) (v : Word) (i : Nat) : (s.putWord f v i).barriers = s.barriers := rfl
@[simp] theorem State.putWord_arrivals (s : State) (f : Field) (v : Word) (i : Nat) : (s.putWord f v i).arrivals = s.arrivals := rfl
@[simp] theorem State.putWord_stacked (s : State) (f : Field) (v : Word) (i : Nat) : (s.putWord f v i).stacked = s.stacked := rfl
@[simp] theorem State.putWord_units (s : State) (f : Field) (v : Word) (i : Nat) : (s.putWord f v i).units = s.units := rfl
@[simp] theorem State.putWord_ports (s : State) (f : Field) (v : Word) (i : Nat) : (s.putWord f v i).ports = s.ports := rfl
@[simp] theorem State.putWord_regions (s : State) (f : Field) (v : Word) (i : Nat) : (s.putWord f v i).regions = s.regions := rfl
@[simp] theorem State.putWord_image (s : State) (f : Field) (v : Word) (i : Nat) : (s.putWord f v i).image = s.image := rfl
@[simp] theorem State.putWord_left (s : State) (f : Field) (v : Word) (i : Nat) : (s.putWord f v i).left = s.left := rfl
@[simp] theorem State.putWord_carried (s : State) (f : Field) (v : Word) (i : Nat) : (s.putWord f v i).carried = s.carried := rfl
@[simp] theorem State.putWord_loadedDefects (s : State) (f : Field) (v : Word) (i : Nat) : (s.putWord f v i).loadedDefects = s.loadedDefects := rfl
@[simp] theorem State.putWord_tables (s : State) (f : Field) (v : Word) (i : Nat) : (s.putWord f v i).tables = s.tables := rfl
@[simp] theorem State.putWord_counts (s : State) (f : Field) (v : Word) (i : Nat) : (s.putWord f v i).counts = s.counts := rfl
@[simp] theorem State.putWord_nans (s : State) (f : Field) (v : Word) (i : Nat) : (s.putWord f v i).nans = s.nans := rfl
@[simp] theorem State.putWord_nanStep (s : State) (f : Field) (v : Word) (i : Nat) : (s.putWord f v i).nanStep = s.nanStep := rfl
@[simp] theorem State.putWord_runView (s : State) (f : Field) (v : Word) (i : Nat) : (s.putWord f v i).runView = s.runView := rfl
@[simp] theorem State.putWord_stepView (s : State) (f : Field) (v : Word) (i : Nat) : (s.putWord f v i).stepView = s.stepView := rfl
@[simp] theorem State.putWord_sinceQuiet (s : State) (f : Field) (v : Word) (i : Nat) : (s.putWord f v i).sinceQuiet = s.sinceQuiet := rfl
@[simp] theorem State.putWord_tags (s : State) (f : Field) (v : Word) (i : Nat) : (s.putWord f v i).tags = s.tags := rfl
@[simp] theorem State.putWord_quiet (s : State) (f : Field) (v : Word) (i : Nat) : (s.putWord f v i).quiet = s.quiet := rfl
@[simp] theorem State.putWord_v (s : State) (f : Field) (v : Word) (i : Nat) : (s.putWord f v i).v = s.v := rfl
@[simp] theorem State.putWord_skip (s : State) (f : Field) (v : Word) (i : Nat) : (s.putWord f v i).skip = s.skip := rfl
@[simp] theorem State.putWord_ran (s : State) (f : Field) (v : Word) (i : Nat) : (s.putWord f v i).ran = s.ran := rfl
@[simp] theorem State.putWord_job (s : State) (f : Field) (v : Word) (i : Nat) : (s.putWord f v i).job = s.job := rfl
@[simp] theorem State.putWord_faulted (s : State) (f : Field) (v : Word) (i : Nat) : (s.putWord f v i).faulted = s.faulted := rfl
@[simp] theorem State.putWord_dirty (s : State) (f : Field) (v : Word) (i : Nat) : (s.putWord f v i).dirty = s.dirty := rfl
@[simp] theorem State.putWord_uniqueBad (s : State) (f : Field) (v : Word) (i : Nat) : (s.putWord f v i).uniqueBad = s.uniqueBad := rfl
@[simp] theorem State.putWord_drain (s : State) (f : Field) (v : Word) (i : Nat) : (s.putWord f v i).drain = s.drain := rfl
@[simp] theorem State.putWord_replies (s : State) (f : Field) (v : Word) (i : Nat) : (s.putWord f v i).replies = s.replies := rfl
@[simp] theorem State.putWord_sentCopy (s : State) (f : Field) (v : Word) (i : Nat) : (s.putWord f v i).sentCopy = s.sentCopy := rfl
@[simp] theorem State.putWord_deferred (s : State) (f : Field) (v : Word) (i : Nat) : (s.putWord f v i).deferred = s.deferred := rfl
@[simp] theorem State.putWord_due (s : State) (f : Field) (v : Word) (i : Nat) : (s.putWord f v i).due = s.due := rfl
@[simp] theorem State.putWord_scheduled (s : State) (f : Field) (v : Word) (i : Nat) : (s.putWord f v i).scheduled = s.scheduled := rfl
@[simp] theorem State.putWord_lastDrain (s : State) (f : Field) (v : Word) (i : Nat) : (s.putWord f v i).lastDrain = s.lastDrain := rfl
@[simp] theorem State.putWord_redrain (s : State) (f : Field) (v : Word) (i : Nat) : (s.putWord f v i).redrain = s.redrain := rfl
@[simp] theorem State.putWord_drainTimes (s : State) (f : Field) (v : Word) (i : Nat) : (s.putWord f v i).drainTimes = s.drainTimes := rfl
@[simp] theorem State.putWord_gateTimes (s : State) (f : Field) (v : Word) (i : Nat) : (s.putWord f v i).gateTimes = s.gateTimes := rfl
@[simp] theorem State.putWord_lastGateFc (s : State) (f : Field) (v : Word) (i : Nat) : (s.putWord f v i).lastGateFc = s.lastGateFc := rfl
@[simp] theorem State.putWord_history (s : State) (f : Field) (v : Word) (i : Nat) : (s.putWord f v i).history = s.history := rfl
@[simp] theorem State.putWord_historySecs (s : State) (f : Field) (v : Word) (i : Nat) : (s.putWord f v i).historySecs = s.historySecs := rfl
@[simp] theorem State.putWord_pairs (s : State) (f : Field) (v : Word) (i : Nat) : (s.putWord f v i).pairs = s.pairs := rfl
@[simp] theorem State.putWord_hosted (s : State) (f : Field) (v : Word) (i : Nat) : (s.putWord f v i).hosted = s.hosted := rfl
@[simp] theorem State.putWord_hostedReply (s : State) (f : Field) (v : Word) (i : Nat) : (s.putWord f v i).hostedReply = s.hostedReply := rfl
@[simp] theorem State.putWord_partnerTags (s : State) (f : Field) (v : Word) (i : Nat) : (s.putWord f v i).partnerTags = s.partnerTags := rfl
@[simp] theorem State.putWord_partnerOut (s : State) (f : Field) (v : Word) (i : Nat) : (s.putWord f v i).partnerOut = s.partnerOut := rfl
@[simp] theorem State.putWord_txns (s : State) (f : Field) (v : Word) (i : Nat) : (s.putWord f v i).txns = s.txns := rfl
@[simp] theorem State.putWord_loading (s : State) (f : Field) (v : Word) (i : Nat) : (s.putWord f v i).loading = s.loading := rfl
@[simp] theorem State.putWord_laddering (s : State) (f : Field) (v : Word) (i : Nat) : (s.putWord f v i).laddering = s.laddering := rfl
@[simp] theorem State.putWord_pairing (s : State) (f : Field) (v : Word) (i : Nat) : (s.putWord f v i).pairing = s.pairing := rfl
@[simp] theorem State.putWord_accepted (s : State) (f : Field) (v : Word) (i : Nat) : (s.putWord f v i).accepted = s.accepted := rfl
@[simp] theorem State.putWord_fetchTurn (s : State) (f : Field) (v : Word) (i : Nat) : (s.putWord f v i).fetchTurn = s.fetchTurn := rfl
@[simp] theorem State.putWord_halting (s : State) (f : Field) (v : Word) (i : Nat) : (s.putWord f v i).halting = s.halting := rfl
@[simp] theorem State.putWord_orphans (s : State) (f : Field) (v : Word) (i : Nat) : (s.putWord f v i).orphans = s.orphans := rfl
@[simp] theorem State.putWord_oobBusy (s : State) (f : Field) (v : Word) (i : Nat) : (s.putWord f v i).oobBusy = s.oobBusy := rfl
@[simp] theorem State.putWord_oobOut (s : State) (f : Field) (v : Word) (i : Nat) : (s.putWord f v i).oobOut = s.oobOut := rfl
@[simp] theorem State.putWord_phase (s : State) (f : Field) (v : Word) (i : Nat) : (s.putWord f v i).phase = s.phase := rfl
@[simp] theorem State.putWord_hostMem (s : State) (f : Field) (v : Word) (i : Nat) : (s.putWord f v i).hostMem = s.hostMem := rfl
@[simp] theorem State.putWord_msix (s : State) (f : Field) (v : Word) (i : Nat) : (s.putWord f v i).msix = s.msix := rfl
@[simp] theorem State.putWord_msixMask (s : State) (f : Field) (v : Word) (i : Nat) : (s.putWord f v i).msixMask = s.msixMask := rfl
@[simp] theorem State.putWord_msixTable (s : State) (f : Field) (v : Word) (i : Nat) : (s.putWord f v i).msixTable = s.msixTable := rfl
@[simp] theorem State.putWord_msixPending (s : State) (f : Field) (v : Word) (i : Nat) : (s.putWord f v i).msixPending = s.msixPending := rfl
@[simp] theorem State.putWord_rsp (s : State) (f : Field) (v : Word) (i : Nat) : (s.putWord f v i).rsp = s.rsp := rfl
@[simp] theorem State.putWord_stalledQ (s : State) (f : Field) (v : Word) (i : Nat) : (s.putWord f v i).stalledQ = s.stalledQ := rfl
@[simp] theorem State.putWord_snoop (s : State) (f : Field) (v : Word) (i : Nat) : (s.putWord f v i).snoop = s.snoop := rfl
@[simp] theorem State.putWord_snoopWait (s : State) (f : Field) (v : Word) (i : Nat) : (s.putWord f v i).snoopWait = s.snoopWait := rfl
@[simp] theorem State.putWord_cqWait (s : State) (f : Field) (v : Word) (i : Nat) : (s.putWord f v i).cqWait = s.cqWait := rfl
@[simp] theorem State.putWord_snoopAcks (s : State) (f : Field) (v : Word) (i : Nat) : (s.putWord f v i).snoopAcks = s.snoopAcks := rfl
@[simp] theorem State.putWord_hostWait (s : State) (f : Field) (v : Word) (i : Nat) : (s.putWord f v i).hostWait = s.hostWait := rfl
@[simp] theorem State.putWord_perst (s : State) (f : Field) (v : Word) (i : Nat) : (s.putWord f v i).perst = s.perst := rfl
@[simp] theorem State.putWord_log (s : State) (f : Field) (v : Word) (i : Nat) : (s.putWord f v i).log = s.log := rfl
@[simp] theorem State.putWord_nextSeq (s : State) (f : Field) (v : Word) (i : Nat) : (s.putWord f v i).nextSeq = s.nextSeq := rfl
@[simp] theorem State.putWord_sinceRead (s : State) (f : Field) (v : Word) (i : Nat) : (s.putWord f v i).sinceRead = s.sinceRead := rfl
@[simp] theorem State.putWord_activities (s : State) (f : Field) (v : Word) (i : Nat) : (s.putWord f v i).activities = s.activities := rfl
@[simp] theorem State.putWord_fuses (s : State) (f : Field) (v : Word) (i : Nat) : (s.putWord f v i).fuses = s.fuses := rfl
@[simp] theorem State.putWord_fuseOps (s : State) (f : Field) (v : Word) (i : Nat) : (s.putWord f v i).fuseOps = s.fuseOps := rfl
@[simp] theorem State.putWord_shadowBank (s : State) (f : Field) (v : Word) (i : Nat) : (s.putWord f v i).shadowBank = s.shadowBank := rfl
@[simp] theorem State.putWord_flash (s : State) (f : Field) (v : Word) (i : Nat) : (s.putWord f v i).flash = s.flash := rfl
@[simp] theorem State.putWord_firmware (s : State) (f : Field) (v : Word) (i : Nat) : (s.putWord f v i).firmware = s.firmware := rfl
@[simp] theorem State.putWord_patchChain (s : State) (f : Field) (v : Word) (i : Nat) : (s.putWord f v i).patchChain = s.patchChain := rfl
@[simp] theorem State.putWord_sessions (s : State) (f : Field) (v : Word) (i : Nat) : (s.putWord f v i).sessions = s.sessions := rfl
@[simp] theorem State.putWord_measured (s : State) (f : Field) (v : Word) (i : Nat) : (s.putWord f v i).measured = s.measured := rfl
@[simp] theorem State.putWord_pldmRefused (s : State) (f : Field) (v : Word) (i : Nat) : (s.putWord f v i).pldmRefused = s.pldmRefused := rfl
@[simp] theorem State.putWord_sensor (s : State) (f : Field) (v : Word) (i : Nat) : (s.putWord f v i).sensor = s.sensor := rfl
@[simp] theorem State.putWord_power (s : State) (f : Field) (v : Word) (i : Nat) : (s.putWord f v i).power = s.power := rfl
@[simp] theorem State.putWord_cool (s : State) (f : Field) (v : Word) (i : Nat) : (s.putWord f v i).cool = s.cool := rfl
@[simp] theorem State.putWord_sense (s : State) (f : Field) (v : Word) (i : Nat) : (s.putWord f v i).sense = s.sense := rfl
@[simp] theorem State.putWord_smbusDriving (s : State) (f : Field) (v : Word) (i : Nat) : (s.putWord f v i).smbusDriving = s.smbusDriving := rfl
@[simp] theorem State.putWord_smbusAddr (s : State) (f : Field) (v : Word) (i : Nat) : (s.putWord f v i).smbusAddr = s.smbusAddr := rfl
@[simp] theorem State.putWord_scanDriven (s : State) (f : Field) (v : Word) (i : Nat) : (s.putWord f v i).scanDriven = s.scanDriven := rfl
@[simp] theorem State.putWord_lostStacks (s : State) (f : Field) (v : Word) (i : Nat) : (s.putWord f v i).lostStacks = s.lostStacks := rfl
@[simp] theorem State.putWord_repairs (s : State) (f : Field) (v : Word) (i : Nat) : (s.putWord f v i).repairs = s.repairs := rfl

/-! ### `setCore` changes `cores` alone -/

@[simp] theorem State.setCore_pending (s : State) (p : Nat) (c : CoreState) : (s.setCore p c).pending = s.pending := rfl
@[simp] theorem State.setCore_fc (s : State) (p : Nat) (c : CoreState) : (s.setCore p c).fc = s.fc := rfl
@[simp] theorem State.setCore_runFc (s : State) (p : Nat) (c : CoreState) : (s.setCore p c).runFc = s.runFc := rfl
@[simp] theorem State.setCore_free (s : State) (p : Nat) (c : CoreState) : (s.setCore p c).free = s.free := rfl
@[simp] theorem State.setCore_regs (s : State) (p : Nat) (c : CoreState) : (s.setCore p c).regs = s.regs := rfl
@[simp] theorem State.setCore_mem (s : State) (p : Nat) (c : CoreState) : (s.setCore p c).mem = s.mem := rfl
@[simp] theorem State.setCore_bad (s : State) (p : Nat) (c : CoreState) : (s.setCore p c).bad = s.bad := rfl
@[simp] theorem State.setCore_routers (s : State) (p : Nat) (c : CoreState) : (s.setCore p c).routers = s.routers := rfl
@[simp] theorem State.setCore_barriers (s : State) (p : Nat) (c : CoreState) : (s.setCore p c).barriers = s.barriers := rfl
@[simp] theorem State.setCore_arrivals (s : State) (p : Nat) (c : CoreState) : (s.setCore p c).arrivals = s.arrivals := rfl
@[simp] theorem State.setCore_stacked (s : State) (p : Nat) (c : CoreState) : (s.setCore p c).stacked = s.stacked := rfl
@[simp] theorem State.setCore_units (s : State) (p : Nat) (c : CoreState) : (s.setCore p c).units = s.units := rfl
@[simp] theorem State.setCore_ports (s : State) (p : Nat) (c : CoreState) : (s.setCore p c).ports = s.ports := rfl
@[simp] theorem State.setCore_regions (s : State) (p : Nat) (c : CoreState) : (s.setCore p c).regions = s.regions := rfl
@[simp] theorem State.setCore_image (s : State) (p : Nat) (c : CoreState) : (s.setCore p c).image = s.image := rfl
@[simp] theorem State.setCore_left (s : State) (p : Nat) (c : CoreState) : (s.setCore p c).left = s.left := rfl
@[simp] theorem State.setCore_carried (s : State) (p : Nat) (c : CoreState) : (s.setCore p c).carried = s.carried := rfl
@[simp] theorem State.setCore_loadedDefects (s : State) (p : Nat) (c : CoreState) : (s.setCore p c).loadedDefects = s.loadedDefects := rfl
@[simp] theorem State.setCore_tables (s : State) (p : Nat) (c : CoreState) : (s.setCore p c).tables = s.tables := rfl
@[simp] theorem State.setCore_counts (s : State) (p : Nat) (c : CoreState) : (s.setCore p c).counts = s.counts := rfl
@[simp] theorem State.setCore_nans (s : State) (p : Nat) (c : CoreState) : (s.setCore p c).nans = s.nans := rfl
@[simp] theorem State.setCore_nanStep (s : State) (p : Nat) (c : CoreState) : (s.setCore p c).nanStep = s.nanStep := rfl
@[simp] theorem State.setCore_runView (s : State) (p : Nat) (c : CoreState) : (s.setCore p c).runView = s.runView := rfl
@[simp] theorem State.setCore_stepView (s : State) (p : Nat) (c : CoreState) : (s.setCore p c).stepView = s.stepView := rfl
@[simp] theorem State.setCore_sinceQuiet (s : State) (p : Nat) (c : CoreState) : (s.setCore p c).sinceQuiet = s.sinceQuiet := rfl
@[simp] theorem State.setCore_tags (s : State) (p : Nat) (c : CoreState) : (s.setCore p c).tags = s.tags := rfl
@[simp] theorem State.setCore_quiet (s : State) (p : Nat) (c : CoreState) : (s.setCore p c).quiet = s.quiet := rfl
@[simp] theorem State.setCore_v (s : State) (p : Nat) (c : CoreState) : (s.setCore p c).v = s.v := rfl
@[simp] theorem State.setCore_skip (s : State) (p : Nat) (c : CoreState) : (s.setCore p c).skip = s.skip := rfl
@[simp] theorem State.setCore_ran (s : State) (p : Nat) (c : CoreState) : (s.setCore p c).ran = s.ran := rfl
@[simp] theorem State.setCore_job (s : State) (p : Nat) (c : CoreState) : (s.setCore p c).job = s.job := rfl
@[simp] theorem State.setCore_faulted (s : State) (p : Nat) (c : CoreState) : (s.setCore p c).faulted = s.faulted := rfl
@[simp] theorem State.setCore_dirty (s : State) (p : Nat) (c : CoreState) : (s.setCore p c).dirty = s.dirty := rfl
@[simp] theorem State.setCore_uniqueBad (s : State) (p : Nat) (c : CoreState) : (s.setCore p c).uniqueBad = s.uniqueBad := rfl
@[simp] theorem State.setCore_drain (s : State) (p : Nat) (c : CoreState) : (s.setCore p c).drain = s.drain := rfl
@[simp] theorem State.setCore_replies (s : State) (p : Nat) (c : CoreState) : (s.setCore p c).replies = s.replies := rfl
@[simp] theorem State.setCore_sentCopy (s : State) (p : Nat) (c : CoreState) : (s.setCore p c).sentCopy = s.sentCopy := rfl
@[simp] theorem State.setCore_deferred (s : State) (p : Nat) (c : CoreState) : (s.setCore p c).deferred = s.deferred := rfl
@[simp] theorem State.setCore_due (s : State) (p : Nat) (c : CoreState) : (s.setCore p c).due = s.due := rfl
@[simp] theorem State.setCore_scheduled (s : State) (p : Nat) (c : CoreState) : (s.setCore p c).scheduled = s.scheduled := rfl
@[simp] theorem State.setCore_lastDrain (s : State) (p : Nat) (c : CoreState) : (s.setCore p c).lastDrain = s.lastDrain := rfl
@[simp] theorem State.setCore_redrain (s : State) (p : Nat) (c : CoreState) : (s.setCore p c).redrain = s.redrain := rfl
@[simp] theorem State.setCore_drainTimes (s : State) (p : Nat) (c : CoreState) : (s.setCore p c).drainTimes = s.drainTimes := rfl
@[simp] theorem State.setCore_gateTimes (s : State) (p : Nat) (c : CoreState) : (s.setCore p c).gateTimes = s.gateTimes := rfl
@[simp] theorem State.setCore_lastGateFc (s : State) (p : Nat) (c : CoreState) : (s.setCore p c).lastGateFc = s.lastGateFc := rfl
@[simp] theorem State.setCore_history (s : State) (p : Nat) (c : CoreState) : (s.setCore p c).history = s.history := rfl
@[simp] theorem State.setCore_historySecs (s : State) (p : Nat) (c : CoreState) : (s.setCore p c).historySecs = s.historySecs := rfl
@[simp] theorem State.setCore_pairs (s : State) (p : Nat) (c : CoreState) : (s.setCore p c).pairs = s.pairs := rfl
@[simp] theorem State.setCore_hosted (s : State) (p : Nat) (c : CoreState) : (s.setCore p c).hosted = s.hosted := rfl
@[simp] theorem State.setCore_hostedReply (s : State) (p : Nat) (c : CoreState) : (s.setCore p c).hostedReply = s.hostedReply := rfl
@[simp] theorem State.setCore_partnerTags (s : State) (p : Nat) (c : CoreState) : (s.setCore p c).partnerTags = s.partnerTags := rfl
@[simp] theorem State.setCore_partnerOut (s : State) (p : Nat) (c : CoreState) : (s.setCore p c).partnerOut = s.partnerOut := rfl
@[simp] theorem State.setCore_txns (s : State) (p : Nat) (c : CoreState) : (s.setCore p c).txns = s.txns := rfl
@[simp] theorem State.setCore_loading (s : State) (p : Nat) (c : CoreState) : (s.setCore p c).loading = s.loading := rfl
@[simp] theorem State.setCore_laddering (s : State) (p : Nat) (c : CoreState) : (s.setCore p c).laddering = s.laddering := rfl
@[simp] theorem State.setCore_pairing (s : State) (p : Nat) (c : CoreState) : (s.setCore p c).pairing = s.pairing := rfl
@[simp] theorem State.setCore_accepted (s : State) (p : Nat) (c : CoreState) : (s.setCore p c).accepted = s.accepted := rfl
@[simp] theorem State.setCore_fetchTurn (s : State) (p : Nat) (c : CoreState) : (s.setCore p c).fetchTurn = s.fetchTurn := rfl
@[simp] theorem State.setCore_halting (s : State) (p : Nat) (c : CoreState) : (s.setCore p c).halting = s.halting := rfl
@[simp] theorem State.setCore_orphans (s : State) (p : Nat) (c : CoreState) : (s.setCore p c).orphans = s.orphans := rfl
@[simp] theorem State.setCore_oobBusy (s : State) (p : Nat) (c : CoreState) : (s.setCore p c).oobBusy = s.oobBusy := rfl
@[simp] theorem State.setCore_oobOut (s : State) (p : Nat) (c : CoreState) : (s.setCore p c).oobOut = s.oobOut := rfl
@[simp] theorem State.setCore_phase (s : State) (p : Nat) (c : CoreState) : (s.setCore p c).phase = s.phase := rfl
@[simp] theorem State.setCore_hostMem (s : State) (p : Nat) (c : CoreState) : (s.setCore p c).hostMem = s.hostMem := rfl
@[simp] theorem State.setCore_msix (s : State) (p : Nat) (c : CoreState) : (s.setCore p c).msix = s.msix := rfl
@[simp] theorem State.setCore_msixMask (s : State) (p : Nat) (c : CoreState) : (s.setCore p c).msixMask = s.msixMask := rfl
@[simp] theorem State.setCore_msixTable (s : State) (p : Nat) (c : CoreState) : (s.setCore p c).msixTable = s.msixTable := rfl
@[simp] theorem State.setCore_msixPending (s : State) (p : Nat) (c : CoreState) : (s.setCore p c).msixPending = s.msixPending := rfl
@[simp] theorem State.setCore_rsp (s : State) (p : Nat) (c : CoreState) : (s.setCore p c).rsp = s.rsp := rfl
@[simp] theorem State.setCore_stalledQ (s : State) (p : Nat) (c : CoreState) : (s.setCore p c).stalledQ = s.stalledQ := rfl
@[simp] theorem State.setCore_snoop (s : State) (p : Nat) (c : CoreState) : (s.setCore p c).snoop = s.snoop := rfl
@[simp] theorem State.setCore_snoopWait (s : State) (p : Nat) (c : CoreState) : (s.setCore p c).snoopWait = s.snoopWait := rfl
@[simp] theorem State.setCore_cqWait (s : State) (p : Nat) (c : CoreState) : (s.setCore p c).cqWait = s.cqWait := rfl
@[simp] theorem State.setCore_snoopAcks (s : State) (p : Nat) (c : CoreState) : (s.setCore p c).snoopAcks = s.snoopAcks := rfl
@[simp] theorem State.setCore_hostWait (s : State) (p : Nat) (c : CoreState) : (s.setCore p c).hostWait = s.hostWait := rfl
@[simp] theorem State.setCore_perst (s : State) (p : Nat) (c : CoreState) : (s.setCore p c).perst = s.perst := rfl
@[simp] theorem State.setCore_log (s : State) (p : Nat) (c : CoreState) : (s.setCore p c).log = s.log := rfl
@[simp] theorem State.setCore_nextSeq (s : State) (p : Nat) (c : CoreState) : (s.setCore p c).nextSeq = s.nextSeq := rfl
@[simp] theorem State.setCore_sinceRead (s : State) (p : Nat) (c : CoreState) : (s.setCore p c).sinceRead = s.sinceRead := rfl
@[simp] theorem State.setCore_activities (s : State) (p : Nat) (c : CoreState) : (s.setCore p c).activities = s.activities := rfl
@[simp] theorem State.setCore_fuses (s : State) (p : Nat) (c : CoreState) : (s.setCore p c).fuses = s.fuses := rfl
@[simp] theorem State.setCore_fuseOps (s : State) (p : Nat) (c : CoreState) : (s.setCore p c).fuseOps = s.fuseOps := rfl
@[simp] theorem State.setCore_shadowBank (s : State) (p : Nat) (c : CoreState) : (s.setCore p c).shadowBank = s.shadowBank := rfl
@[simp] theorem State.setCore_flash (s : State) (p : Nat) (c : CoreState) : (s.setCore p c).flash = s.flash := rfl
@[simp] theorem State.setCore_firmware (s : State) (p : Nat) (c : CoreState) : (s.setCore p c).firmware = s.firmware := rfl
@[simp] theorem State.setCore_patchChain (s : State) (p : Nat) (c : CoreState) : (s.setCore p c).patchChain = s.patchChain := rfl
@[simp] theorem State.setCore_sessions (s : State) (p : Nat) (c : CoreState) : (s.setCore p c).sessions = s.sessions := rfl
@[simp] theorem State.setCore_measured (s : State) (p : Nat) (c : CoreState) : (s.setCore p c).measured = s.measured := rfl
@[simp] theorem State.setCore_pldmRefused (s : State) (p : Nat) (c : CoreState) : (s.setCore p c).pldmRefused = s.pldmRefused := rfl
@[simp] theorem State.setCore_sensor (s : State) (p : Nat) (c : CoreState) : (s.setCore p c).sensor = s.sensor := rfl
@[simp] theorem State.setCore_power (s : State) (p : Nat) (c : CoreState) : (s.setCore p c).power = s.power := rfl
@[simp] theorem State.setCore_cool (s : State) (p : Nat) (c : CoreState) : (s.setCore p c).cool = s.cool := rfl
@[simp] theorem State.setCore_sense (s : State) (p : Nat) (c : CoreState) : (s.setCore p c).sense = s.sense := rfl
@[simp] theorem State.setCore_smbusDriving (s : State) (p : Nat) (c : CoreState) : (s.setCore p c).smbusDriving = s.smbusDriving := rfl
@[simp] theorem State.setCore_smbusAddr (s : State) (p : Nat) (c : CoreState) : (s.setCore p c).smbusAddr = s.smbusAddr := rfl
@[simp] theorem State.setCore_scanDriven (s : State) (p : Nat) (c : CoreState) : (s.setCore p c).scanDriven = s.scanDriven := rfl
@[simp] theorem State.setCore_lostStacks (s : State) (p : Nat) (c : CoreState) : (s.setCore p c).lostStacks = s.lostStacks := rfl
@[simp] theorem State.setCore_repairs (s : State) (p : Nat) (c : CoreState) : (s.setCore p c).repairs = s.repairs := rfl

/-! ### `setRouter` changes `routers` alone -/

@[simp] theorem State.setRouter_pending (s : State) (r : Nat) (x : Router) : (s.setRouter r x).pending = s.pending := rfl
@[simp] theorem State.setRouter_fc (s : State) (r : Nat) (x : Router) : (s.setRouter r x).fc = s.fc := rfl
@[simp] theorem State.setRouter_runFc (s : State) (r : Nat) (x : Router) : (s.setRouter r x).runFc = s.runFc := rfl
@[simp] theorem State.setRouter_free (s : State) (r : Nat) (x : Router) : (s.setRouter r x).free = s.free := rfl
@[simp] theorem State.setRouter_regs (s : State) (r : Nat) (x : Router) : (s.setRouter r x).regs = s.regs := rfl
@[simp] theorem State.setRouter_mem (s : State) (r : Nat) (x : Router) : (s.setRouter r x).mem = s.mem := rfl
@[simp] theorem State.setRouter_bad (s : State) (r : Nat) (x : Router) : (s.setRouter r x).bad = s.bad := rfl
@[simp] theorem State.setRouter_cores (s : State) (r : Nat) (x : Router) : (s.setRouter r x).cores = s.cores := rfl
@[simp] theorem State.setRouter_barriers (s : State) (r : Nat) (x : Router) : (s.setRouter r x).barriers = s.barriers := rfl
@[simp] theorem State.setRouter_arrivals (s : State) (r : Nat) (x : Router) : (s.setRouter r x).arrivals = s.arrivals := rfl
@[simp] theorem State.setRouter_stacked (s : State) (r : Nat) (x : Router) : (s.setRouter r x).stacked = s.stacked := rfl
@[simp] theorem State.setRouter_units (s : State) (r : Nat) (x : Router) : (s.setRouter r x).units = s.units := rfl
@[simp] theorem State.setRouter_ports (s : State) (r : Nat) (x : Router) : (s.setRouter r x).ports = s.ports := rfl
@[simp] theorem State.setRouter_regions (s : State) (r : Nat) (x : Router) : (s.setRouter r x).regions = s.regions := rfl
@[simp] theorem State.setRouter_image (s : State) (r : Nat) (x : Router) : (s.setRouter r x).image = s.image := rfl
@[simp] theorem State.setRouter_left (s : State) (r : Nat) (x : Router) : (s.setRouter r x).left = s.left := rfl
@[simp] theorem State.setRouter_carried (s : State) (r : Nat) (x : Router) : (s.setRouter r x).carried = s.carried := rfl
@[simp] theorem State.setRouter_loadedDefects (s : State) (r : Nat) (x : Router) : (s.setRouter r x).loadedDefects = s.loadedDefects := rfl
@[simp] theorem State.setRouter_tables (s : State) (r : Nat) (x : Router) : (s.setRouter r x).tables = s.tables := rfl
@[simp] theorem State.setRouter_counts (s : State) (r : Nat) (x : Router) : (s.setRouter r x).counts = s.counts := rfl
@[simp] theorem State.setRouter_nans (s : State) (r : Nat) (x : Router) : (s.setRouter r x).nans = s.nans := rfl
@[simp] theorem State.setRouter_nanStep (s : State) (r : Nat) (x : Router) : (s.setRouter r x).nanStep = s.nanStep := rfl
@[simp] theorem State.setRouter_runView (s : State) (r : Nat) (x : Router) : (s.setRouter r x).runView = s.runView := rfl
@[simp] theorem State.setRouter_stepView (s : State) (r : Nat) (x : Router) : (s.setRouter r x).stepView = s.stepView := rfl
@[simp] theorem State.setRouter_sinceQuiet (s : State) (r : Nat) (x : Router) : (s.setRouter r x).sinceQuiet = s.sinceQuiet := rfl
@[simp] theorem State.setRouter_tags (s : State) (r : Nat) (x : Router) : (s.setRouter r x).tags = s.tags := rfl
@[simp] theorem State.setRouter_quiet (s : State) (r : Nat) (x : Router) : (s.setRouter r x).quiet = s.quiet := rfl
@[simp] theorem State.setRouter_v (s : State) (r : Nat) (x : Router) : (s.setRouter r x).v = s.v := rfl
@[simp] theorem State.setRouter_skip (s : State) (r : Nat) (x : Router) : (s.setRouter r x).skip = s.skip := rfl
@[simp] theorem State.setRouter_ran (s : State) (r : Nat) (x : Router) : (s.setRouter r x).ran = s.ran := rfl
@[simp] theorem State.setRouter_job (s : State) (r : Nat) (x : Router) : (s.setRouter r x).job = s.job := rfl
@[simp] theorem State.setRouter_faulted (s : State) (r : Nat) (x : Router) : (s.setRouter r x).faulted = s.faulted := rfl
@[simp] theorem State.setRouter_dirty (s : State) (r : Nat) (x : Router) : (s.setRouter r x).dirty = s.dirty := rfl
@[simp] theorem State.setRouter_uniqueBad (s : State) (r : Nat) (x : Router) : (s.setRouter r x).uniqueBad = s.uniqueBad := rfl
@[simp] theorem State.setRouter_drain (s : State) (r : Nat) (x : Router) : (s.setRouter r x).drain = s.drain := rfl
@[simp] theorem State.setRouter_replies (s : State) (r : Nat) (x : Router) : (s.setRouter r x).replies = s.replies := rfl
@[simp] theorem State.setRouter_sentCopy (s : State) (r : Nat) (x : Router) : (s.setRouter r x).sentCopy = s.sentCopy := rfl
@[simp] theorem State.setRouter_deferred (s : State) (r : Nat) (x : Router) : (s.setRouter r x).deferred = s.deferred := rfl
@[simp] theorem State.setRouter_due (s : State) (r : Nat) (x : Router) : (s.setRouter r x).due = s.due := rfl
@[simp] theorem State.setRouter_scheduled (s : State) (r : Nat) (x : Router) : (s.setRouter r x).scheduled = s.scheduled := rfl
@[simp] theorem State.setRouter_lastDrain (s : State) (r : Nat) (x : Router) : (s.setRouter r x).lastDrain = s.lastDrain := rfl
@[simp] theorem State.setRouter_redrain (s : State) (r : Nat) (x : Router) : (s.setRouter r x).redrain = s.redrain := rfl
@[simp] theorem State.setRouter_drainTimes (s : State) (r : Nat) (x : Router) : (s.setRouter r x).drainTimes = s.drainTimes := rfl
@[simp] theorem State.setRouter_gateTimes (s : State) (r : Nat) (x : Router) : (s.setRouter r x).gateTimes = s.gateTimes := rfl
@[simp] theorem State.setRouter_lastGateFc (s : State) (r : Nat) (x : Router) : (s.setRouter r x).lastGateFc = s.lastGateFc := rfl
@[simp] theorem State.setRouter_history (s : State) (r : Nat) (x : Router) : (s.setRouter r x).history = s.history := rfl
@[simp] theorem State.setRouter_historySecs (s : State) (r : Nat) (x : Router) : (s.setRouter r x).historySecs = s.historySecs := rfl
@[simp] theorem State.setRouter_pairs (s : State) (r : Nat) (x : Router) : (s.setRouter r x).pairs = s.pairs := rfl
@[simp] theorem State.setRouter_hosted (s : State) (r : Nat) (x : Router) : (s.setRouter r x).hosted = s.hosted := rfl
@[simp] theorem State.setRouter_hostedReply (s : State) (r : Nat) (x : Router) : (s.setRouter r x).hostedReply = s.hostedReply := rfl
@[simp] theorem State.setRouter_partnerTags (s : State) (r : Nat) (x : Router) : (s.setRouter r x).partnerTags = s.partnerTags := rfl
@[simp] theorem State.setRouter_partnerOut (s : State) (r : Nat) (x : Router) : (s.setRouter r x).partnerOut = s.partnerOut := rfl
@[simp] theorem State.setRouter_txns (s : State) (r : Nat) (x : Router) : (s.setRouter r x).txns = s.txns := rfl
@[simp] theorem State.setRouter_loading (s : State) (r : Nat) (x : Router) : (s.setRouter r x).loading = s.loading := rfl
@[simp] theorem State.setRouter_laddering (s : State) (r : Nat) (x : Router) : (s.setRouter r x).laddering = s.laddering := rfl
@[simp] theorem State.setRouter_pairing (s : State) (r : Nat) (x : Router) : (s.setRouter r x).pairing = s.pairing := rfl
@[simp] theorem State.setRouter_accepted (s : State) (r : Nat) (x : Router) : (s.setRouter r x).accepted = s.accepted := rfl
@[simp] theorem State.setRouter_fetchTurn (s : State) (r : Nat) (x : Router) : (s.setRouter r x).fetchTurn = s.fetchTurn := rfl
@[simp] theorem State.setRouter_halting (s : State) (r : Nat) (x : Router) : (s.setRouter r x).halting = s.halting := rfl
@[simp] theorem State.setRouter_orphans (s : State) (r : Nat) (x : Router) : (s.setRouter r x).orphans = s.orphans := rfl
@[simp] theorem State.setRouter_oobBusy (s : State) (r : Nat) (x : Router) : (s.setRouter r x).oobBusy = s.oobBusy := rfl
@[simp] theorem State.setRouter_oobOut (s : State) (r : Nat) (x : Router) : (s.setRouter r x).oobOut = s.oobOut := rfl
@[simp] theorem State.setRouter_phase (s : State) (r : Nat) (x : Router) : (s.setRouter r x).phase = s.phase := rfl
@[simp] theorem State.setRouter_hostMem (s : State) (r : Nat) (x : Router) : (s.setRouter r x).hostMem = s.hostMem := rfl
@[simp] theorem State.setRouter_msix (s : State) (r : Nat) (x : Router) : (s.setRouter r x).msix = s.msix := rfl
@[simp] theorem State.setRouter_msixMask (s : State) (r : Nat) (x : Router) : (s.setRouter r x).msixMask = s.msixMask := rfl
@[simp] theorem State.setRouter_msixTable (s : State) (r : Nat) (x : Router) : (s.setRouter r x).msixTable = s.msixTable := rfl
@[simp] theorem State.setRouter_msixPending (s : State) (r : Nat) (x : Router) : (s.setRouter r x).msixPending = s.msixPending := rfl
@[simp] theorem State.setRouter_rsp (s : State) (r : Nat) (x : Router) : (s.setRouter r x).rsp = s.rsp := rfl
@[simp] theorem State.setRouter_stalledQ (s : State) (r : Nat) (x : Router) : (s.setRouter r x).stalledQ = s.stalledQ := rfl
@[simp] theorem State.setRouter_snoop (s : State) (r : Nat) (x : Router) : (s.setRouter r x).snoop = s.snoop := rfl
@[simp] theorem State.setRouter_snoopWait (s : State) (r : Nat) (x : Router) : (s.setRouter r x).snoopWait = s.snoopWait := rfl
@[simp] theorem State.setRouter_cqWait (s : State) (r : Nat) (x : Router) : (s.setRouter r x).cqWait = s.cqWait := rfl
@[simp] theorem State.setRouter_snoopAcks (s : State) (r : Nat) (x : Router) : (s.setRouter r x).snoopAcks = s.snoopAcks := rfl
@[simp] theorem State.setRouter_hostWait (s : State) (r : Nat) (x : Router) : (s.setRouter r x).hostWait = s.hostWait := rfl
@[simp] theorem State.setRouter_perst (s : State) (r : Nat) (x : Router) : (s.setRouter r x).perst = s.perst := rfl
@[simp] theorem State.setRouter_log (s : State) (r : Nat) (x : Router) : (s.setRouter r x).log = s.log := rfl
@[simp] theorem State.setRouter_nextSeq (s : State) (r : Nat) (x : Router) : (s.setRouter r x).nextSeq = s.nextSeq := rfl
@[simp] theorem State.setRouter_sinceRead (s : State) (r : Nat) (x : Router) : (s.setRouter r x).sinceRead = s.sinceRead := rfl
@[simp] theorem State.setRouter_activities (s : State) (r : Nat) (x : Router) : (s.setRouter r x).activities = s.activities := rfl
@[simp] theorem State.setRouter_fuses (s : State) (r : Nat) (x : Router) : (s.setRouter r x).fuses = s.fuses := rfl
@[simp] theorem State.setRouter_fuseOps (s : State) (r : Nat) (x : Router) : (s.setRouter r x).fuseOps = s.fuseOps := rfl
@[simp] theorem State.setRouter_shadowBank (s : State) (r : Nat) (x : Router) : (s.setRouter r x).shadowBank = s.shadowBank := rfl
@[simp] theorem State.setRouter_flash (s : State) (r : Nat) (x : Router) : (s.setRouter r x).flash = s.flash := rfl
@[simp] theorem State.setRouter_firmware (s : State) (r : Nat) (x : Router) : (s.setRouter r x).firmware = s.firmware := rfl
@[simp] theorem State.setRouter_patchChain (s : State) (r : Nat) (x : Router) : (s.setRouter r x).patchChain = s.patchChain := rfl
@[simp] theorem State.setRouter_sessions (s : State) (r : Nat) (x : Router) : (s.setRouter r x).sessions = s.sessions := rfl
@[simp] theorem State.setRouter_measured (s : State) (r : Nat) (x : Router) : (s.setRouter r x).measured = s.measured := rfl
@[simp] theorem State.setRouter_pldmRefused (s : State) (r : Nat) (x : Router) : (s.setRouter r x).pldmRefused = s.pldmRefused := rfl
@[simp] theorem State.setRouter_sensor (s : State) (r : Nat) (x : Router) : (s.setRouter r x).sensor = s.sensor := rfl
@[simp] theorem State.setRouter_power (s : State) (r : Nat) (x : Router) : (s.setRouter r x).power = s.power := rfl
@[simp] theorem State.setRouter_cool (s : State) (r : Nat) (x : Router) : (s.setRouter r x).cool = s.cool := rfl
@[simp] theorem State.setRouter_sense (s : State) (r : Nat) (x : Router) : (s.setRouter r x).sense = s.sense := rfl
@[simp] theorem State.setRouter_smbusDriving (s : State) (r : Nat) (x : Router) : (s.setRouter r x).smbusDriving = s.smbusDriving := rfl
@[simp] theorem State.setRouter_smbusAddr (s : State) (r : Nat) (x : Router) : (s.setRouter r x).smbusAddr = s.smbusAddr := rfl
@[simp] theorem State.setRouter_scanDriven (s : State) (r : Nat) (x : Router) : (s.setRouter r x).scanDriven = s.scanDriven := rfl
@[simp] theorem State.setRouter_lostStacks (s : State) (r : Nat) (x : Router) : (s.setRouter r x).lostStacks = s.lostStacks := rfl
@[simp] theorem State.setRouter_repairs (s : State) (r : Nat) (x : Router) : (s.setRouter r x).repairs = s.repairs := rfl

/-! ### `setBarrier` changes `barriers` alone -/

@[simp] theorem State.setBarrier_pending (s : State) (k : Nat) (b : BarrierState) : (s.setBarrier k b).pending = s.pending := rfl
@[simp] theorem State.setBarrier_fc (s : State) (k : Nat) (b : BarrierState) : (s.setBarrier k b).fc = s.fc := rfl
@[simp] theorem State.setBarrier_runFc (s : State) (k : Nat) (b : BarrierState) : (s.setBarrier k b).runFc = s.runFc := rfl
@[simp] theorem State.setBarrier_free (s : State) (k : Nat) (b : BarrierState) : (s.setBarrier k b).free = s.free := rfl
@[simp] theorem State.setBarrier_regs (s : State) (k : Nat) (b : BarrierState) : (s.setBarrier k b).regs = s.regs := rfl
@[simp] theorem State.setBarrier_mem (s : State) (k : Nat) (b : BarrierState) : (s.setBarrier k b).mem = s.mem := rfl
@[simp] theorem State.setBarrier_bad (s : State) (k : Nat) (b : BarrierState) : (s.setBarrier k b).bad = s.bad := rfl
@[simp] theorem State.setBarrier_cores (s : State) (k : Nat) (b : BarrierState) : (s.setBarrier k b).cores = s.cores := rfl
@[simp] theorem State.setBarrier_routers (s : State) (k : Nat) (b : BarrierState) : (s.setBarrier k b).routers = s.routers := rfl
@[simp] theorem State.setBarrier_arrivals (s : State) (k : Nat) (b : BarrierState) : (s.setBarrier k b).arrivals = s.arrivals := rfl
@[simp] theorem State.setBarrier_stacked (s : State) (k : Nat) (b : BarrierState) : (s.setBarrier k b).stacked = s.stacked := rfl
@[simp] theorem State.setBarrier_units (s : State) (k : Nat) (b : BarrierState) : (s.setBarrier k b).units = s.units := rfl
@[simp] theorem State.setBarrier_ports (s : State) (k : Nat) (b : BarrierState) : (s.setBarrier k b).ports = s.ports := rfl
@[simp] theorem State.setBarrier_regions (s : State) (k : Nat) (b : BarrierState) : (s.setBarrier k b).regions = s.regions := rfl
@[simp] theorem State.setBarrier_image (s : State) (k : Nat) (b : BarrierState) : (s.setBarrier k b).image = s.image := rfl
@[simp] theorem State.setBarrier_left (s : State) (k : Nat) (b : BarrierState) : (s.setBarrier k b).left = s.left := rfl
@[simp] theorem State.setBarrier_carried (s : State) (k : Nat) (b : BarrierState) : (s.setBarrier k b).carried = s.carried := rfl
@[simp] theorem State.setBarrier_loadedDefects (s : State) (k : Nat) (b : BarrierState) : (s.setBarrier k b).loadedDefects = s.loadedDefects := rfl
@[simp] theorem State.setBarrier_tables (s : State) (k : Nat) (b : BarrierState) : (s.setBarrier k b).tables = s.tables := rfl
@[simp] theorem State.setBarrier_counts (s : State) (k : Nat) (b : BarrierState) : (s.setBarrier k b).counts = s.counts := rfl
@[simp] theorem State.setBarrier_nans (s : State) (k : Nat) (b : BarrierState) : (s.setBarrier k b).nans = s.nans := rfl
@[simp] theorem State.setBarrier_nanStep (s : State) (k : Nat) (b : BarrierState) : (s.setBarrier k b).nanStep = s.nanStep := rfl
@[simp] theorem State.setBarrier_runView (s : State) (k : Nat) (b : BarrierState) : (s.setBarrier k b).runView = s.runView := rfl
@[simp] theorem State.setBarrier_stepView (s : State) (k : Nat) (b : BarrierState) : (s.setBarrier k b).stepView = s.stepView := rfl
@[simp] theorem State.setBarrier_sinceQuiet (s : State) (k : Nat) (b : BarrierState) : (s.setBarrier k b).sinceQuiet = s.sinceQuiet := rfl
@[simp] theorem State.setBarrier_tags (s : State) (k : Nat) (b : BarrierState) : (s.setBarrier k b).tags = s.tags := rfl
@[simp] theorem State.setBarrier_quiet (s : State) (k : Nat) (b : BarrierState) : (s.setBarrier k b).quiet = s.quiet := rfl
@[simp] theorem State.setBarrier_v (s : State) (k : Nat) (b : BarrierState) : (s.setBarrier k b).v = s.v := rfl
@[simp] theorem State.setBarrier_skip (s : State) (k : Nat) (b : BarrierState) : (s.setBarrier k b).skip = s.skip := rfl
@[simp] theorem State.setBarrier_ran (s : State) (k : Nat) (b : BarrierState) : (s.setBarrier k b).ran = s.ran := rfl
@[simp] theorem State.setBarrier_job (s : State) (k : Nat) (b : BarrierState) : (s.setBarrier k b).job = s.job := rfl
@[simp] theorem State.setBarrier_faulted (s : State) (k : Nat) (b : BarrierState) : (s.setBarrier k b).faulted = s.faulted := rfl
@[simp] theorem State.setBarrier_dirty (s : State) (k : Nat) (b : BarrierState) : (s.setBarrier k b).dirty = s.dirty := rfl
@[simp] theorem State.setBarrier_uniqueBad (s : State) (k : Nat) (b : BarrierState) : (s.setBarrier k b).uniqueBad = s.uniqueBad := rfl
@[simp] theorem State.setBarrier_drain (s : State) (k : Nat) (b : BarrierState) : (s.setBarrier k b).drain = s.drain := rfl
@[simp] theorem State.setBarrier_replies (s : State) (k : Nat) (b : BarrierState) : (s.setBarrier k b).replies = s.replies := rfl
@[simp] theorem State.setBarrier_sentCopy (s : State) (k : Nat) (b : BarrierState) : (s.setBarrier k b).sentCopy = s.sentCopy := rfl
@[simp] theorem State.setBarrier_deferred (s : State) (k : Nat) (b : BarrierState) : (s.setBarrier k b).deferred = s.deferred := rfl
@[simp] theorem State.setBarrier_due (s : State) (k : Nat) (b : BarrierState) : (s.setBarrier k b).due = s.due := rfl
@[simp] theorem State.setBarrier_scheduled (s : State) (k : Nat) (b : BarrierState) : (s.setBarrier k b).scheduled = s.scheduled := rfl
@[simp] theorem State.setBarrier_lastDrain (s : State) (k : Nat) (b : BarrierState) : (s.setBarrier k b).lastDrain = s.lastDrain := rfl
@[simp] theorem State.setBarrier_redrain (s : State) (k : Nat) (b : BarrierState) : (s.setBarrier k b).redrain = s.redrain := rfl
@[simp] theorem State.setBarrier_drainTimes (s : State) (k : Nat) (b : BarrierState) : (s.setBarrier k b).drainTimes = s.drainTimes := rfl
@[simp] theorem State.setBarrier_gateTimes (s : State) (k : Nat) (b : BarrierState) : (s.setBarrier k b).gateTimes = s.gateTimes := rfl
@[simp] theorem State.setBarrier_lastGateFc (s : State) (k : Nat) (b : BarrierState) : (s.setBarrier k b).lastGateFc = s.lastGateFc := rfl
@[simp] theorem State.setBarrier_history (s : State) (k : Nat) (b : BarrierState) : (s.setBarrier k b).history = s.history := rfl
@[simp] theorem State.setBarrier_historySecs (s : State) (k : Nat) (b : BarrierState) : (s.setBarrier k b).historySecs = s.historySecs := rfl
@[simp] theorem State.setBarrier_pairs (s : State) (k : Nat) (b : BarrierState) : (s.setBarrier k b).pairs = s.pairs := rfl
@[simp] theorem State.setBarrier_hosted (s : State) (k : Nat) (b : BarrierState) : (s.setBarrier k b).hosted = s.hosted := rfl
@[simp] theorem State.setBarrier_hostedReply (s : State) (k : Nat) (b : BarrierState) : (s.setBarrier k b).hostedReply = s.hostedReply := rfl
@[simp] theorem State.setBarrier_partnerTags (s : State) (k : Nat) (b : BarrierState) : (s.setBarrier k b).partnerTags = s.partnerTags := rfl
@[simp] theorem State.setBarrier_partnerOut (s : State) (k : Nat) (b : BarrierState) : (s.setBarrier k b).partnerOut = s.partnerOut := rfl
@[simp] theorem State.setBarrier_txns (s : State) (k : Nat) (b : BarrierState) : (s.setBarrier k b).txns = s.txns := rfl
@[simp] theorem State.setBarrier_loading (s : State) (k : Nat) (b : BarrierState) : (s.setBarrier k b).loading = s.loading := rfl
@[simp] theorem State.setBarrier_laddering (s : State) (k : Nat) (b : BarrierState) : (s.setBarrier k b).laddering = s.laddering := rfl
@[simp] theorem State.setBarrier_pairing (s : State) (k : Nat) (b : BarrierState) : (s.setBarrier k b).pairing = s.pairing := rfl
@[simp] theorem State.setBarrier_accepted (s : State) (k : Nat) (b : BarrierState) : (s.setBarrier k b).accepted = s.accepted := rfl
@[simp] theorem State.setBarrier_fetchTurn (s : State) (k : Nat) (b : BarrierState) : (s.setBarrier k b).fetchTurn = s.fetchTurn := rfl
@[simp] theorem State.setBarrier_halting (s : State) (k : Nat) (b : BarrierState) : (s.setBarrier k b).halting = s.halting := rfl
@[simp] theorem State.setBarrier_orphans (s : State) (k : Nat) (b : BarrierState) : (s.setBarrier k b).orphans = s.orphans := rfl
@[simp] theorem State.setBarrier_oobBusy (s : State) (k : Nat) (b : BarrierState) : (s.setBarrier k b).oobBusy = s.oobBusy := rfl
@[simp] theorem State.setBarrier_oobOut (s : State) (k : Nat) (b : BarrierState) : (s.setBarrier k b).oobOut = s.oobOut := rfl
@[simp] theorem State.setBarrier_phase (s : State) (k : Nat) (b : BarrierState) : (s.setBarrier k b).phase = s.phase := rfl
@[simp] theorem State.setBarrier_hostMem (s : State) (k : Nat) (b : BarrierState) : (s.setBarrier k b).hostMem = s.hostMem := rfl
@[simp] theorem State.setBarrier_msix (s : State) (k : Nat) (b : BarrierState) : (s.setBarrier k b).msix = s.msix := rfl
@[simp] theorem State.setBarrier_msixMask (s : State) (k : Nat) (b : BarrierState) : (s.setBarrier k b).msixMask = s.msixMask := rfl
@[simp] theorem State.setBarrier_msixTable (s : State) (k : Nat) (b : BarrierState) : (s.setBarrier k b).msixTable = s.msixTable := rfl
@[simp] theorem State.setBarrier_msixPending (s : State) (k : Nat) (b : BarrierState) : (s.setBarrier k b).msixPending = s.msixPending := rfl
@[simp] theorem State.setBarrier_rsp (s : State) (k : Nat) (b : BarrierState) : (s.setBarrier k b).rsp = s.rsp := rfl
@[simp] theorem State.setBarrier_stalledQ (s : State) (k : Nat) (b : BarrierState) : (s.setBarrier k b).stalledQ = s.stalledQ := rfl
@[simp] theorem State.setBarrier_snoop (s : State) (k : Nat) (b : BarrierState) : (s.setBarrier k b).snoop = s.snoop := rfl
@[simp] theorem State.setBarrier_snoopWait (s : State) (k : Nat) (b : BarrierState) : (s.setBarrier k b).snoopWait = s.snoopWait := rfl
@[simp] theorem State.setBarrier_cqWait (s : State) (k : Nat) (b : BarrierState) : (s.setBarrier k b).cqWait = s.cqWait := rfl
@[simp] theorem State.setBarrier_snoopAcks (s : State) (k : Nat) (b : BarrierState) : (s.setBarrier k b).snoopAcks = s.snoopAcks := rfl
@[simp] theorem State.setBarrier_hostWait (s : State) (k : Nat) (b : BarrierState) : (s.setBarrier k b).hostWait = s.hostWait := rfl
@[simp] theorem State.setBarrier_perst (s : State) (k : Nat) (b : BarrierState) : (s.setBarrier k b).perst = s.perst := rfl
@[simp] theorem State.setBarrier_log (s : State) (k : Nat) (b : BarrierState) : (s.setBarrier k b).log = s.log := rfl
@[simp] theorem State.setBarrier_nextSeq (s : State) (k : Nat) (b : BarrierState) : (s.setBarrier k b).nextSeq = s.nextSeq := rfl
@[simp] theorem State.setBarrier_sinceRead (s : State) (k : Nat) (b : BarrierState) : (s.setBarrier k b).sinceRead = s.sinceRead := rfl
@[simp] theorem State.setBarrier_activities (s : State) (k : Nat) (b : BarrierState) : (s.setBarrier k b).activities = s.activities := rfl
@[simp] theorem State.setBarrier_fuses (s : State) (k : Nat) (b : BarrierState) : (s.setBarrier k b).fuses = s.fuses := rfl
@[simp] theorem State.setBarrier_fuseOps (s : State) (k : Nat) (b : BarrierState) : (s.setBarrier k b).fuseOps = s.fuseOps := rfl
@[simp] theorem State.setBarrier_shadowBank (s : State) (k : Nat) (b : BarrierState) : (s.setBarrier k b).shadowBank = s.shadowBank := rfl
@[simp] theorem State.setBarrier_flash (s : State) (k : Nat) (b : BarrierState) : (s.setBarrier k b).flash = s.flash := rfl
@[simp] theorem State.setBarrier_firmware (s : State) (k : Nat) (b : BarrierState) : (s.setBarrier k b).firmware = s.firmware := rfl
@[simp] theorem State.setBarrier_patchChain (s : State) (k : Nat) (b : BarrierState) : (s.setBarrier k b).patchChain = s.patchChain := rfl
@[simp] theorem State.setBarrier_sessions (s : State) (k : Nat) (b : BarrierState) : (s.setBarrier k b).sessions = s.sessions := rfl
@[simp] theorem State.setBarrier_measured (s : State) (k : Nat) (b : BarrierState) : (s.setBarrier k b).measured = s.measured := rfl
@[simp] theorem State.setBarrier_pldmRefused (s : State) (k : Nat) (b : BarrierState) : (s.setBarrier k b).pldmRefused = s.pldmRefused := rfl
@[simp] theorem State.setBarrier_sensor (s : State) (k : Nat) (b : BarrierState) : (s.setBarrier k b).sensor = s.sensor := rfl
@[simp] theorem State.setBarrier_power (s : State) (k : Nat) (b : BarrierState) : (s.setBarrier k b).power = s.power := rfl
@[simp] theorem State.setBarrier_cool (s : State) (k : Nat) (b : BarrierState) : (s.setBarrier k b).cool = s.cool := rfl
@[simp] theorem State.setBarrier_sense (s : State) (k : Nat) (b : BarrierState) : (s.setBarrier k b).sense = s.sense := rfl
@[simp] theorem State.setBarrier_smbusDriving (s : State) (k : Nat) (b : BarrierState) : (s.setBarrier k b).smbusDriving = s.smbusDriving := rfl
@[simp] theorem State.setBarrier_smbusAddr (s : State) (k : Nat) (b : BarrierState) : (s.setBarrier k b).smbusAddr = s.smbusAddr := rfl
@[simp] theorem State.setBarrier_scanDriven (s : State) (k : Nat) (b : BarrierState) : (s.setBarrier k b).scanDriven = s.scanDriven := rfl
@[simp] theorem State.setBarrier_lostStacks (s : State) (k : Nat) (b : BarrierState) : (s.setBarrier k b).lostStacks = s.lostStacks := rfl
@[simp] theorem State.setBarrier_repairs (s : State) (k : Nat) (b : BarrierState) : (s.setBarrier k b).repairs = s.repairs := rfl

/-! ### `setUnit` changes `units` alone -/

@[simp] theorem State.setUnit_pending (s : State) (u : Nat) (e : UnitErr) : (s.setUnit u e).pending = s.pending := rfl
@[simp] theorem State.setUnit_fc (s : State) (u : Nat) (e : UnitErr) : (s.setUnit u e).fc = s.fc := rfl
@[simp] theorem State.setUnit_runFc (s : State) (u : Nat) (e : UnitErr) : (s.setUnit u e).runFc = s.runFc := rfl
@[simp] theorem State.setUnit_free (s : State) (u : Nat) (e : UnitErr) : (s.setUnit u e).free = s.free := rfl
@[simp] theorem State.setUnit_regs (s : State) (u : Nat) (e : UnitErr) : (s.setUnit u e).regs = s.regs := rfl
@[simp] theorem State.setUnit_mem (s : State) (u : Nat) (e : UnitErr) : (s.setUnit u e).mem = s.mem := rfl
@[simp] theorem State.setUnit_bad (s : State) (u : Nat) (e : UnitErr) : (s.setUnit u e).bad = s.bad := rfl
@[simp] theorem State.setUnit_cores (s : State) (u : Nat) (e : UnitErr) : (s.setUnit u e).cores = s.cores := rfl
@[simp] theorem State.setUnit_routers (s : State) (u : Nat) (e : UnitErr) : (s.setUnit u e).routers = s.routers := rfl
@[simp] theorem State.setUnit_barriers (s : State) (u : Nat) (e : UnitErr) : (s.setUnit u e).barriers = s.barriers := rfl
@[simp] theorem State.setUnit_arrivals (s : State) (u : Nat) (e : UnitErr) : (s.setUnit u e).arrivals = s.arrivals := rfl
@[simp] theorem State.setUnit_stacked (s : State) (u : Nat) (e : UnitErr) : (s.setUnit u e).stacked = s.stacked := rfl
@[simp] theorem State.setUnit_ports (s : State) (u : Nat) (e : UnitErr) : (s.setUnit u e).ports = s.ports := rfl
@[simp] theorem State.setUnit_regions (s : State) (u : Nat) (e : UnitErr) : (s.setUnit u e).regions = s.regions := rfl
@[simp] theorem State.setUnit_image (s : State) (u : Nat) (e : UnitErr) : (s.setUnit u e).image = s.image := rfl
@[simp] theorem State.setUnit_left (s : State) (u : Nat) (e : UnitErr) : (s.setUnit u e).left = s.left := rfl
@[simp] theorem State.setUnit_carried (s : State) (u : Nat) (e : UnitErr) : (s.setUnit u e).carried = s.carried := rfl
@[simp] theorem State.setUnit_loadedDefects (s : State) (u : Nat) (e : UnitErr) : (s.setUnit u e).loadedDefects = s.loadedDefects := rfl
@[simp] theorem State.setUnit_tables (s : State) (u : Nat) (e : UnitErr) : (s.setUnit u e).tables = s.tables := rfl
@[simp] theorem State.setUnit_counts (s : State) (u : Nat) (e : UnitErr) : (s.setUnit u e).counts = s.counts := rfl
@[simp] theorem State.setUnit_nans (s : State) (u : Nat) (e : UnitErr) : (s.setUnit u e).nans = s.nans := rfl
@[simp] theorem State.setUnit_nanStep (s : State) (u : Nat) (e : UnitErr) : (s.setUnit u e).nanStep = s.nanStep := rfl
@[simp] theorem State.setUnit_runView (s : State) (u : Nat) (e : UnitErr) : (s.setUnit u e).runView = s.runView := rfl
@[simp] theorem State.setUnit_stepView (s : State) (u : Nat) (e : UnitErr) : (s.setUnit u e).stepView = s.stepView := rfl
@[simp] theorem State.setUnit_sinceQuiet (s : State) (u : Nat) (e : UnitErr) : (s.setUnit u e).sinceQuiet = s.sinceQuiet := rfl
@[simp] theorem State.setUnit_tags (s : State) (u : Nat) (e : UnitErr) : (s.setUnit u e).tags = s.tags := rfl
@[simp] theorem State.setUnit_quiet (s : State) (u : Nat) (e : UnitErr) : (s.setUnit u e).quiet = s.quiet := rfl
@[simp] theorem State.setUnit_v (s : State) (u : Nat) (e : UnitErr) : (s.setUnit u e).v = s.v := rfl
@[simp] theorem State.setUnit_skip (s : State) (u : Nat) (e : UnitErr) : (s.setUnit u e).skip = s.skip := rfl
@[simp] theorem State.setUnit_ran (s : State) (u : Nat) (e : UnitErr) : (s.setUnit u e).ran = s.ran := rfl
@[simp] theorem State.setUnit_job (s : State) (u : Nat) (e : UnitErr) : (s.setUnit u e).job = s.job := rfl
@[simp] theorem State.setUnit_faulted (s : State) (u : Nat) (e : UnitErr) : (s.setUnit u e).faulted = s.faulted := rfl
@[simp] theorem State.setUnit_dirty (s : State) (u : Nat) (e : UnitErr) : (s.setUnit u e).dirty = s.dirty := rfl
@[simp] theorem State.setUnit_uniqueBad (s : State) (u : Nat) (e : UnitErr) : (s.setUnit u e).uniqueBad = s.uniqueBad := rfl
@[simp] theorem State.setUnit_drain (s : State) (u : Nat) (e : UnitErr) : (s.setUnit u e).drain = s.drain := rfl
@[simp] theorem State.setUnit_replies (s : State) (u : Nat) (e : UnitErr) : (s.setUnit u e).replies = s.replies := rfl
@[simp] theorem State.setUnit_sentCopy (s : State) (u : Nat) (e : UnitErr) : (s.setUnit u e).sentCopy = s.sentCopy := rfl
@[simp] theorem State.setUnit_deferred (s : State) (u : Nat) (e : UnitErr) : (s.setUnit u e).deferred = s.deferred := rfl
@[simp] theorem State.setUnit_due (s : State) (u : Nat) (e : UnitErr) : (s.setUnit u e).due = s.due := rfl
@[simp] theorem State.setUnit_scheduled (s : State) (u : Nat) (e : UnitErr) : (s.setUnit u e).scheduled = s.scheduled := rfl
@[simp] theorem State.setUnit_lastDrain (s : State) (u : Nat) (e : UnitErr) : (s.setUnit u e).lastDrain = s.lastDrain := rfl
@[simp] theorem State.setUnit_redrain (s : State) (u : Nat) (e : UnitErr) : (s.setUnit u e).redrain = s.redrain := rfl
@[simp] theorem State.setUnit_drainTimes (s : State) (u : Nat) (e : UnitErr) : (s.setUnit u e).drainTimes = s.drainTimes := rfl
@[simp] theorem State.setUnit_gateTimes (s : State) (u : Nat) (e : UnitErr) : (s.setUnit u e).gateTimes = s.gateTimes := rfl
@[simp] theorem State.setUnit_lastGateFc (s : State) (u : Nat) (e : UnitErr) : (s.setUnit u e).lastGateFc = s.lastGateFc := rfl
@[simp] theorem State.setUnit_history (s : State) (u : Nat) (e : UnitErr) : (s.setUnit u e).history = s.history := rfl
@[simp] theorem State.setUnit_historySecs (s : State) (u : Nat) (e : UnitErr) : (s.setUnit u e).historySecs = s.historySecs := rfl
@[simp] theorem State.setUnit_pairs (s : State) (u : Nat) (e : UnitErr) : (s.setUnit u e).pairs = s.pairs := rfl
@[simp] theorem State.setUnit_hosted (s : State) (u : Nat) (e : UnitErr) : (s.setUnit u e).hosted = s.hosted := rfl
@[simp] theorem State.setUnit_hostedReply (s : State) (u : Nat) (e : UnitErr) : (s.setUnit u e).hostedReply = s.hostedReply := rfl
@[simp] theorem State.setUnit_partnerTags (s : State) (u : Nat) (e : UnitErr) : (s.setUnit u e).partnerTags = s.partnerTags := rfl
@[simp] theorem State.setUnit_partnerOut (s : State) (u : Nat) (e : UnitErr) : (s.setUnit u e).partnerOut = s.partnerOut := rfl
@[simp] theorem State.setUnit_txns (s : State) (u : Nat) (e : UnitErr) : (s.setUnit u e).txns = s.txns := rfl
@[simp] theorem State.setUnit_loading (s : State) (u : Nat) (e : UnitErr) : (s.setUnit u e).loading = s.loading := rfl
@[simp] theorem State.setUnit_laddering (s : State) (u : Nat) (e : UnitErr) : (s.setUnit u e).laddering = s.laddering := rfl
@[simp] theorem State.setUnit_pairing (s : State) (u : Nat) (e : UnitErr) : (s.setUnit u e).pairing = s.pairing := rfl
@[simp] theorem State.setUnit_accepted (s : State) (u : Nat) (e : UnitErr) : (s.setUnit u e).accepted = s.accepted := rfl
@[simp] theorem State.setUnit_fetchTurn (s : State) (u : Nat) (e : UnitErr) : (s.setUnit u e).fetchTurn = s.fetchTurn := rfl
@[simp] theorem State.setUnit_halting (s : State) (u : Nat) (e : UnitErr) : (s.setUnit u e).halting = s.halting := rfl
@[simp] theorem State.setUnit_orphans (s : State) (u : Nat) (e : UnitErr) : (s.setUnit u e).orphans = s.orphans := rfl
@[simp] theorem State.setUnit_oobBusy (s : State) (u : Nat) (e : UnitErr) : (s.setUnit u e).oobBusy = s.oobBusy := rfl
@[simp] theorem State.setUnit_oobOut (s : State) (u : Nat) (e : UnitErr) : (s.setUnit u e).oobOut = s.oobOut := rfl
@[simp] theorem State.setUnit_phase (s : State) (u : Nat) (e : UnitErr) : (s.setUnit u e).phase = s.phase := rfl
@[simp] theorem State.setUnit_hostMem (s : State) (u : Nat) (e : UnitErr) : (s.setUnit u e).hostMem = s.hostMem := rfl
@[simp] theorem State.setUnit_msix (s : State) (u : Nat) (e : UnitErr) : (s.setUnit u e).msix = s.msix := rfl
@[simp] theorem State.setUnit_msixMask (s : State) (u : Nat) (e : UnitErr) : (s.setUnit u e).msixMask = s.msixMask := rfl
@[simp] theorem State.setUnit_msixTable (s : State) (u : Nat) (e : UnitErr) : (s.setUnit u e).msixTable = s.msixTable := rfl
@[simp] theorem State.setUnit_msixPending (s : State) (u : Nat) (e : UnitErr) : (s.setUnit u e).msixPending = s.msixPending := rfl
@[simp] theorem State.setUnit_rsp (s : State) (u : Nat) (e : UnitErr) : (s.setUnit u e).rsp = s.rsp := rfl
@[simp] theorem State.setUnit_stalledQ (s : State) (u : Nat) (e : UnitErr) : (s.setUnit u e).stalledQ = s.stalledQ := rfl
@[simp] theorem State.setUnit_snoop (s : State) (u : Nat) (e : UnitErr) : (s.setUnit u e).snoop = s.snoop := rfl
@[simp] theorem State.setUnit_snoopWait (s : State) (u : Nat) (e : UnitErr) : (s.setUnit u e).snoopWait = s.snoopWait := rfl
@[simp] theorem State.setUnit_cqWait (s : State) (u : Nat) (e : UnitErr) : (s.setUnit u e).cqWait = s.cqWait := rfl
@[simp] theorem State.setUnit_snoopAcks (s : State) (u : Nat) (e : UnitErr) : (s.setUnit u e).snoopAcks = s.snoopAcks := rfl
@[simp] theorem State.setUnit_hostWait (s : State) (u : Nat) (e : UnitErr) : (s.setUnit u e).hostWait = s.hostWait := rfl
@[simp] theorem State.setUnit_perst (s : State) (u : Nat) (e : UnitErr) : (s.setUnit u e).perst = s.perst := rfl
@[simp] theorem State.setUnit_log (s : State) (u : Nat) (e : UnitErr) : (s.setUnit u e).log = s.log := rfl
@[simp] theorem State.setUnit_nextSeq (s : State) (u : Nat) (e : UnitErr) : (s.setUnit u e).nextSeq = s.nextSeq := rfl
@[simp] theorem State.setUnit_sinceRead (s : State) (u : Nat) (e : UnitErr) : (s.setUnit u e).sinceRead = s.sinceRead := rfl
@[simp] theorem State.setUnit_activities (s : State) (u : Nat) (e : UnitErr) : (s.setUnit u e).activities = s.activities := rfl
@[simp] theorem State.setUnit_fuses (s : State) (u : Nat) (e : UnitErr) : (s.setUnit u e).fuses = s.fuses := rfl
@[simp] theorem State.setUnit_fuseOps (s : State) (u : Nat) (e : UnitErr) : (s.setUnit u e).fuseOps = s.fuseOps := rfl
@[simp] theorem State.setUnit_shadowBank (s : State) (u : Nat) (e : UnitErr) : (s.setUnit u e).shadowBank = s.shadowBank := rfl
@[simp] theorem State.setUnit_flash (s : State) (u : Nat) (e : UnitErr) : (s.setUnit u e).flash = s.flash := rfl
@[simp] theorem State.setUnit_firmware (s : State) (u : Nat) (e : UnitErr) : (s.setUnit u e).firmware = s.firmware := rfl
@[simp] theorem State.setUnit_patchChain (s : State) (u : Nat) (e : UnitErr) : (s.setUnit u e).patchChain = s.patchChain := rfl
@[simp] theorem State.setUnit_sessions (s : State) (u : Nat) (e : UnitErr) : (s.setUnit u e).sessions = s.sessions := rfl
@[simp] theorem State.setUnit_measured (s : State) (u : Nat) (e : UnitErr) : (s.setUnit u e).measured = s.measured := rfl
@[simp] theorem State.setUnit_pldmRefused (s : State) (u : Nat) (e : UnitErr) : (s.setUnit u e).pldmRefused = s.pldmRefused := rfl
@[simp] theorem State.setUnit_sensor (s : State) (u : Nat) (e : UnitErr) : (s.setUnit u e).sensor = s.sensor := rfl
@[simp] theorem State.setUnit_power (s : State) (u : Nat) (e : UnitErr) : (s.setUnit u e).power = s.power := rfl
@[simp] theorem State.setUnit_cool (s : State) (u : Nat) (e : UnitErr) : (s.setUnit u e).cool = s.cool := rfl
@[simp] theorem State.setUnit_sense (s : State) (u : Nat) (e : UnitErr) : (s.setUnit u e).sense = s.sense := rfl
@[simp] theorem State.setUnit_smbusDriving (s : State) (u : Nat) (e : UnitErr) : (s.setUnit u e).smbusDriving = s.smbusDriving := rfl
@[simp] theorem State.setUnit_smbusAddr (s : State) (u : Nat) (e : UnitErr) : (s.setUnit u e).smbusAddr = s.smbusAddr := rfl
@[simp] theorem State.setUnit_scanDriven (s : State) (u : Nat) (e : UnitErr) : (s.setUnit u e).scanDriven = s.scanDriven := rfl
@[simp] theorem State.setUnit_lostStacks (s : State) (u : Nat) (e : UnitErr) : (s.setUnit u e).lostStacks = s.lostStacks := rfl
@[simp] theorem State.setUnit_repairs (s : State) (u : Nat) (e : UnitErr) : (s.setUnit u e).repairs = s.repairs := rfl

/-! ### `setStack` changes `stacked` alone -/

@[simp] theorem State.setStack_pending (s : State) (c : Nat) (x : Stacked) : (s.setStack c x).pending = s.pending := rfl
@[simp] theorem State.setStack_fc (s : State) (c : Nat) (x : Stacked) : (s.setStack c x).fc = s.fc := rfl
@[simp] theorem State.setStack_runFc (s : State) (c : Nat) (x : Stacked) : (s.setStack c x).runFc = s.runFc := rfl
@[simp] theorem State.setStack_free (s : State) (c : Nat) (x : Stacked) : (s.setStack c x).free = s.free := rfl
@[simp] theorem State.setStack_regs (s : State) (c : Nat) (x : Stacked) : (s.setStack c x).regs = s.regs := rfl
@[simp] theorem State.setStack_mem (s : State) (c : Nat) (x : Stacked) : (s.setStack c x).mem = s.mem := rfl
@[simp] theorem State.setStack_bad (s : State) (c : Nat) (x : Stacked) : (s.setStack c x).bad = s.bad := rfl
@[simp] theorem State.setStack_cores (s : State) (c : Nat) (x : Stacked) : (s.setStack c x).cores = s.cores := rfl
@[simp] theorem State.setStack_routers (s : State) (c : Nat) (x : Stacked) : (s.setStack c x).routers = s.routers := rfl
@[simp] theorem State.setStack_barriers (s : State) (c : Nat) (x : Stacked) : (s.setStack c x).barriers = s.barriers := rfl
@[simp] theorem State.setStack_arrivals (s : State) (c : Nat) (x : Stacked) : (s.setStack c x).arrivals = s.arrivals := rfl
@[simp] theorem State.setStack_units (s : State) (c : Nat) (x : Stacked) : (s.setStack c x).units = s.units := rfl
@[simp] theorem State.setStack_ports (s : State) (c : Nat) (x : Stacked) : (s.setStack c x).ports = s.ports := rfl
@[simp] theorem State.setStack_regions (s : State) (c : Nat) (x : Stacked) : (s.setStack c x).regions = s.regions := rfl
@[simp] theorem State.setStack_image (s : State) (c : Nat) (x : Stacked) : (s.setStack c x).image = s.image := rfl
@[simp] theorem State.setStack_left (s : State) (c : Nat) (x : Stacked) : (s.setStack c x).left = s.left := rfl
@[simp] theorem State.setStack_carried (s : State) (c : Nat) (x : Stacked) : (s.setStack c x).carried = s.carried := rfl
@[simp] theorem State.setStack_loadedDefects (s : State) (c : Nat) (x : Stacked) : (s.setStack c x).loadedDefects = s.loadedDefects := rfl
@[simp] theorem State.setStack_tables (s : State) (c : Nat) (x : Stacked) : (s.setStack c x).tables = s.tables := rfl
@[simp] theorem State.setStack_counts (s : State) (c : Nat) (x : Stacked) : (s.setStack c x).counts = s.counts := rfl
@[simp] theorem State.setStack_nans (s : State) (c : Nat) (x : Stacked) : (s.setStack c x).nans = s.nans := rfl
@[simp] theorem State.setStack_nanStep (s : State) (c : Nat) (x : Stacked) : (s.setStack c x).nanStep = s.nanStep := rfl
@[simp] theorem State.setStack_runView (s : State) (c : Nat) (x : Stacked) : (s.setStack c x).runView = s.runView := rfl
@[simp] theorem State.setStack_stepView (s : State) (c : Nat) (x : Stacked) : (s.setStack c x).stepView = s.stepView := rfl
@[simp] theorem State.setStack_sinceQuiet (s : State) (c : Nat) (x : Stacked) : (s.setStack c x).sinceQuiet = s.sinceQuiet := rfl
@[simp] theorem State.setStack_tags (s : State) (c : Nat) (x : Stacked) : (s.setStack c x).tags = s.tags := rfl
@[simp] theorem State.setStack_quiet (s : State) (c : Nat) (x : Stacked) : (s.setStack c x).quiet = s.quiet := rfl
@[simp] theorem State.setStack_v (s : State) (c : Nat) (x : Stacked) : (s.setStack c x).v = s.v := rfl
@[simp] theorem State.setStack_skip (s : State) (c : Nat) (x : Stacked) : (s.setStack c x).skip = s.skip := rfl
@[simp] theorem State.setStack_ran (s : State) (c : Nat) (x : Stacked) : (s.setStack c x).ran = s.ran := rfl
@[simp] theorem State.setStack_job (s : State) (c : Nat) (x : Stacked) : (s.setStack c x).job = s.job := rfl
@[simp] theorem State.setStack_faulted (s : State) (c : Nat) (x : Stacked) : (s.setStack c x).faulted = s.faulted := rfl
@[simp] theorem State.setStack_dirty (s : State) (c : Nat) (x : Stacked) : (s.setStack c x).dirty = s.dirty := rfl
@[simp] theorem State.setStack_uniqueBad (s : State) (c : Nat) (x : Stacked) : (s.setStack c x).uniqueBad = s.uniqueBad := rfl
@[simp] theorem State.setStack_drain (s : State) (c : Nat) (x : Stacked) : (s.setStack c x).drain = s.drain := rfl
@[simp] theorem State.setStack_replies (s : State) (c : Nat) (x : Stacked) : (s.setStack c x).replies = s.replies := rfl
@[simp] theorem State.setStack_sentCopy (s : State) (c : Nat) (x : Stacked) : (s.setStack c x).sentCopy = s.sentCopy := rfl
@[simp] theorem State.setStack_deferred (s : State) (c : Nat) (x : Stacked) : (s.setStack c x).deferred = s.deferred := rfl
@[simp] theorem State.setStack_due (s : State) (c : Nat) (x : Stacked) : (s.setStack c x).due = s.due := rfl
@[simp] theorem State.setStack_scheduled (s : State) (c : Nat) (x : Stacked) : (s.setStack c x).scheduled = s.scheduled := rfl
@[simp] theorem State.setStack_lastDrain (s : State) (c : Nat) (x : Stacked) : (s.setStack c x).lastDrain = s.lastDrain := rfl
@[simp] theorem State.setStack_redrain (s : State) (c : Nat) (x : Stacked) : (s.setStack c x).redrain = s.redrain := rfl
@[simp] theorem State.setStack_drainTimes (s : State) (c : Nat) (x : Stacked) : (s.setStack c x).drainTimes = s.drainTimes := rfl
@[simp] theorem State.setStack_gateTimes (s : State) (c : Nat) (x : Stacked) : (s.setStack c x).gateTimes = s.gateTimes := rfl
@[simp] theorem State.setStack_lastGateFc (s : State) (c : Nat) (x : Stacked) : (s.setStack c x).lastGateFc = s.lastGateFc := rfl
@[simp] theorem State.setStack_history (s : State) (c : Nat) (x : Stacked) : (s.setStack c x).history = s.history := rfl
@[simp] theorem State.setStack_historySecs (s : State) (c : Nat) (x : Stacked) : (s.setStack c x).historySecs = s.historySecs := rfl
@[simp] theorem State.setStack_pairs (s : State) (c : Nat) (x : Stacked) : (s.setStack c x).pairs = s.pairs := rfl
@[simp] theorem State.setStack_hosted (s : State) (c : Nat) (x : Stacked) : (s.setStack c x).hosted = s.hosted := rfl
@[simp] theorem State.setStack_hostedReply (s : State) (c : Nat) (x : Stacked) : (s.setStack c x).hostedReply = s.hostedReply := rfl
@[simp] theorem State.setStack_partnerTags (s : State) (c : Nat) (x : Stacked) : (s.setStack c x).partnerTags = s.partnerTags := rfl
@[simp] theorem State.setStack_partnerOut (s : State) (c : Nat) (x : Stacked) : (s.setStack c x).partnerOut = s.partnerOut := rfl
@[simp] theorem State.setStack_txns (s : State) (c : Nat) (x : Stacked) : (s.setStack c x).txns = s.txns := rfl
@[simp] theorem State.setStack_loading (s : State) (c : Nat) (x : Stacked) : (s.setStack c x).loading = s.loading := rfl
@[simp] theorem State.setStack_laddering (s : State) (c : Nat) (x : Stacked) : (s.setStack c x).laddering = s.laddering := rfl
@[simp] theorem State.setStack_pairing (s : State) (c : Nat) (x : Stacked) : (s.setStack c x).pairing = s.pairing := rfl
@[simp] theorem State.setStack_accepted (s : State) (c : Nat) (x : Stacked) : (s.setStack c x).accepted = s.accepted := rfl
@[simp] theorem State.setStack_fetchTurn (s : State) (c : Nat) (x : Stacked) : (s.setStack c x).fetchTurn = s.fetchTurn := rfl
@[simp] theorem State.setStack_halting (s : State) (c : Nat) (x : Stacked) : (s.setStack c x).halting = s.halting := rfl
@[simp] theorem State.setStack_orphans (s : State) (c : Nat) (x : Stacked) : (s.setStack c x).orphans = s.orphans := rfl
@[simp] theorem State.setStack_oobBusy (s : State) (c : Nat) (x : Stacked) : (s.setStack c x).oobBusy = s.oobBusy := rfl
@[simp] theorem State.setStack_oobOut (s : State) (c : Nat) (x : Stacked) : (s.setStack c x).oobOut = s.oobOut := rfl
@[simp] theorem State.setStack_phase (s : State) (c : Nat) (x : Stacked) : (s.setStack c x).phase = s.phase := rfl
@[simp] theorem State.setStack_hostMem (s : State) (c : Nat) (x : Stacked) : (s.setStack c x).hostMem = s.hostMem := rfl
@[simp] theorem State.setStack_msix (s : State) (c : Nat) (x : Stacked) : (s.setStack c x).msix = s.msix := rfl
@[simp] theorem State.setStack_msixMask (s : State) (c : Nat) (x : Stacked) : (s.setStack c x).msixMask = s.msixMask := rfl
@[simp] theorem State.setStack_msixTable (s : State) (c : Nat) (x : Stacked) : (s.setStack c x).msixTable = s.msixTable := rfl
@[simp] theorem State.setStack_msixPending (s : State) (c : Nat) (x : Stacked) : (s.setStack c x).msixPending = s.msixPending := rfl
@[simp] theorem State.setStack_rsp (s : State) (c : Nat) (x : Stacked) : (s.setStack c x).rsp = s.rsp := rfl
@[simp] theorem State.setStack_stalledQ (s : State) (c : Nat) (x : Stacked) : (s.setStack c x).stalledQ = s.stalledQ := rfl
@[simp] theorem State.setStack_snoop (s : State) (c : Nat) (x : Stacked) : (s.setStack c x).snoop = s.snoop := rfl
@[simp] theorem State.setStack_snoopWait (s : State) (c : Nat) (x : Stacked) : (s.setStack c x).snoopWait = s.snoopWait := rfl
@[simp] theorem State.setStack_cqWait (s : State) (c : Nat) (x : Stacked) : (s.setStack c x).cqWait = s.cqWait := rfl
@[simp] theorem State.setStack_snoopAcks (s : State) (c : Nat) (x : Stacked) : (s.setStack c x).snoopAcks = s.snoopAcks := rfl
@[simp] theorem State.setStack_hostWait (s : State) (c : Nat) (x : Stacked) : (s.setStack c x).hostWait = s.hostWait := rfl
@[simp] theorem State.setStack_perst (s : State) (c : Nat) (x : Stacked) : (s.setStack c x).perst = s.perst := rfl
@[simp] theorem State.setStack_log (s : State) (c : Nat) (x : Stacked) : (s.setStack c x).log = s.log := rfl
@[simp] theorem State.setStack_nextSeq (s : State) (c : Nat) (x : Stacked) : (s.setStack c x).nextSeq = s.nextSeq := rfl
@[simp] theorem State.setStack_sinceRead (s : State) (c : Nat) (x : Stacked) : (s.setStack c x).sinceRead = s.sinceRead := rfl
@[simp] theorem State.setStack_activities (s : State) (c : Nat) (x : Stacked) : (s.setStack c x).activities = s.activities := rfl
@[simp] theorem State.setStack_fuses (s : State) (c : Nat) (x : Stacked) : (s.setStack c x).fuses = s.fuses := rfl
@[simp] theorem State.setStack_fuseOps (s : State) (c : Nat) (x : Stacked) : (s.setStack c x).fuseOps = s.fuseOps := rfl
@[simp] theorem State.setStack_shadowBank (s : State) (c : Nat) (x : Stacked) : (s.setStack c x).shadowBank = s.shadowBank := rfl
@[simp] theorem State.setStack_flash (s : State) (c : Nat) (x : Stacked) : (s.setStack c x).flash = s.flash := rfl
@[simp] theorem State.setStack_firmware (s : State) (c : Nat) (x : Stacked) : (s.setStack c x).firmware = s.firmware := rfl
@[simp] theorem State.setStack_patchChain (s : State) (c : Nat) (x : Stacked) : (s.setStack c x).patchChain = s.patchChain := rfl
@[simp] theorem State.setStack_sessions (s : State) (c : Nat) (x : Stacked) : (s.setStack c x).sessions = s.sessions := rfl
@[simp] theorem State.setStack_measured (s : State) (c : Nat) (x : Stacked) : (s.setStack c x).measured = s.measured := rfl
@[simp] theorem State.setStack_pldmRefused (s : State) (c : Nat) (x : Stacked) : (s.setStack c x).pldmRefused = s.pldmRefused := rfl
@[simp] theorem State.setStack_sensor (s : State) (c : Nat) (x : Stacked) : (s.setStack c x).sensor = s.sensor := rfl
@[simp] theorem State.setStack_power (s : State) (c : Nat) (x : Stacked) : (s.setStack c x).power = s.power := rfl
@[simp] theorem State.setStack_cool (s : State) (c : Nat) (x : Stacked) : (s.setStack c x).cool = s.cool := rfl
@[simp] theorem State.setStack_sense (s : State) (c : Nat) (x : Stacked) : (s.setStack c x).sense = s.sense := rfl
@[simp] theorem State.setStack_smbusDriving (s : State) (c : Nat) (x : Stacked) : (s.setStack c x).smbusDriving = s.smbusDriving := rfl
@[simp] theorem State.setStack_smbusAddr (s : State) (c : Nat) (x : Stacked) : (s.setStack c x).smbusAddr = s.smbusAddr := rfl
@[simp] theorem State.setStack_scanDriven (s : State) (c : Nat) (x : Stacked) : (s.setStack c x).scanDriven = s.scanDriven := rfl
@[simp] theorem State.setStack_lostStacks (s : State) (c : Nat) (x : Stacked) : (s.setStack c x).lostStacks = s.lostStacks := rfl
@[simp] theorem State.setStack_repairs (s : State) (c : Nat) (x : Stacked) : (s.setStack c x).repairs = s.repairs := rfl

/-! ### `setPort` changes `ports` alone -/

@[simp] theorem State.setPort_pending (s : State) (n : Nat) (x : Port) : (s.setPort n x).pending = s.pending := rfl
@[simp] theorem State.setPort_fc (s : State) (n : Nat) (x : Port) : (s.setPort n x).fc = s.fc := rfl
@[simp] theorem State.setPort_runFc (s : State) (n : Nat) (x : Port) : (s.setPort n x).runFc = s.runFc := rfl
@[simp] theorem State.setPort_free (s : State) (n : Nat) (x : Port) : (s.setPort n x).free = s.free := rfl
@[simp] theorem State.setPort_regs (s : State) (n : Nat) (x : Port) : (s.setPort n x).regs = s.regs := rfl
@[simp] theorem State.setPort_mem (s : State) (n : Nat) (x : Port) : (s.setPort n x).mem = s.mem := rfl
@[simp] theorem State.setPort_bad (s : State) (n : Nat) (x : Port) : (s.setPort n x).bad = s.bad := rfl
@[simp] theorem State.setPort_cores (s : State) (n : Nat) (x : Port) : (s.setPort n x).cores = s.cores := rfl
@[simp] theorem State.setPort_routers (s : State) (n : Nat) (x : Port) : (s.setPort n x).routers = s.routers := rfl
@[simp] theorem State.setPort_barriers (s : State) (n : Nat) (x : Port) : (s.setPort n x).barriers = s.barriers := rfl
@[simp] theorem State.setPort_arrivals (s : State) (n : Nat) (x : Port) : (s.setPort n x).arrivals = s.arrivals := rfl
@[simp] theorem State.setPort_stacked (s : State) (n : Nat) (x : Port) : (s.setPort n x).stacked = s.stacked := rfl
@[simp] theorem State.setPort_units (s : State) (n : Nat) (x : Port) : (s.setPort n x).units = s.units := rfl
@[simp] theorem State.setPort_regions (s : State) (n : Nat) (x : Port) : (s.setPort n x).regions = s.regions := rfl
@[simp] theorem State.setPort_image (s : State) (n : Nat) (x : Port) : (s.setPort n x).image = s.image := rfl
@[simp] theorem State.setPort_left (s : State) (n : Nat) (x : Port) : (s.setPort n x).left = s.left := rfl
@[simp] theorem State.setPort_carried (s : State) (n : Nat) (x : Port) : (s.setPort n x).carried = s.carried := rfl
@[simp] theorem State.setPort_loadedDefects (s : State) (n : Nat) (x : Port) : (s.setPort n x).loadedDefects = s.loadedDefects := rfl
@[simp] theorem State.setPort_tables (s : State) (n : Nat) (x : Port) : (s.setPort n x).tables = s.tables := rfl
@[simp] theorem State.setPort_counts (s : State) (n : Nat) (x : Port) : (s.setPort n x).counts = s.counts := rfl
@[simp] theorem State.setPort_nans (s : State) (n : Nat) (x : Port) : (s.setPort n x).nans = s.nans := rfl
@[simp] theorem State.setPort_nanStep (s : State) (n : Nat) (x : Port) : (s.setPort n x).nanStep = s.nanStep := rfl
@[simp] theorem State.setPort_runView (s : State) (n : Nat) (x : Port) : (s.setPort n x).runView = s.runView := rfl
@[simp] theorem State.setPort_stepView (s : State) (n : Nat) (x : Port) : (s.setPort n x).stepView = s.stepView := rfl
@[simp] theorem State.setPort_sinceQuiet (s : State) (n : Nat) (x : Port) : (s.setPort n x).sinceQuiet = s.sinceQuiet := rfl
@[simp] theorem State.setPort_tags (s : State) (n : Nat) (x : Port) : (s.setPort n x).tags = s.tags := rfl
@[simp] theorem State.setPort_quiet (s : State) (n : Nat) (x : Port) : (s.setPort n x).quiet = s.quiet := rfl
@[simp] theorem State.setPort_v (s : State) (n : Nat) (x : Port) : (s.setPort n x).v = s.v := rfl
@[simp] theorem State.setPort_skip (s : State) (n : Nat) (x : Port) : (s.setPort n x).skip = s.skip := rfl
@[simp] theorem State.setPort_ran (s : State) (n : Nat) (x : Port) : (s.setPort n x).ran = s.ran := rfl
@[simp] theorem State.setPort_job (s : State) (n : Nat) (x : Port) : (s.setPort n x).job = s.job := rfl
@[simp] theorem State.setPort_faulted (s : State) (n : Nat) (x : Port) : (s.setPort n x).faulted = s.faulted := rfl
@[simp] theorem State.setPort_dirty (s : State) (n : Nat) (x : Port) : (s.setPort n x).dirty = s.dirty := rfl
@[simp] theorem State.setPort_uniqueBad (s : State) (n : Nat) (x : Port) : (s.setPort n x).uniqueBad = s.uniqueBad := rfl
@[simp] theorem State.setPort_drain (s : State) (n : Nat) (x : Port) : (s.setPort n x).drain = s.drain := rfl
@[simp] theorem State.setPort_replies (s : State) (n : Nat) (x : Port) : (s.setPort n x).replies = s.replies := rfl
@[simp] theorem State.setPort_sentCopy (s : State) (n : Nat) (x : Port) : (s.setPort n x).sentCopy = s.sentCopy := rfl
@[simp] theorem State.setPort_deferred (s : State) (n : Nat) (x : Port) : (s.setPort n x).deferred = s.deferred := rfl
@[simp] theorem State.setPort_due (s : State) (n : Nat) (x : Port) : (s.setPort n x).due = s.due := rfl
@[simp] theorem State.setPort_scheduled (s : State) (n : Nat) (x : Port) : (s.setPort n x).scheduled = s.scheduled := rfl
@[simp] theorem State.setPort_lastDrain (s : State) (n : Nat) (x : Port) : (s.setPort n x).lastDrain = s.lastDrain := rfl
@[simp] theorem State.setPort_redrain (s : State) (n : Nat) (x : Port) : (s.setPort n x).redrain = s.redrain := rfl
@[simp] theorem State.setPort_drainTimes (s : State) (n : Nat) (x : Port) : (s.setPort n x).drainTimes = s.drainTimes := rfl
@[simp] theorem State.setPort_gateTimes (s : State) (n : Nat) (x : Port) : (s.setPort n x).gateTimes = s.gateTimes := rfl
@[simp] theorem State.setPort_lastGateFc (s : State) (n : Nat) (x : Port) : (s.setPort n x).lastGateFc = s.lastGateFc := rfl
@[simp] theorem State.setPort_history (s : State) (n : Nat) (x : Port) : (s.setPort n x).history = s.history := rfl
@[simp] theorem State.setPort_historySecs (s : State) (n : Nat) (x : Port) : (s.setPort n x).historySecs = s.historySecs := rfl
@[simp] theorem State.setPort_pairs (s : State) (n : Nat) (x : Port) : (s.setPort n x).pairs = s.pairs := rfl
@[simp] theorem State.setPort_hosted (s : State) (n : Nat) (x : Port) : (s.setPort n x).hosted = s.hosted := rfl
@[simp] theorem State.setPort_hostedReply (s : State) (n : Nat) (x : Port) : (s.setPort n x).hostedReply = s.hostedReply := rfl
@[simp] theorem State.setPort_partnerTags (s : State) (n : Nat) (x : Port) : (s.setPort n x).partnerTags = s.partnerTags := rfl
@[simp] theorem State.setPort_partnerOut (s : State) (n : Nat) (x : Port) : (s.setPort n x).partnerOut = s.partnerOut := rfl
@[simp] theorem State.setPort_txns (s : State) (n : Nat) (x : Port) : (s.setPort n x).txns = s.txns := rfl
@[simp] theorem State.setPort_loading (s : State) (n : Nat) (x : Port) : (s.setPort n x).loading = s.loading := rfl
@[simp] theorem State.setPort_laddering (s : State) (n : Nat) (x : Port) : (s.setPort n x).laddering = s.laddering := rfl
@[simp] theorem State.setPort_pairing (s : State) (n : Nat) (x : Port) : (s.setPort n x).pairing = s.pairing := rfl
@[simp] theorem State.setPort_accepted (s : State) (n : Nat) (x : Port) : (s.setPort n x).accepted = s.accepted := rfl
@[simp] theorem State.setPort_fetchTurn (s : State) (n : Nat) (x : Port) : (s.setPort n x).fetchTurn = s.fetchTurn := rfl
@[simp] theorem State.setPort_halting (s : State) (n : Nat) (x : Port) : (s.setPort n x).halting = s.halting := rfl
@[simp] theorem State.setPort_orphans (s : State) (n : Nat) (x : Port) : (s.setPort n x).orphans = s.orphans := rfl
@[simp] theorem State.setPort_oobBusy (s : State) (n : Nat) (x : Port) : (s.setPort n x).oobBusy = s.oobBusy := rfl
@[simp] theorem State.setPort_oobOut (s : State) (n : Nat) (x : Port) : (s.setPort n x).oobOut = s.oobOut := rfl
@[simp] theorem State.setPort_phase (s : State) (n : Nat) (x : Port) : (s.setPort n x).phase = s.phase := rfl
@[simp] theorem State.setPort_hostMem (s : State) (n : Nat) (x : Port) : (s.setPort n x).hostMem = s.hostMem := rfl
@[simp] theorem State.setPort_msix (s : State) (n : Nat) (x : Port) : (s.setPort n x).msix = s.msix := rfl
@[simp] theorem State.setPort_msixMask (s : State) (n : Nat) (x : Port) : (s.setPort n x).msixMask = s.msixMask := rfl
@[simp] theorem State.setPort_msixTable (s : State) (n : Nat) (x : Port) : (s.setPort n x).msixTable = s.msixTable := rfl
@[simp] theorem State.setPort_msixPending (s : State) (n : Nat) (x : Port) : (s.setPort n x).msixPending = s.msixPending := rfl
@[simp] theorem State.setPort_rsp (s : State) (n : Nat) (x : Port) : (s.setPort n x).rsp = s.rsp := rfl
@[simp] theorem State.setPort_stalledQ (s : State) (n : Nat) (x : Port) : (s.setPort n x).stalledQ = s.stalledQ := rfl
@[simp] theorem State.setPort_snoop (s : State) (n : Nat) (x : Port) : (s.setPort n x).snoop = s.snoop := rfl
@[simp] theorem State.setPort_snoopWait (s : State) (n : Nat) (x : Port) : (s.setPort n x).snoopWait = s.snoopWait := rfl
@[simp] theorem State.setPort_cqWait (s : State) (n : Nat) (x : Port) : (s.setPort n x).cqWait = s.cqWait := rfl
@[simp] theorem State.setPort_snoopAcks (s : State) (n : Nat) (x : Port) : (s.setPort n x).snoopAcks = s.snoopAcks := rfl
@[simp] theorem State.setPort_hostWait (s : State) (n : Nat) (x : Port) : (s.setPort n x).hostWait = s.hostWait := rfl
@[simp] theorem State.setPort_perst (s : State) (n : Nat) (x : Port) : (s.setPort n x).perst = s.perst := rfl
@[simp] theorem State.setPort_log (s : State) (n : Nat) (x : Port) : (s.setPort n x).log = s.log := rfl
@[simp] theorem State.setPort_nextSeq (s : State) (n : Nat) (x : Port) : (s.setPort n x).nextSeq = s.nextSeq := rfl
@[simp] theorem State.setPort_sinceRead (s : State) (n : Nat) (x : Port) : (s.setPort n x).sinceRead = s.sinceRead := rfl
@[simp] theorem State.setPort_activities (s : State) (n : Nat) (x : Port) : (s.setPort n x).activities = s.activities := rfl
@[simp] theorem State.setPort_fuses (s : State) (n : Nat) (x : Port) : (s.setPort n x).fuses = s.fuses := rfl
@[simp] theorem State.setPort_fuseOps (s : State) (n : Nat) (x : Port) : (s.setPort n x).fuseOps = s.fuseOps := rfl
@[simp] theorem State.setPort_shadowBank (s : State) (n : Nat) (x : Port) : (s.setPort n x).shadowBank = s.shadowBank := rfl
@[simp] theorem State.setPort_flash (s : State) (n : Nat) (x : Port) : (s.setPort n x).flash = s.flash := rfl
@[simp] theorem State.setPort_firmware (s : State) (n : Nat) (x : Port) : (s.setPort n x).firmware = s.firmware := rfl
@[simp] theorem State.setPort_patchChain (s : State) (n : Nat) (x : Port) : (s.setPort n x).patchChain = s.patchChain := rfl
@[simp] theorem State.setPort_sessions (s : State) (n : Nat) (x : Port) : (s.setPort n x).sessions = s.sessions := rfl
@[simp] theorem State.setPort_measured (s : State) (n : Nat) (x : Port) : (s.setPort n x).measured = s.measured := rfl
@[simp] theorem State.setPort_pldmRefused (s : State) (n : Nat) (x : Port) : (s.setPort n x).pldmRefused = s.pldmRefused := rfl
@[simp] theorem State.setPort_sensor (s : State) (n : Nat) (x : Port) : (s.setPort n x).sensor = s.sensor := rfl
@[simp] theorem State.setPort_power (s : State) (n : Nat) (x : Port) : (s.setPort n x).power = s.power := rfl
@[simp] theorem State.setPort_cool (s : State) (n : Nat) (x : Port) : (s.setPort n x).cool = s.cool := rfl
@[simp] theorem State.setPort_sense (s : State) (n : Nat) (x : Port) : (s.setPort n x).sense = s.sense := rfl
@[simp] theorem State.setPort_smbusDriving (s : State) (n : Nat) (x : Port) : (s.setPort n x).smbusDriving = s.smbusDriving := rfl
@[simp] theorem State.setPort_smbusAddr (s : State) (n : Nat) (x : Port) : (s.setPort n x).smbusAddr = s.smbusAddr := rfl
@[simp] theorem State.setPort_scanDriven (s : State) (n : Nat) (x : Port) : (s.setPort n x).scanDriven = s.scanDriven := rfl
@[simp] theorem State.setPort_lostStacks (s : State) (n : Nat) (x : Port) : (s.setPort n x).lostStacks = s.lostStacks := rfl
@[simp] theorem State.setPort_repairs (s : State) (n : Nat) (x : Port) : (s.setPort n x).repairs = s.repairs := rfl

/-! ### `setRegion` changes `regions` alone -/

@[simp] theorem State.setRegion_pending (s : State) (r : Nat) (x : Region) : (s.setRegion r x).pending = s.pending := rfl
@[simp] theorem State.setRegion_fc (s : State) (r : Nat) (x : Region) : (s.setRegion r x).fc = s.fc := rfl
@[simp] theorem State.setRegion_runFc (s : State) (r : Nat) (x : Region) : (s.setRegion r x).runFc = s.runFc := rfl
@[simp] theorem State.setRegion_free (s : State) (r : Nat) (x : Region) : (s.setRegion r x).free = s.free := rfl
@[simp] theorem State.setRegion_regs (s : State) (r : Nat) (x : Region) : (s.setRegion r x).regs = s.regs := rfl
@[simp] theorem State.setRegion_mem (s : State) (r : Nat) (x : Region) : (s.setRegion r x).mem = s.mem := rfl
@[simp] theorem State.setRegion_bad (s : State) (r : Nat) (x : Region) : (s.setRegion r x).bad = s.bad := rfl
@[simp] theorem State.setRegion_cores (s : State) (r : Nat) (x : Region) : (s.setRegion r x).cores = s.cores := rfl
@[simp] theorem State.setRegion_routers (s : State) (r : Nat) (x : Region) : (s.setRegion r x).routers = s.routers := rfl
@[simp] theorem State.setRegion_barriers (s : State) (r : Nat) (x : Region) : (s.setRegion r x).barriers = s.barriers := rfl
@[simp] theorem State.setRegion_arrivals (s : State) (r : Nat) (x : Region) : (s.setRegion r x).arrivals = s.arrivals := rfl
@[simp] theorem State.setRegion_stacked (s : State) (r : Nat) (x : Region) : (s.setRegion r x).stacked = s.stacked := rfl
@[simp] theorem State.setRegion_units (s : State) (r : Nat) (x : Region) : (s.setRegion r x).units = s.units := rfl
@[simp] theorem State.setRegion_ports (s : State) (r : Nat) (x : Region) : (s.setRegion r x).ports = s.ports := rfl
@[simp] theorem State.setRegion_image (s : State) (r : Nat) (x : Region) : (s.setRegion r x).image = s.image := rfl
@[simp] theorem State.setRegion_left (s : State) (r : Nat) (x : Region) : (s.setRegion r x).left = s.left := rfl
@[simp] theorem State.setRegion_carried (s : State) (r : Nat) (x : Region) : (s.setRegion r x).carried = s.carried := rfl
@[simp] theorem State.setRegion_loadedDefects (s : State) (r : Nat) (x : Region) : (s.setRegion r x).loadedDefects = s.loadedDefects := rfl
@[simp] theorem State.setRegion_tables (s : State) (r : Nat) (x : Region) : (s.setRegion r x).tables = s.tables := rfl
@[simp] theorem State.setRegion_counts (s : State) (r : Nat) (x : Region) : (s.setRegion r x).counts = s.counts := rfl
@[simp] theorem State.setRegion_nans (s : State) (r : Nat) (x : Region) : (s.setRegion r x).nans = s.nans := rfl
@[simp] theorem State.setRegion_nanStep (s : State) (r : Nat) (x : Region) : (s.setRegion r x).nanStep = s.nanStep := rfl
@[simp] theorem State.setRegion_runView (s : State) (r : Nat) (x : Region) : (s.setRegion r x).runView = s.runView := rfl
@[simp] theorem State.setRegion_stepView (s : State) (r : Nat) (x : Region) : (s.setRegion r x).stepView = s.stepView := rfl
@[simp] theorem State.setRegion_sinceQuiet (s : State) (r : Nat) (x : Region) : (s.setRegion r x).sinceQuiet = s.sinceQuiet := rfl
@[simp] theorem State.setRegion_tags (s : State) (r : Nat) (x : Region) : (s.setRegion r x).tags = s.tags := rfl
@[simp] theorem State.setRegion_quiet (s : State) (r : Nat) (x : Region) : (s.setRegion r x).quiet = s.quiet := rfl
@[simp] theorem State.setRegion_v (s : State) (r : Nat) (x : Region) : (s.setRegion r x).v = s.v := rfl
@[simp] theorem State.setRegion_skip (s : State) (r : Nat) (x : Region) : (s.setRegion r x).skip = s.skip := rfl
@[simp] theorem State.setRegion_ran (s : State) (r : Nat) (x : Region) : (s.setRegion r x).ran = s.ran := rfl
@[simp] theorem State.setRegion_job (s : State) (r : Nat) (x : Region) : (s.setRegion r x).job = s.job := rfl
@[simp] theorem State.setRegion_faulted (s : State) (r : Nat) (x : Region) : (s.setRegion r x).faulted = s.faulted := rfl
@[simp] theorem State.setRegion_dirty (s : State) (r : Nat) (x : Region) : (s.setRegion r x).dirty = s.dirty := rfl
@[simp] theorem State.setRegion_uniqueBad (s : State) (r : Nat) (x : Region) : (s.setRegion r x).uniqueBad = s.uniqueBad := rfl
@[simp] theorem State.setRegion_drain (s : State) (r : Nat) (x : Region) : (s.setRegion r x).drain = s.drain := rfl
@[simp] theorem State.setRegion_replies (s : State) (r : Nat) (x : Region) : (s.setRegion r x).replies = s.replies := rfl
@[simp] theorem State.setRegion_sentCopy (s : State) (r : Nat) (x : Region) : (s.setRegion r x).sentCopy = s.sentCopy := rfl
@[simp] theorem State.setRegion_deferred (s : State) (r : Nat) (x : Region) : (s.setRegion r x).deferred = s.deferred := rfl
@[simp] theorem State.setRegion_due (s : State) (r : Nat) (x : Region) : (s.setRegion r x).due = s.due := rfl
@[simp] theorem State.setRegion_scheduled (s : State) (r : Nat) (x : Region) : (s.setRegion r x).scheduled = s.scheduled := rfl
@[simp] theorem State.setRegion_lastDrain (s : State) (r : Nat) (x : Region) : (s.setRegion r x).lastDrain = s.lastDrain := rfl
@[simp] theorem State.setRegion_redrain (s : State) (r : Nat) (x : Region) : (s.setRegion r x).redrain = s.redrain := rfl
@[simp] theorem State.setRegion_drainTimes (s : State) (r : Nat) (x : Region) : (s.setRegion r x).drainTimes = s.drainTimes := rfl
@[simp] theorem State.setRegion_gateTimes (s : State) (r : Nat) (x : Region) : (s.setRegion r x).gateTimes = s.gateTimes := rfl
@[simp] theorem State.setRegion_lastGateFc (s : State) (r : Nat) (x : Region) : (s.setRegion r x).lastGateFc = s.lastGateFc := rfl
@[simp] theorem State.setRegion_history (s : State) (r : Nat) (x : Region) : (s.setRegion r x).history = s.history := rfl
@[simp] theorem State.setRegion_historySecs (s : State) (r : Nat) (x : Region) : (s.setRegion r x).historySecs = s.historySecs := rfl
@[simp] theorem State.setRegion_pairs (s : State) (r : Nat) (x : Region) : (s.setRegion r x).pairs = s.pairs := rfl
@[simp] theorem State.setRegion_hosted (s : State) (r : Nat) (x : Region) : (s.setRegion r x).hosted = s.hosted := rfl
@[simp] theorem State.setRegion_hostedReply (s : State) (r : Nat) (x : Region) : (s.setRegion r x).hostedReply = s.hostedReply := rfl
@[simp] theorem State.setRegion_partnerTags (s : State) (r : Nat) (x : Region) : (s.setRegion r x).partnerTags = s.partnerTags := rfl
@[simp] theorem State.setRegion_partnerOut (s : State) (r : Nat) (x : Region) : (s.setRegion r x).partnerOut = s.partnerOut := rfl
@[simp] theorem State.setRegion_txns (s : State) (r : Nat) (x : Region) : (s.setRegion r x).txns = s.txns := rfl
@[simp] theorem State.setRegion_loading (s : State) (r : Nat) (x : Region) : (s.setRegion r x).loading = s.loading := rfl
@[simp] theorem State.setRegion_laddering (s : State) (r : Nat) (x : Region) : (s.setRegion r x).laddering = s.laddering := rfl
@[simp] theorem State.setRegion_pairing (s : State) (r : Nat) (x : Region) : (s.setRegion r x).pairing = s.pairing := rfl
@[simp] theorem State.setRegion_accepted (s : State) (r : Nat) (x : Region) : (s.setRegion r x).accepted = s.accepted := rfl
@[simp] theorem State.setRegion_fetchTurn (s : State) (r : Nat) (x : Region) : (s.setRegion r x).fetchTurn = s.fetchTurn := rfl
@[simp] theorem State.setRegion_halting (s : State) (r : Nat) (x : Region) : (s.setRegion r x).halting = s.halting := rfl
@[simp] theorem State.setRegion_orphans (s : State) (r : Nat) (x : Region) : (s.setRegion r x).orphans = s.orphans := rfl
@[simp] theorem State.setRegion_oobBusy (s : State) (r : Nat) (x : Region) : (s.setRegion r x).oobBusy = s.oobBusy := rfl
@[simp] theorem State.setRegion_oobOut (s : State) (r : Nat) (x : Region) : (s.setRegion r x).oobOut = s.oobOut := rfl
@[simp] theorem State.setRegion_phase (s : State) (r : Nat) (x : Region) : (s.setRegion r x).phase = s.phase := rfl
@[simp] theorem State.setRegion_hostMem (s : State) (r : Nat) (x : Region) : (s.setRegion r x).hostMem = s.hostMem := rfl
@[simp] theorem State.setRegion_msix (s : State) (r : Nat) (x : Region) : (s.setRegion r x).msix = s.msix := rfl
@[simp] theorem State.setRegion_msixMask (s : State) (r : Nat) (x : Region) : (s.setRegion r x).msixMask = s.msixMask := rfl
@[simp] theorem State.setRegion_msixTable (s : State) (r : Nat) (x : Region) : (s.setRegion r x).msixTable = s.msixTable := rfl
@[simp] theorem State.setRegion_msixPending (s : State) (r : Nat) (x : Region) : (s.setRegion r x).msixPending = s.msixPending := rfl
@[simp] theorem State.setRegion_rsp (s : State) (r : Nat) (x : Region) : (s.setRegion r x).rsp = s.rsp := rfl
@[simp] theorem State.setRegion_stalledQ (s : State) (r : Nat) (x : Region) : (s.setRegion r x).stalledQ = s.stalledQ := rfl
@[simp] theorem State.setRegion_snoop (s : State) (r : Nat) (x : Region) : (s.setRegion r x).snoop = s.snoop := rfl
@[simp] theorem State.setRegion_snoopWait (s : State) (r : Nat) (x : Region) : (s.setRegion r x).snoopWait = s.snoopWait := rfl
@[simp] theorem State.setRegion_cqWait (s : State) (r : Nat) (x : Region) : (s.setRegion r x).cqWait = s.cqWait := rfl
@[simp] theorem State.setRegion_snoopAcks (s : State) (r : Nat) (x : Region) : (s.setRegion r x).snoopAcks = s.snoopAcks := rfl
@[simp] theorem State.setRegion_hostWait (s : State) (r : Nat) (x : Region) : (s.setRegion r x).hostWait = s.hostWait := rfl
@[simp] theorem State.setRegion_perst (s : State) (r : Nat) (x : Region) : (s.setRegion r x).perst = s.perst := rfl
@[simp] theorem State.setRegion_log (s : State) (r : Nat) (x : Region) : (s.setRegion r x).log = s.log := rfl
@[simp] theorem State.setRegion_nextSeq (s : State) (r : Nat) (x : Region) : (s.setRegion r x).nextSeq = s.nextSeq := rfl
@[simp] theorem State.setRegion_sinceRead (s : State) (r : Nat) (x : Region) : (s.setRegion r x).sinceRead = s.sinceRead := rfl
@[simp] theorem State.setRegion_activities (s : State) (r : Nat) (x : Region) : (s.setRegion r x).activities = s.activities := rfl
@[simp] theorem State.setRegion_fuses (s : State) (r : Nat) (x : Region) : (s.setRegion r x).fuses = s.fuses := rfl
@[simp] theorem State.setRegion_fuseOps (s : State) (r : Nat) (x : Region) : (s.setRegion r x).fuseOps = s.fuseOps := rfl
@[simp] theorem State.setRegion_shadowBank (s : State) (r : Nat) (x : Region) : (s.setRegion r x).shadowBank = s.shadowBank := rfl
@[simp] theorem State.setRegion_flash (s : State) (r : Nat) (x : Region) : (s.setRegion r x).flash = s.flash := rfl
@[simp] theorem State.setRegion_firmware (s : State) (r : Nat) (x : Region) : (s.setRegion r x).firmware = s.firmware := rfl
@[simp] theorem State.setRegion_patchChain (s : State) (r : Nat) (x : Region) : (s.setRegion r x).patchChain = s.patchChain := rfl
@[simp] theorem State.setRegion_sessions (s : State) (r : Nat) (x : Region) : (s.setRegion r x).sessions = s.sessions := rfl
@[simp] theorem State.setRegion_measured (s : State) (r : Nat) (x : Region) : (s.setRegion r x).measured = s.measured := rfl
@[simp] theorem State.setRegion_pldmRefused (s : State) (r : Nat) (x : Region) : (s.setRegion r x).pldmRefused = s.pldmRefused := rfl
@[simp] theorem State.setRegion_sensor (s : State) (r : Nat) (x : Region) : (s.setRegion r x).sensor = s.sensor := rfl
@[simp] theorem State.setRegion_power (s : State) (r : Nat) (x : Region) : (s.setRegion r x).power = s.power := rfl
@[simp] theorem State.setRegion_cool (s : State) (r : Nat) (x : Region) : (s.setRegion r x).cool = s.cool := rfl
@[simp] theorem State.setRegion_sense (s : State) (r : Nat) (x : Region) : (s.setRegion r x).sense = s.sense := rfl
@[simp] theorem State.setRegion_smbusDriving (s : State) (r : Nat) (x : Region) : (s.setRegion r x).smbusDriving = s.smbusDriving := rfl
@[simp] theorem State.setRegion_smbusAddr (s : State) (r : Nat) (x : Region) : (s.setRegion r x).smbusAddr = s.smbusAddr := rfl
@[simp] theorem State.setRegion_scanDriven (s : State) (r : Nat) (x : Region) : (s.setRegion r x).scanDriven = s.scanDriven := rfl
@[simp] theorem State.setRegion_lostStacks (s : State) (r : Nat) (x : Region) : (s.setRegion r x).lostStacks = s.lostStacks := rfl
@[simp] theorem State.setRegion_repairs (s : State) (r : Nat) (x : Region) : (s.setRegion r x).repairs = s.repairs := rfl

/-! ### `setMem` changes `mem` alone -/

@[simp] theorem State.setMem_pending (s : State) (m : List Host.Cell) : (s.setMem m).pending = s.pending := rfl
@[simp] theorem State.setMem_fc (s : State) (m : List Host.Cell) : (s.setMem m).fc = s.fc := rfl
@[simp] theorem State.setMem_runFc (s : State) (m : List Host.Cell) : (s.setMem m).runFc = s.runFc := rfl
@[simp] theorem State.setMem_free (s : State) (m : List Host.Cell) : (s.setMem m).free = s.free := rfl
@[simp] theorem State.setMem_regs (s : State) (m : List Host.Cell) : (s.setMem m).regs = s.regs := rfl
@[simp] theorem State.setMem_bad (s : State) (m : List Host.Cell) : (s.setMem m).bad = s.bad := rfl
@[simp] theorem State.setMem_cores (s : State) (m : List Host.Cell) : (s.setMem m).cores = s.cores := rfl
@[simp] theorem State.setMem_routers (s : State) (m : List Host.Cell) : (s.setMem m).routers = s.routers := rfl
@[simp] theorem State.setMem_barriers (s : State) (m : List Host.Cell) : (s.setMem m).barriers = s.barriers := rfl
@[simp] theorem State.setMem_arrivals (s : State) (m : List Host.Cell) : (s.setMem m).arrivals = s.arrivals := rfl
@[simp] theorem State.setMem_stacked (s : State) (m : List Host.Cell) : (s.setMem m).stacked = s.stacked := rfl
@[simp] theorem State.setMem_units (s : State) (m : List Host.Cell) : (s.setMem m).units = s.units := rfl
@[simp] theorem State.setMem_ports (s : State) (m : List Host.Cell) : (s.setMem m).ports = s.ports := rfl
@[simp] theorem State.setMem_regions (s : State) (m : List Host.Cell) : (s.setMem m).regions = s.regions := rfl
@[simp] theorem State.setMem_image (s : State) (m : List Host.Cell) : (s.setMem m).image = s.image := rfl
@[simp] theorem State.setMem_left (s : State) (m : List Host.Cell) : (s.setMem m).left = s.left := rfl
@[simp] theorem State.setMem_carried (s : State) (m : List Host.Cell) : (s.setMem m).carried = s.carried := rfl
@[simp] theorem State.setMem_loadedDefects (s : State) (m : List Host.Cell) : (s.setMem m).loadedDefects = s.loadedDefects := rfl
@[simp] theorem State.setMem_tables (s : State) (m : List Host.Cell) : (s.setMem m).tables = s.tables := rfl
@[simp] theorem State.setMem_counts (s : State) (m : List Host.Cell) : (s.setMem m).counts = s.counts := rfl
@[simp] theorem State.setMem_nans (s : State) (m : List Host.Cell) : (s.setMem m).nans = s.nans := rfl
@[simp] theorem State.setMem_nanStep (s : State) (m : List Host.Cell) : (s.setMem m).nanStep = s.nanStep := rfl
@[simp] theorem State.setMem_runView (s : State) (m : List Host.Cell) : (s.setMem m).runView = s.runView := rfl
@[simp] theorem State.setMem_stepView (s : State) (m : List Host.Cell) : (s.setMem m).stepView = s.stepView := rfl
@[simp] theorem State.setMem_sinceQuiet (s : State) (m : List Host.Cell) : (s.setMem m).sinceQuiet = s.sinceQuiet := rfl
@[simp] theorem State.setMem_tags (s : State) (m : List Host.Cell) : (s.setMem m).tags = s.tags := rfl
@[simp] theorem State.setMem_quiet (s : State) (m : List Host.Cell) : (s.setMem m).quiet = s.quiet := rfl
@[simp] theorem State.setMem_v (s : State) (m : List Host.Cell) : (s.setMem m).v = s.v := rfl
@[simp] theorem State.setMem_skip (s : State) (m : List Host.Cell) : (s.setMem m).skip = s.skip := rfl
@[simp] theorem State.setMem_ran (s : State) (m : List Host.Cell) : (s.setMem m).ran = s.ran := rfl
@[simp] theorem State.setMem_job (s : State) (m : List Host.Cell) : (s.setMem m).job = s.job := rfl
@[simp] theorem State.setMem_faulted (s : State) (m : List Host.Cell) : (s.setMem m).faulted = s.faulted := rfl
@[simp] theorem State.setMem_dirty (s : State) (m : List Host.Cell) : (s.setMem m).dirty = s.dirty := rfl
@[simp] theorem State.setMem_uniqueBad (s : State) (m : List Host.Cell) : (s.setMem m).uniqueBad = s.uniqueBad := rfl
@[simp] theorem State.setMem_drain (s : State) (m : List Host.Cell) : (s.setMem m).drain = s.drain := rfl
@[simp] theorem State.setMem_replies (s : State) (m : List Host.Cell) : (s.setMem m).replies = s.replies := rfl
@[simp] theorem State.setMem_sentCopy (s : State) (m : List Host.Cell) : (s.setMem m).sentCopy = s.sentCopy := rfl
@[simp] theorem State.setMem_deferred (s : State) (m : List Host.Cell) : (s.setMem m).deferred = s.deferred := rfl
@[simp] theorem State.setMem_due (s : State) (m : List Host.Cell) : (s.setMem m).due = s.due := rfl
@[simp] theorem State.setMem_scheduled (s : State) (m : List Host.Cell) : (s.setMem m).scheduled = s.scheduled := rfl
@[simp] theorem State.setMem_lastDrain (s : State) (m : List Host.Cell) : (s.setMem m).lastDrain = s.lastDrain := rfl
@[simp] theorem State.setMem_redrain (s : State) (m : List Host.Cell) : (s.setMem m).redrain = s.redrain := rfl
@[simp] theorem State.setMem_drainTimes (s : State) (m : List Host.Cell) : (s.setMem m).drainTimes = s.drainTimes := rfl
@[simp] theorem State.setMem_gateTimes (s : State) (m : List Host.Cell) : (s.setMem m).gateTimes = s.gateTimes := rfl
@[simp] theorem State.setMem_lastGateFc (s : State) (m : List Host.Cell) : (s.setMem m).lastGateFc = s.lastGateFc := rfl
@[simp] theorem State.setMem_history (s : State) (m : List Host.Cell) : (s.setMem m).history = s.history := rfl
@[simp] theorem State.setMem_historySecs (s : State) (m : List Host.Cell) : (s.setMem m).historySecs = s.historySecs := rfl
@[simp] theorem State.setMem_pairs (s : State) (m : List Host.Cell) : (s.setMem m).pairs = s.pairs := rfl
@[simp] theorem State.setMem_hosted (s : State) (m : List Host.Cell) : (s.setMem m).hosted = s.hosted := rfl
@[simp] theorem State.setMem_hostedReply (s : State) (m : List Host.Cell) : (s.setMem m).hostedReply = s.hostedReply := rfl
@[simp] theorem State.setMem_partnerTags (s : State) (m : List Host.Cell) : (s.setMem m).partnerTags = s.partnerTags := rfl
@[simp] theorem State.setMem_partnerOut (s : State) (m : List Host.Cell) : (s.setMem m).partnerOut = s.partnerOut := rfl
@[simp] theorem State.setMem_txns (s : State) (m : List Host.Cell) : (s.setMem m).txns = s.txns := rfl
@[simp] theorem State.setMem_loading (s : State) (m : List Host.Cell) : (s.setMem m).loading = s.loading := rfl
@[simp] theorem State.setMem_laddering (s : State) (m : List Host.Cell) : (s.setMem m).laddering = s.laddering := rfl
@[simp] theorem State.setMem_pairing (s : State) (m : List Host.Cell) : (s.setMem m).pairing = s.pairing := rfl
@[simp] theorem State.setMem_accepted (s : State) (m : List Host.Cell) : (s.setMem m).accepted = s.accepted := rfl
@[simp] theorem State.setMem_fetchTurn (s : State) (m : List Host.Cell) : (s.setMem m).fetchTurn = s.fetchTurn := rfl
@[simp] theorem State.setMem_halting (s : State) (m : List Host.Cell) : (s.setMem m).halting = s.halting := rfl
@[simp] theorem State.setMem_orphans (s : State) (m : List Host.Cell) : (s.setMem m).orphans = s.orphans := rfl
@[simp] theorem State.setMem_oobBusy (s : State) (m : List Host.Cell) : (s.setMem m).oobBusy = s.oobBusy := rfl
@[simp] theorem State.setMem_oobOut (s : State) (m : List Host.Cell) : (s.setMem m).oobOut = s.oobOut := rfl
@[simp] theorem State.setMem_phase (s : State) (m : List Host.Cell) : (s.setMem m).phase = s.phase := rfl
@[simp] theorem State.setMem_hostMem (s : State) (m : List Host.Cell) : (s.setMem m).hostMem = s.hostMem := rfl
@[simp] theorem State.setMem_msix (s : State) (m : List Host.Cell) : (s.setMem m).msix = s.msix := rfl
@[simp] theorem State.setMem_msixMask (s : State) (m : List Host.Cell) : (s.setMem m).msixMask = s.msixMask := rfl
@[simp] theorem State.setMem_msixTable (s : State) (m : List Host.Cell) : (s.setMem m).msixTable = s.msixTable := rfl
@[simp] theorem State.setMem_msixPending (s : State) (m : List Host.Cell) : (s.setMem m).msixPending = s.msixPending := rfl
@[simp] theorem State.setMem_rsp (s : State) (m : List Host.Cell) : (s.setMem m).rsp = s.rsp := rfl
@[simp] theorem State.setMem_stalledQ (s : State) (m : List Host.Cell) : (s.setMem m).stalledQ = s.stalledQ := rfl
@[simp] theorem State.setMem_snoop (s : State) (m : List Host.Cell) : (s.setMem m).snoop = s.snoop := rfl
@[simp] theorem State.setMem_snoopWait (s : State) (m : List Host.Cell) : (s.setMem m).snoopWait = s.snoopWait := rfl
@[simp] theorem State.setMem_cqWait (s : State) (m : List Host.Cell) : (s.setMem m).cqWait = s.cqWait := rfl
@[simp] theorem State.setMem_snoopAcks (s : State) (m : List Host.Cell) : (s.setMem m).snoopAcks = s.snoopAcks := rfl
@[simp] theorem State.setMem_hostWait (s : State) (m : List Host.Cell) : (s.setMem m).hostWait = s.hostWait := rfl
@[simp] theorem State.setMem_perst (s : State) (m : List Host.Cell) : (s.setMem m).perst = s.perst := rfl
@[simp] theorem State.setMem_log (s : State) (m : List Host.Cell) : (s.setMem m).log = s.log := rfl
@[simp] theorem State.setMem_nextSeq (s : State) (m : List Host.Cell) : (s.setMem m).nextSeq = s.nextSeq := rfl
@[simp] theorem State.setMem_sinceRead (s : State) (m : List Host.Cell) : (s.setMem m).sinceRead = s.sinceRead := rfl
@[simp] theorem State.setMem_activities (s : State) (m : List Host.Cell) : (s.setMem m).activities = s.activities := rfl
@[simp] theorem State.setMem_fuses (s : State) (m : List Host.Cell) : (s.setMem m).fuses = s.fuses := rfl
@[simp] theorem State.setMem_fuseOps (s : State) (m : List Host.Cell) : (s.setMem m).fuseOps = s.fuseOps := rfl
@[simp] theorem State.setMem_shadowBank (s : State) (m : List Host.Cell) : (s.setMem m).shadowBank = s.shadowBank := rfl
@[simp] theorem State.setMem_flash (s : State) (m : List Host.Cell) : (s.setMem m).flash = s.flash := rfl
@[simp] theorem State.setMem_firmware (s : State) (m : List Host.Cell) : (s.setMem m).firmware = s.firmware := rfl
@[simp] theorem State.setMem_patchChain (s : State) (m : List Host.Cell) : (s.setMem m).patchChain = s.patchChain := rfl
@[simp] theorem State.setMem_sessions (s : State) (m : List Host.Cell) : (s.setMem m).sessions = s.sessions := rfl
@[simp] theorem State.setMem_measured (s : State) (m : List Host.Cell) : (s.setMem m).measured = s.measured := rfl
@[simp] theorem State.setMem_pldmRefused (s : State) (m : List Host.Cell) : (s.setMem m).pldmRefused = s.pldmRefused := rfl
@[simp] theorem State.setMem_sensor (s : State) (m : List Host.Cell) : (s.setMem m).sensor = s.sensor := rfl
@[simp] theorem State.setMem_power (s : State) (m : List Host.Cell) : (s.setMem m).power = s.power := rfl
@[simp] theorem State.setMem_cool (s : State) (m : List Host.Cell) : (s.setMem m).cool = s.cool := rfl
@[simp] theorem State.setMem_sense (s : State) (m : List Host.Cell) : (s.setMem m).sense = s.sense := rfl
@[simp] theorem State.setMem_smbusDriving (s : State) (m : List Host.Cell) : (s.setMem m).smbusDriving = s.smbusDriving := rfl
@[simp] theorem State.setMem_smbusAddr (s : State) (m : List Host.Cell) : (s.setMem m).smbusAddr = s.smbusAddr := rfl
@[simp] theorem State.setMem_scanDriven (s : State) (m : List Host.Cell) : (s.setMem m).scanDriven = s.scanDriven := rfl
@[simp] theorem State.setMem_lostStacks (s : State) (m : List Host.Cell) : (s.setMem m).lostStacks = s.lostStacks := rfl
@[simp] theorem State.setMem_repairs (s : State) (m : List Host.Cell) : (s.setMem m).repairs = s.repairs := rfl

/-! ### `useFree` changes `free` alone -/

@[simp] theorem State.useFree_pending (s : State) (n : Nat) : (s.useFree n).pending = s.pending := rfl
@[simp] theorem State.useFree_fc (s : State) (n : Nat) : (s.useFree n).fc = s.fc := rfl
@[simp] theorem State.useFree_runFc (s : State) (n : Nat) : (s.useFree n).runFc = s.runFc := rfl
@[simp] theorem State.useFree_regs (s : State) (n : Nat) : (s.useFree n).regs = s.regs := rfl
@[simp] theorem State.useFree_mem (s : State) (n : Nat) : (s.useFree n).mem = s.mem := rfl
@[simp] theorem State.useFree_bad (s : State) (n : Nat) : (s.useFree n).bad = s.bad := rfl
@[simp] theorem State.useFree_cores (s : State) (n : Nat) : (s.useFree n).cores = s.cores := rfl
@[simp] theorem State.useFree_routers (s : State) (n : Nat) : (s.useFree n).routers = s.routers := rfl
@[simp] theorem State.useFree_barriers (s : State) (n : Nat) : (s.useFree n).barriers = s.barriers := rfl
@[simp] theorem State.useFree_arrivals (s : State) (n : Nat) : (s.useFree n).arrivals = s.arrivals := rfl
@[simp] theorem State.useFree_stacked (s : State) (n : Nat) : (s.useFree n).stacked = s.stacked := rfl
@[simp] theorem State.useFree_units (s : State) (n : Nat) : (s.useFree n).units = s.units := rfl
@[simp] theorem State.useFree_ports (s : State) (n : Nat) : (s.useFree n).ports = s.ports := rfl
@[simp] theorem State.useFree_regions (s : State) (n : Nat) : (s.useFree n).regions = s.regions := rfl
@[simp] theorem State.useFree_image (s : State) (n : Nat) : (s.useFree n).image = s.image := rfl
@[simp] theorem State.useFree_left (s : State) (n : Nat) : (s.useFree n).left = s.left := rfl
@[simp] theorem State.useFree_carried (s : State) (n : Nat) : (s.useFree n).carried = s.carried := rfl
@[simp] theorem State.useFree_loadedDefects (s : State) (n : Nat) : (s.useFree n).loadedDefects = s.loadedDefects := rfl
@[simp] theorem State.useFree_tables (s : State) (n : Nat) : (s.useFree n).tables = s.tables := rfl
@[simp] theorem State.useFree_counts (s : State) (n : Nat) : (s.useFree n).counts = s.counts := rfl
@[simp] theorem State.useFree_nans (s : State) (n : Nat) : (s.useFree n).nans = s.nans := rfl
@[simp] theorem State.useFree_nanStep (s : State) (n : Nat) : (s.useFree n).nanStep = s.nanStep := rfl
@[simp] theorem State.useFree_runView (s : State) (n : Nat) : (s.useFree n).runView = s.runView := rfl
@[simp] theorem State.useFree_stepView (s : State) (n : Nat) : (s.useFree n).stepView = s.stepView := rfl
@[simp] theorem State.useFree_sinceQuiet (s : State) (n : Nat) : (s.useFree n).sinceQuiet = s.sinceQuiet := rfl
@[simp] theorem State.useFree_tags (s : State) (n : Nat) : (s.useFree n).tags = s.tags := rfl
@[simp] theorem State.useFree_quiet (s : State) (n : Nat) : (s.useFree n).quiet = s.quiet := rfl
@[simp] theorem State.useFree_v (s : State) (n : Nat) : (s.useFree n).v = s.v := rfl
@[simp] theorem State.useFree_skip (s : State) (n : Nat) : (s.useFree n).skip = s.skip := rfl
@[simp] theorem State.useFree_ran (s : State) (n : Nat) : (s.useFree n).ran = s.ran := rfl
@[simp] theorem State.useFree_job (s : State) (n : Nat) : (s.useFree n).job = s.job := rfl
@[simp] theorem State.useFree_faulted (s : State) (n : Nat) : (s.useFree n).faulted = s.faulted := rfl
@[simp] theorem State.useFree_dirty (s : State) (n : Nat) : (s.useFree n).dirty = s.dirty := rfl
@[simp] theorem State.useFree_uniqueBad (s : State) (n : Nat) : (s.useFree n).uniqueBad = s.uniqueBad := rfl
@[simp] theorem State.useFree_drain (s : State) (n : Nat) : (s.useFree n).drain = s.drain := rfl
@[simp] theorem State.useFree_replies (s : State) (n : Nat) : (s.useFree n).replies = s.replies := rfl
@[simp] theorem State.useFree_sentCopy (s : State) (n : Nat) : (s.useFree n).sentCopy = s.sentCopy := rfl
@[simp] theorem State.useFree_deferred (s : State) (n : Nat) : (s.useFree n).deferred = s.deferred := rfl
@[simp] theorem State.useFree_due (s : State) (n : Nat) : (s.useFree n).due = s.due := rfl
@[simp] theorem State.useFree_scheduled (s : State) (n : Nat) : (s.useFree n).scheduled = s.scheduled := rfl
@[simp] theorem State.useFree_lastDrain (s : State) (n : Nat) : (s.useFree n).lastDrain = s.lastDrain := rfl
@[simp] theorem State.useFree_redrain (s : State) (n : Nat) : (s.useFree n).redrain = s.redrain := rfl
@[simp] theorem State.useFree_drainTimes (s : State) (n : Nat) : (s.useFree n).drainTimes = s.drainTimes := rfl
@[simp] theorem State.useFree_gateTimes (s : State) (n : Nat) : (s.useFree n).gateTimes = s.gateTimes := rfl
@[simp] theorem State.useFree_lastGateFc (s : State) (n : Nat) : (s.useFree n).lastGateFc = s.lastGateFc := rfl
@[simp] theorem State.useFree_history (s : State) (n : Nat) : (s.useFree n).history = s.history := rfl
@[simp] theorem State.useFree_historySecs (s : State) (n : Nat) : (s.useFree n).historySecs = s.historySecs := rfl
@[simp] theorem State.useFree_pairs (s : State) (n : Nat) : (s.useFree n).pairs = s.pairs := rfl
@[simp] theorem State.useFree_hosted (s : State) (n : Nat) : (s.useFree n).hosted = s.hosted := rfl
@[simp] theorem State.useFree_hostedReply (s : State) (n : Nat) : (s.useFree n).hostedReply = s.hostedReply := rfl
@[simp] theorem State.useFree_partnerTags (s : State) (n : Nat) : (s.useFree n).partnerTags = s.partnerTags := rfl
@[simp] theorem State.useFree_partnerOut (s : State) (n : Nat) : (s.useFree n).partnerOut = s.partnerOut := rfl
@[simp] theorem State.useFree_txns (s : State) (n : Nat) : (s.useFree n).txns = s.txns := rfl
@[simp] theorem State.useFree_loading (s : State) (n : Nat) : (s.useFree n).loading = s.loading := rfl
@[simp] theorem State.useFree_laddering (s : State) (n : Nat) : (s.useFree n).laddering = s.laddering := rfl
@[simp] theorem State.useFree_pairing (s : State) (n : Nat) : (s.useFree n).pairing = s.pairing := rfl
@[simp] theorem State.useFree_accepted (s : State) (n : Nat) : (s.useFree n).accepted = s.accepted := rfl
@[simp] theorem State.useFree_fetchTurn (s : State) (n : Nat) : (s.useFree n).fetchTurn = s.fetchTurn := rfl
@[simp] theorem State.useFree_halting (s : State) (n : Nat) : (s.useFree n).halting = s.halting := rfl
@[simp] theorem State.useFree_orphans (s : State) (n : Nat) : (s.useFree n).orphans = s.orphans := rfl
@[simp] theorem State.useFree_oobBusy (s : State) (n : Nat) : (s.useFree n).oobBusy = s.oobBusy := rfl
@[simp] theorem State.useFree_oobOut (s : State) (n : Nat) : (s.useFree n).oobOut = s.oobOut := rfl
@[simp] theorem State.useFree_phase (s : State) (n : Nat) : (s.useFree n).phase = s.phase := rfl
@[simp] theorem State.useFree_hostMem (s : State) (n : Nat) : (s.useFree n).hostMem = s.hostMem := rfl
@[simp] theorem State.useFree_msix (s : State) (n : Nat) : (s.useFree n).msix = s.msix := rfl
@[simp] theorem State.useFree_msixMask (s : State) (n : Nat) : (s.useFree n).msixMask = s.msixMask := rfl
@[simp] theorem State.useFree_msixTable (s : State) (n : Nat) : (s.useFree n).msixTable = s.msixTable := rfl
@[simp] theorem State.useFree_msixPending (s : State) (n : Nat) : (s.useFree n).msixPending = s.msixPending := rfl
@[simp] theorem State.useFree_rsp (s : State) (n : Nat) : (s.useFree n).rsp = s.rsp := rfl
@[simp] theorem State.useFree_stalledQ (s : State) (n : Nat) : (s.useFree n).stalledQ = s.stalledQ := rfl
@[simp] theorem State.useFree_snoop (s : State) (n : Nat) : (s.useFree n).snoop = s.snoop := rfl
@[simp] theorem State.useFree_snoopWait (s : State) (n : Nat) : (s.useFree n).snoopWait = s.snoopWait := rfl
@[simp] theorem State.useFree_cqWait (s : State) (n : Nat) : (s.useFree n).cqWait = s.cqWait := rfl
@[simp] theorem State.useFree_snoopAcks (s : State) (n : Nat) : (s.useFree n).snoopAcks = s.snoopAcks := rfl
@[simp] theorem State.useFree_hostWait (s : State) (n : Nat) : (s.useFree n).hostWait = s.hostWait := rfl
@[simp] theorem State.useFree_perst (s : State) (n : Nat) : (s.useFree n).perst = s.perst := rfl
@[simp] theorem State.useFree_log (s : State) (n : Nat) : (s.useFree n).log = s.log := rfl
@[simp] theorem State.useFree_nextSeq (s : State) (n : Nat) : (s.useFree n).nextSeq = s.nextSeq := rfl
@[simp] theorem State.useFree_sinceRead (s : State) (n : Nat) : (s.useFree n).sinceRead = s.sinceRead := rfl
@[simp] theorem State.useFree_activities (s : State) (n : Nat) : (s.useFree n).activities = s.activities := rfl
@[simp] theorem State.useFree_fuses (s : State) (n : Nat) : (s.useFree n).fuses = s.fuses := rfl
@[simp] theorem State.useFree_fuseOps (s : State) (n : Nat) : (s.useFree n).fuseOps = s.fuseOps := rfl
@[simp] theorem State.useFree_shadowBank (s : State) (n : Nat) : (s.useFree n).shadowBank = s.shadowBank := rfl
@[simp] theorem State.useFree_flash (s : State) (n : Nat) : (s.useFree n).flash = s.flash := rfl
@[simp] theorem State.useFree_firmware (s : State) (n : Nat) : (s.useFree n).firmware = s.firmware := rfl
@[simp] theorem State.useFree_patchChain (s : State) (n : Nat) : (s.useFree n).patchChain = s.patchChain := rfl
@[simp] theorem State.useFree_sessions (s : State) (n : Nat) : (s.useFree n).sessions = s.sessions := rfl
@[simp] theorem State.useFree_measured (s : State) (n : Nat) : (s.useFree n).measured = s.measured := rfl
@[simp] theorem State.useFree_pldmRefused (s : State) (n : Nat) : (s.useFree n).pldmRefused = s.pldmRefused := rfl
@[simp] theorem State.useFree_sensor (s : State) (n : Nat) : (s.useFree n).sensor = s.sensor := rfl
@[simp] theorem State.useFree_power (s : State) (n : Nat) : (s.useFree n).power = s.power := rfl
@[simp] theorem State.useFree_cool (s : State) (n : Nat) : (s.useFree n).cool = s.cool := rfl
@[simp] theorem State.useFree_sense (s : State) (n : Nat) : (s.useFree n).sense = s.sense := rfl
@[simp] theorem State.useFree_smbusDriving (s : State) (n : Nat) : (s.useFree n).smbusDriving = s.smbusDriving := rfl
@[simp] theorem State.useFree_smbusAddr (s : State) (n : Nat) : (s.useFree n).smbusAddr = s.smbusAddr := rfl
@[simp] theorem State.useFree_scanDriven (s : State) (n : Nat) : (s.useFree n).scanDriven = s.scanDriven := rfl
@[simp] theorem State.useFree_lostStacks (s : State) (n : Nat) : (s.useFree n).lostStacks = s.lostStacks := rfl
@[simp] theorem State.useFree_repairs (s : State) (n : Nat) : (s.useFree n).repairs = s.repairs := rfl

@[simp] theorem State.core_putWord (s : State) (f : Field) (v : Word) (i : Nat) (j : Nat) : (s.putWord f v i).core j = s.core j := rfl
@[simp] theorem State.router_putWord (s : State) (f : Field) (v : Word) (i : Nat) (j : Nat) : (s.putWord f v i).router j = s.router j := rfl
@[simp] theorem State.barrier_putWord (s : State) (f : Field) (v : Word) (i : Nat) (j : Nat) : (s.putWord f v i).barrier j = s.barrier j := rfl
@[simp] theorem State.unit_putWord (s : State) (f : Field) (v : Word) (i : Nat) (j : Nat) : (s.putWord f v i).unit j = s.unit j := rfl
@[simp] theorem State.stack_putWord (s : State) (f : Field) (v : Word) (i : Nat) (j : Nat) : (s.putWord f v i).stack j = s.stack j := rfl
@[simp] theorem State.port_putWord (s : State) (f : Field) (v : Word) (i : Nat) (j : Nat) : (s.putWord f v i).port j = s.port j := rfl
@[simp] theorem State.region_putWord (s : State) (f : Field) (v : Word) (i : Nat) (j : Nat) : (s.putWord f v i).region j = s.region j := rfl
@[simp] theorem State.word_setCore (s : State) (p : Nat) (c : CoreState) (f : Field) (j : Nat) : (s.setCore p c).word f j = s.word f j := rfl
@[simp] theorem State.get_setCore (s : State) (p : Nat) (c : CoreState) (f : Field) (j : Nat) : (s.setCore p c).get f j = s.get f j := rfl
@[simp] theorem State.on_setCore (s : State) (p : Nat) (c : CoreState) (f : Field) (j : Nat) : (s.setCore p c).on f j = s.on f j := rfl
@[simp] theorem State.core_setCore_self (s : State) (p : Nat) (c : CoreState) : (s.setCore p c).core p = c := by
  simp [State.core, State.setCore]
@[simp] theorem State.core_setCore_ne (s : State) (p : Nat) (c : CoreState) {j : Nat} (h : p ≠ j) : (s.setCore p c).core j = s.core j := by
  simp [State.core, State.setCore, mget_mset_ne _ _ _ h]
@[simp] theorem State.router_setCore (s : State) (p : Nat) (c : CoreState) (j : Nat) : (s.setCore p c).router j = s.router j := rfl
@[simp] theorem State.barrier_setCore (s : State) (p : Nat) (c : CoreState) (j : Nat) : (s.setCore p c).barrier j = s.barrier j := rfl
@[simp] theorem State.unit_setCore (s : State) (p : Nat) (c : CoreState) (j : Nat) : (s.setCore p c).unit j = s.unit j := rfl
@[simp] theorem State.stack_setCore (s : State) (p : Nat) (c : CoreState) (j : Nat) : (s.setCore p c).stack j = s.stack j := rfl
@[simp] theorem State.port_setCore (s : State) (p : Nat) (c : CoreState) (j : Nat) : (s.setCore p c).port j = s.port j := rfl
@[simp] theorem State.region_setCore (s : State) (p : Nat) (c : CoreState) (j : Nat) : (s.setCore p c).region j = s.region j := rfl
@[simp] theorem State.word_setRouter (s : State) (r : Nat) (x : Router) (f : Field) (j : Nat) : (s.setRouter r x).word f j = s.word f j := rfl
@[simp] theorem State.get_setRouter (s : State) (r : Nat) (x : Router) (f : Field) (j : Nat) : (s.setRouter r x).get f j = s.get f j := rfl
@[simp] theorem State.on_setRouter (s : State) (r : Nat) (x : Router) (f : Field) (j : Nat) : (s.setRouter r x).on f j = s.on f j := rfl
@[simp] theorem State.core_setRouter (s : State) (r : Nat) (x : Router) (j : Nat) : (s.setRouter r x).core j = s.core j := rfl
@[simp] theorem State.router_setRouter_self (s : State) (r : Nat) (x : Router) : (s.setRouter r x).router r = x := by
  simp [State.router, State.setRouter]
@[simp] theorem State.router_setRouter_ne (s : State) (r : Nat) (x : Router) {j : Nat} (h : r ≠ j) : (s.setRouter r x).router j = s.router j := by
  simp [State.router, State.setRouter, mget_mset_ne _ _ _ h]
@[simp] theorem State.barrier_setRouter (s : State) (r : Nat) (x : Router) (j : Nat) : (s.setRouter r x).barrier j = s.barrier j := rfl
@[simp] theorem State.unit_setRouter (s : State) (r : Nat) (x : Router) (j : Nat) : (s.setRouter r x).unit j = s.unit j := rfl
@[simp] theorem State.stack_setRouter (s : State) (r : Nat) (x : Router) (j : Nat) : (s.setRouter r x).stack j = s.stack j := rfl
@[simp] theorem State.port_setRouter (s : State) (r : Nat) (x : Router) (j : Nat) : (s.setRouter r x).port j = s.port j := rfl
@[simp] theorem State.region_setRouter (s : State) (r : Nat) (x : Router) (j : Nat) : (s.setRouter r x).region j = s.region j := rfl
@[simp] theorem State.word_setBarrier (s : State) (k : Nat) (b : BarrierState) (f : Field) (j : Nat) : (s.setBarrier k b).word f j = s.word f j := rfl
@[simp] theorem State.get_setBarrier (s : State) (k : Nat) (b : BarrierState) (f : Field) (j : Nat) : (s.setBarrier k b).get f j = s.get f j := rfl
@[simp] theorem State.on_setBarrier (s : State) (k : Nat) (b : BarrierState) (f : Field) (j : Nat) : (s.setBarrier k b).on f j = s.on f j := rfl
@[simp] theorem State.core_setBarrier (s : State) (k : Nat) (b : BarrierState) (j : Nat) : (s.setBarrier k b).core j = s.core j := rfl
@[simp] theorem State.router_setBarrier (s : State) (k : Nat) (b : BarrierState) (j : Nat) : (s.setBarrier k b).router j = s.router j := rfl
@[simp] theorem State.barrier_setBarrier_self (s : State) (k : Nat) (b : BarrierState) : (s.setBarrier k b).barrier k = b := by
  simp [State.barrier, State.setBarrier]
@[simp] theorem State.barrier_setBarrier_ne (s : State) (k : Nat) (b : BarrierState) {j : Nat} (h : k ≠ j) : (s.setBarrier k b).barrier j = s.barrier j := by
  simp [State.barrier, State.setBarrier, mget_mset_ne _ _ _ h]
@[simp] theorem State.unit_setBarrier (s : State) (k : Nat) (b : BarrierState) (j : Nat) : (s.setBarrier k b).unit j = s.unit j := rfl
@[simp] theorem State.stack_setBarrier (s : State) (k : Nat) (b : BarrierState) (j : Nat) : (s.setBarrier k b).stack j = s.stack j := rfl
@[simp] theorem State.port_setBarrier (s : State) (k : Nat) (b : BarrierState) (j : Nat) : (s.setBarrier k b).port j = s.port j := rfl
@[simp] theorem State.region_setBarrier (s : State) (k : Nat) (b : BarrierState) (j : Nat) : (s.setBarrier k b).region j = s.region j := rfl
@[simp] theorem State.word_setUnit (s : State) (u : Nat) (e : UnitErr) (f : Field) (j : Nat) : (s.setUnit u e).word f j = s.word f j := rfl
@[simp] theorem State.get_setUnit (s : State) (u : Nat) (e : UnitErr) (f : Field) (j : Nat) : (s.setUnit u e).get f j = s.get f j := rfl
@[simp] theorem State.on_setUnit (s : State) (u : Nat) (e : UnitErr) (f : Field) (j : Nat) : (s.setUnit u e).on f j = s.on f j := rfl
@[simp] theorem State.core_setUnit (s : State) (u : Nat) (e : UnitErr) (j : Nat) : (s.setUnit u e).core j = s.core j := rfl
@[simp] theorem State.router_setUnit (s : State) (u : Nat) (e : UnitErr) (j : Nat) : (s.setUnit u e).router j = s.router j := rfl
@[simp] theorem State.barrier_setUnit (s : State) (u : Nat) (e : UnitErr) (j : Nat) : (s.setUnit u e).barrier j = s.barrier j := rfl
@[simp] theorem State.unit_setUnit_self (s : State) (u : Nat) (e : UnitErr) : (s.setUnit u e).unit u = e := by
  simp [State.unit, State.setUnit]
@[simp] theorem State.unit_setUnit_ne (s : State) (u : Nat) (e : UnitErr) {j : Nat} (h : u ≠ j) : (s.setUnit u e).unit j = s.unit j := by
  simp [State.unit, State.setUnit, mget_mset_ne _ _ _ h]
@[simp] theorem State.stack_setUnit (s : State) (u : Nat) (e : UnitErr) (j : Nat) : (s.setUnit u e).stack j = s.stack j := rfl
@[simp] theorem State.port_setUnit (s : State) (u : Nat) (e : UnitErr) (j : Nat) : (s.setUnit u e).port j = s.port j := rfl
@[simp] theorem State.region_setUnit (s : State) (u : Nat) (e : UnitErr) (j : Nat) : (s.setUnit u e).region j = s.region j := rfl
@[simp] theorem State.word_setStack (s : State) (c : Nat) (x : Stacked) (f : Field) (j : Nat) : (s.setStack c x).word f j = s.word f j := rfl
@[simp] theorem State.get_setStack (s : State) (c : Nat) (x : Stacked) (f : Field) (j : Nat) : (s.setStack c x).get f j = s.get f j := rfl
@[simp] theorem State.on_setStack (s : State) (c : Nat) (x : Stacked) (f : Field) (j : Nat) : (s.setStack c x).on f j = s.on f j := rfl
@[simp] theorem State.core_setStack (s : State) (c : Nat) (x : Stacked) (j : Nat) : (s.setStack c x).core j = s.core j := rfl
@[simp] theorem State.router_setStack (s : State) (c : Nat) (x : Stacked) (j : Nat) : (s.setStack c x).router j = s.router j := rfl
@[simp] theorem State.barrier_setStack (s : State) (c : Nat) (x : Stacked) (j : Nat) : (s.setStack c x).barrier j = s.barrier j := rfl
@[simp] theorem State.unit_setStack (s : State) (c : Nat) (x : Stacked) (j : Nat) : (s.setStack c x).unit j = s.unit j := rfl
@[simp] theorem State.stack_setStack_self (s : State) (c : Nat) (x : Stacked) : (s.setStack c x).stack c = x := by
  simp [State.stack, State.setStack]
@[simp] theorem State.stack_setStack_ne (s : State) (c : Nat) (x : Stacked) {j : Nat} (h : c ≠ j) : (s.setStack c x).stack j = s.stack j := by
  simp [State.stack, State.setStack, mget_mset_ne _ _ _ h]
@[simp] theorem State.port_setStack (s : State) (c : Nat) (x : Stacked) (j : Nat) : (s.setStack c x).port j = s.port j := rfl
@[simp] theorem State.region_setStack (s : State) (c : Nat) (x : Stacked) (j : Nat) : (s.setStack c x).region j = s.region j := rfl
@[simp] theorem State.word_setPort (s : State) (n : Nat) (x : Port) (f : Field) (j : Nat) : (s.setPort n x).word f j = s.word f j := rfl
@[simp] theorem State.get_setPort (s : State) (n : Nat) (x : Port) (f : Field) (j : Nat) : (s.setPort n x).get f j = s.get f j := rfl
@[simp] theorem State.on_setPort (s : State) (n : Nat) (x : Port) (f : Field) (j : Nat) : (s.setPort n x).on f j = s.on f j := rfl
@[simp] theorem State.core_setPort (s : State) (n : Nat) (x : Port) (j : Nat) : (s.setPort n x).core j = s.core j := rfl
@[simp] theorem State.router_setPort (s : State) (n : Nat) (x : Port) (j : Nat) : (s.setPort n x).router j = s.router j := rfl
@[simp] theorem State.barrier_setPort (s : State) (n : Nat) (x : Port) (j : Nat) : (s.setPort n x).barrier j = s.barrier j := rfl
@[simp] theorem State.unit_setPort (s : State) (n : Nat) (x : Port) (j : Nat) : (s.setPort n x).unit j = s.unit j := rfl
@[simp] theorem State.stack_setPort (s : State) (n : Nat) (x : Port) (j : Nat) : (s.setPort n x).stack j = s.stack j := rfl
@[simp] theorem State.port_setPort_self (s : State) (n : Nat) (x : Port) : (s.setPort n x).port n = x := by
  simp [State.port, State.setPort]
@[simp] theorem State.port_setPort_ne (s : State) (n : Nat) (x : Port) {j : Nat} (h : n ≠ j) : (s.setPort n x).port j = s.port j := by
  simp [State.port, State.setPort, mget_mset_ne _ _ _ h]
@[simp] theorem State.region_setPort (s : State) (n : Nat) (x : Port) (j : Nat) : (s.setPort n x).region j = s.region j := rfl
@[simp] theorem State.word_setRegion (s : State) (r : Nat) (x : Region) (f : Field) (j : Nat) : (s.setRegion r x).word f j = s.word f j := rfl
@[simp] theorem State.get_setRegion (s : State) (r : Nat) (x : Region) (f : Field) (j : Nat) : (s.setRegion r x).get f j = s.get f j := rfl
@[simp] theorem State.on_setRegion (s : State) (r : Nat) (x : Region) (f : Field) (j : Nat) : (s.setRegion r x).on f j = s.on f j := rfl
@[simp] theorem State.core_setRegion (s : State) (r : Nat) (x : Region) (j : Nat) : (s.setRegion r x).core j = s.core j := rfl
@[simp] theorem State.router_setRegion (s : State) (r : Nat) (x : Region) (j : Nat) : (s.setRegion r x).router j = s.router j := rfl
@[simp] theorem State.barrier_setRegion (s : State) (r : Nat) (x : Region) (j : Nat) : (s.setRegion r x).barrier j = s.barrier j := rfl
@[simp] theorem State.unit_setRegion (s : State) (r : Nat) (x : Region) (j : Nat) : (s.setRegion r x).unit j = s.unit j := rfl
@[simp] theorem State.stack_setRegion (s : State) (r : Nat) (x : Region) (j : Nat) : (s.setRegion r x).stack j = s.stack j := rfl
@[simp] theorem State.port_setRegion (s : State) (r : Nat) (x : Region) (j : Nat) : (s.setRegion r x).port j = s.port j := rfl
@[simp] theorem State.region_setRegion_self (s : State) (r : Nat) (x : Region) : (s.setRegion r x).region r = x := by
  simp [State.region, State.setRegion]
@[simp] theorem State.region_setRegion_ne (s : State) (r : Nat) (x : Region) {j : Nat} (h : r ≠ j) : (s.setRegion r x).region j = s.region j := by
  simp [State.region, State.setRegion, mget_mset_ne _ _ _ h]
@[simp] theorem State.word_setMem (s : State) (m : List Host.Cell) (f : Field) (j : Nat) : (s.setMem m).word f j = s.word f j := rfl
@[simp] theorem State.get_setMem (s : State) (m : List Host.Cell) (f : Field) (j : Nat) : (s.setMem m).get f j = s.get f j := rfl
@[simp] theorem State.on_setMem (s : State) (m : List Host.Cell) (f : Field) (j : Nat) : (s.setMem m).on f j = s.on f j := rfl
@[simp] theorem State.setMem_mem (s : State) (m : List Host.Cell) : (s.setMem m).mem = m := rfl
@[simp] theorem State.core_setMem (s : State) (m : List Host.Cell) (j : Nat) : (s.setMem m).core j = s.core j := rfl
@[simp] theorem State.router_setMem (s : State) (m : List Host.Cell) (j : Nat) : (s.setMem m).router j = s.router j := rfl
@[simp] theorem State.barrier_setMem (s : State) (m : List Host.Cell) (j : Nat) : (s.setMem m).barrier j = s.barrier j := rfl
@[simp] theorem State.unit_setMem (s : State) (m : List Host.Cell) (j : Nat) : (s.setMem m).unit j = s.unit j := rfl
@[simp] theorem State.stack_setMem (s : State) (m : List Host.Cell) (j : Nat) : (s.setMem m).stack j = s.stack j := rfl
@[simp] theorem State.port_setMem (s : State) (m : List Host.Cell) (j : Nat) : (s.setMem m).port j = s.port j := rfl
@[simp] theorem State.region_setMem (s : State) (m : List Host.Cell) (j : Nat) : (s.setMem m).region j = s.region j := rfl
@[simp] theorem State.word_useFree (s : State) (n : Nat) (f : Field) (j : Nat) : (s.useFree n).word f j = s.word f j := rfl
@[simp] theorem State.get_useFree (s : State) (n : Nat) (f : Field) (j : Nat) : (s.useFree n).get f j = s.get f j := rfl
@[simp] theorem State.on_useFree (s : State) (n : Nat) (f : Field) (j : Nat) : (s.useFree n).on f j = s.on f j := rfl
@[simp] theorem State.useFree_free (s : State) (n : Nat) : (s.useFree n).free = s.free + n := rfl
@[simp] theorem State.core_useFree (s : State) (n : Nat) (j : Nat) : (s.useFree n).core j = s.core j := rfl
@[simp] theorem State.router_useFree (s : State) (n : Nat) (j : Nat) : (s.useFree n).router j = s.router j := rfl
@[simp] theorem State.barrier_useFree (s : State) (n : Nat) (j : Nat) : (s.useFree n).barrier j = s.barrier j := rfl
@[simp] theorem State.unit_useFree (s : State) (n : Nat) (j : Nat) : (s.useFree n).unit j = s.unit j := rfl
@[simp] theorem State.stack_useFree (s : State) (n : Nat) (j : Nat) : (s.useFree n).stack j = s.stack j := rfl
@[simp] theorem State.port_useFree (s : State) (n : Nat) (j : Nat) : (s.useFree n).port j = s.port j := rfl
@[simp] theorem State.region_useFree (s : State) (n : Nat) (j : Nat) : (s.useFree n).region j = s.region j := rfl

theorem orWords_self (xs : List Word) : orWords xs xs = xs := by induction xs <;> simp_all [orWords]
theorem orSlot_self (x : Option (BitVec 512)) : orSlot x x = x := by cases x <;> simp [orSlot]
/-- A bank of which both fuses of every bit agree reads as it is (R452). -/
theorem FusePair.read_same (b : FuseBank) : (⟨b, b⟩ : FusePair).read = b := by
  simp [FusePair.read, orWords_self, orSlot_self, maxBv]

end Sys2Proof.Machine
end

