-- ==== Sys2Proof/Laws/Near.lean ====
section
/-!
SUPPORT. Laws of near SRAM as a core's scalar and vector accesses see it: where no word is in error, a read answers the
bytes and changes nothing, and a store changes those bytes alone.
-/
namespace Sys2Proof.Machine

theorem PCore.no_lt (p : PCore) : p.no < 27200 := by
  have h1 := p.tile.isLt
  have h2 := p.cluster.isLt
  have h3 := p.core.isLt
  unfold PCore.no coreNo clusterNo; omega

theorem PCore.no_inj {p q : PCore} (h : p.no = q.no) : p = q := by
  obtain ⟨t, c, k⟩ := p
  obtain ⟨t', c', k'⟩ := q
  have h1 := c.isLt; have h2 := c'.isLt; have h3 := k.isLt; have h4 := k'.isLt
  simp only [PCore.no, coreNo, clusterNo] at h
  have e1 : t = t' := Fin.ext (by omega)
  have e2 : c = c' := Fin.ext (by omega)
  have e3 : k = k' := Fin.ext (by omega)
  subst e1 e2 e3; rfl

theorem nearAddr_ge (p off : Nat) : nearBase ≤ nearAddr p off := by unfold nearAddr; omega

theorem nearAddr_lt (p off : Nat) (hp : p < 27200) (ho : off ≤ nearSize) : nearAddr p off < stackedBase := by
  unfold nearAddr nearBase stackedBase nearSize at *; omega

theorem State.errKey_near (s : State) (p off : Nat) (hp : p < 27200) (ho : off < nearSize) :
    s.errKey (nearAddr p off) = nearKey p (off / 8) := by
  have h1 := nearAddr_lt p off hp (Nat.le_of_lt ho)
  have h2 := nearAddr_ge p off
  unfold errKey nearKey
  rw [if_neg (by omega), if_pos h2]
  unfold nearAddr nearSize nearBase at *; omega

/-- A range of a core's near SRAM without errors meets none. -/
theorem State.errKeys_near (s : State) (p off n : Nat) (hp : p < 27200) (ho : off + n ≤ nearSize) (h : s.NearGood p) :
    s.errKeys (nearAddr p off) n = [] := by
  unfold errKeys
  split
  · rfl
  · rename_i hn
    have hn : n ≠ 0 := fun e => hn (by simp [e])
    rw [if_pos (nearAddr_ge p off)]
    simp only [List.filter_eq_nil_iff, List.mem_map, List.mem_range, forall_exists_index, and_imp]
    rintro k i hi rfl
    have hb : nearAddr p off / 8 = 2 ^ 43 + p * 131072 + off / 8 := by
      unfold nearAddr nearBase nearSize; omega
    have ha : (nearAddr p off / 8 + i) * 8 = nearAddr p ((off / 8 + i) * 8) := by
      rw [hb]; unfold nearAddr nearBase nearSize; omega
    have hlt : (off / 8 + i) * 8 < nearSize := by
      have : (nearAddr p off + n - 1) / 8 = 2 ^ 43 + p * 131072 + (off + n - 1) / 8 := by
        unfold nearAddr nearBase nearSize; omega
      rw [hb, this] at hi
      unfold nearSize at *; omega
    have hw : (off / 8 + i) * 8 / 8 < 131072 := by unfold nearSize at hlt; omega
    rw [ha, s.errKey_near p _ hp hlt, h _ hw]
    have : ¬ 4398046511104 ≤ nearKey p (off / 8 + i) := by unfold nearKey; omega
    simp [this]

theorem State.readPhys_near (s : State) (p off n : Nat) (hp : p < 27200) (ho : off + n ≤ nearSize) (h : s.NearGood p) :
    s.readPhys (nearAddr p off) n = (s, some (memRead s.mem (nearAddr p off) n)) := by
  simp [readPhys, errKeys_near s p off n hp ho h, waited, nearAddr_ge]

theorem State.writePhys_near (s : State) (p off : Nat) (bs : List Byte) (hp : p < 27200) (ho : off + bs.length ≤ nearSize)
    (h : s.NearGood p) :
    s.writePhys (nearAddr p off) bs = (s.setMem (memWrite s.mem (nearAddr p off) bs), true) := by
  have h1 := nearAddr_lt p off hp (by omega)
  have h3 : s.cachedLines (nearAddr p off) bs.length = [] := by simp [cachedLines, nearAddr_ge]
  have h4 := errKeys_near s p off _ hp ho h
  have h5 : s.metByWrite (nearAddr p off) bs.length = [] := by simp [metByWrite, h4]
  simp [writePhys, h4, h5, mergeReads, store, h3, storeNow, storeGood, closeWindows, nearAddr_ge, h1, setMem]

end Sys2Proof.Machine
end

