-- ==== Sys2Proof/Laws/Issue.lean ====
section
/-!
SUPPORT. What a bundle that issues does (`State.issue` under `State.Issues`): the whole next state as one equation, and
from it the core, the registers and the memory it leaves.
-/
namespace Sys2Proof.Machine

theorem mset_mset_same {α : Type} [DecidableEq α] (d : α) (m : SMap α) (k : Nat) (v w : α) :
    mset d (mset d m k v) k w = mset d m k w := by
  unfold mset
  congr 1
  · simp only [List.filter_append, List.filter_filter]
    have h1 : (m.filter (fun e => decide (e.1 < k) && decide (e.1 < k))) = m.filter (fun e => decide (e.1 < k)) := by
      congr 1; funext e; simp
    have h2 : m.filter (fun e => decide (e.1 < k) && decide (k < e.1)) = [] := by
      simp only [List.filter_eq_nil_iff]; intro e _; simp; omega
    rw [h1, h2]
    split <;> simp
  · congr 1
    simp only [List.filter_append, List.filter_filter]
    have h1 : (m.filter (fun e => decide (k < e.1) && decide (k < e.1))) = m.filter (fun e => decide (k < e.1)) := by
      congr 1; funext e; simp
    have h2 : m.filter (fun e => decide (k < e.1) && decide (e.1 < k)) = [] := by
      simp only [List.filter_eq_nil_iff]; intro e _; simp; omega
    rw [h1, h2]
    split <;> simp

theorem State.setCore_setCore (s : State) (p : Nat) (c d : CoreState) : (s.setCore p c).setCore p d = s.setCore p d := by
  simp [State.setCore, mset_mset_same]

/-! ### The names of what an issue does -/

/-- The bundle with the slots whose guards are false taken out. -/
def State.actingAt (s : State) (p : Nat) (b : Bundle) : Bundle := b.acting (s.core p)

/-- The fc of the core at which the interlock lets the bundle issue (R75). -/
def State.issueAt (s : State) (p : Nat) (b : Bundle) : Nat := (s.core p).issueFc b (s.actingAt p b)

/-- The word LDW reads, and the lanes VLD reads. -/
def State.ldWord (s : State) (p : Nat) (op : CtlOp) : Word :=
  match op with
  | .ldw _ a imm => BitVec.ofNat 32 (leNat (memRead s.mem (nearAddr p (ctlAddr (s.core p) a imm)) 4))
  | _ => 0
def State.vldLine (s : State) (p : Nat) (op : MoveOp) : List Word :=
  match op with
  | .vld _ a imm => wordsOf (memRead s.mem (nearAddr p (moveAddr (s.core p) a imm)) 512)
  | _ => []

/-- Memory after the stores of the move slot and then the control slot. -/
def State.vstMem (s : State) (p : Nat) (op : MoveOp) : List Host.Cell :=
  match op with
  | .vst vs a imm => memWrite s.mem (nearAddr p (moveAddr (s.core p) a imm)) (bytesOf ((s.core p).vreg vs))
  | _ => s.mem
def State.storeMem (s : State) (p : Nat) (b : Bundle) : List Host.Cell :=
  match b.c with
  | .stw src a imm =>
    memWrite (s.vstMem p b.m) (nearAddr p (ctlAddr (s.core p) a imm)) (leBytes 4 ((s.core p).sreg src).toNat)
  | _ => s.vstMem p b.m

/-- The result of the vector slot. -/
def State.vecResult (s : State) (p : Nat) (op : VecOp) : List Word × Bool :=
  op.result (s.core p).vreg (s.core p).sreg (s.on .CORE_CFG_FTZ p) s.free

/-- The core after the effects of the four slots. -/
def State.coreEffect (s : State) (p : Nat) (b : Bundle) : CoreState :=
  let r := ((s.core p).atFc (s.issueAt p b)).beforeStall (s.actingAt p b)
  let a := s.actingAt p b
  a.a.effect r (a.v.effect r (a.m.effect r (a.c.effect r r (s.ldWord p a.c)) (s.pc p) (s.vldLine p a.m))
    (s.vecResult p a.v) (s.on .NUM_CFG_NAN_MODE)) (s.pc p)

/-- The address of the next bundle. -/
def State.nextPc (s : State) (p : Nat) (b : Bundle) : Nat :=
  ((s.core p).advance (s.core p) (s.pc p) (s.actingAt p b).c).2.1

/-- The core after the bundle. -/
def State.coreAfter (s : State) (p : Nat) (b : Bundle) : CoreState :=
  let a := s.actingAt p b
  let t := s.issueAt p b
  let x := (s.coreEffect p b).advance (((s.core p).atFc t).beforeStall a) (s.pc p) a.c
  { x.1 with
    fc := t + 1 + x.2.2
    sfuUntil := if a.v.sfuBusy = 0 then x.1.sfuUntil else t + a.v.sfuBusy
    posted := false
    ready := a.writes.foldl (fun m w => if w.1 = 0 || w.1 = 32 then m else mset 0 m w.1 (t + w.2)) x.1.ready }

/-- The registers of core p's debug page after a bundle. -/
def State.issueRegs (s : State) (p : Nat) (b : Bundle) : State :=
  ((((s.put .CORE_STATUS_STALLED 0 p).put .CORE_STATUS_IN_BWAIT 0 p).count .CORE_ISSUED_COUNT 1 p).put .CORE_PC_PC
    (s.nextPc p b) p)

/-! ### Loops are untouched by the slots' effects -/

theorem CoreState.setSreg_loops (c : CoreState) (r : SReg) (v : Word) :
    (c.setSreg r v).loops = c.loops ∧ (c.setSreg r v).active = c.active := by
  unfold setSreg; split <;> exact ⟨rfl, rfl⟩

theorem CoreState.setPreg_loops (c : CoreState) (r : PReg) (v : Bool) :
    (c.setPreg r v).loops = c.loops ∧ (c.setPreg r v).active = c.active := by
  unfold setPreg; split <;> exact ⟨rfl, rfl⟩

theorem CtlOp.effect_loops (op : CtlOp) (r c : CoreState) (ld : Word) :
    (op.effect r c ld).loops = c.loops ∧ (op.effect r c ld).active = c.active := by
  cases op <;> simp only [CtlOp.effect] <;>
    first
    | exact CoreState.setSreg_loops ..
    | exact CoreState.setPreg_loops ..
    | (split <;> exact ⟨rfl, rfl⟩)
    | simp

theorem MoveOp.effect_loops (op : MoveOp) (r c : CoreState) (pc : BitVec 12) (l : List Word) :
    (op.effect r c pc l).loops = c.loops ∧ (op.effect r c pc l).active = c.active := by
  cases op <;> exact ⟨rfl, rfl⟩

theorem VecOp.effect_loops (op : VecOp) (r c : CoreState) (res : List Word × Bool) (keep : Bool) :
    (op.effect r c res keep).loops = c.loops ∧ (op.effect r c res keep).active = c.active := by
  cases op <;> simp only [VecOp.effect, VecOp.dest] <;>
    first
    | exact CoreState.setPreg_loops ..
    | (split <;> exact ⟨rfl, rfl⟩)
    | simp

theorem ArrOp.effect_loops (op : ArrOp) (r c : CoreState) (pc : BitVec 12) :
    (op.effect r c pc).loops = c.loops ∧ (op.effect r c pc).active = c.active := by
  cases op <;> exact ⟨rfl, rfl⟩

theorem CoreState.loopEnd_congr (k : Nat) : ∀ (c c' : CoreState) (pc : Nat), c.loops = c'.loops → c.active = c'.active →
    (c.loopEnd pc k).2 = (c'.loopEnd pc k).2 ∧ (c.loopEnd pc k).1.loops = (c'.loopEnd pc k).1.loops ∧
      (c.loopEnd pc k).1.active = (c'.loopEnd pc k).1.active := by
  induction k with
  | zero => intro c c' pc h1 h2; exact ⟨rfl, h1, h2⟩
  | succ k ih =>
    intro c c' pc h1 h2
    have e : ∀ l, c'.loopCtr l = c.loopCtr l := fun l => by simp [loopCtr, h1]
    unfold loopEnd
    simp only [e, ← h2]
    split
    · exact ⟨rfl, h1, h2⟩
    · split
      · exact ih _ _ _ (by simp [setLoop, h1]) rfl
      · exact ⟨rfl, by simp [setLoop, h1], by simp [setLoop, h2]⟩

theorem CoreState.advance_congr (c c' r r' : CoreState) (pc : BitVec 12) (op : CtlOp) (h1 : c.loops = c'.loops)
    (h2 : c.active = c'.active) (h3 : r.sregs = r'.sregs) :
    (c.advance r pc op).2 = (c'.advance r' pc op).2 := by
  have hs : ∀ x, r.sreg x = r'.sreg x := fun x => by simp [sreg, h3]
  have hl : ∀ src count, loopCount r src count = loopCount r' src count := fun src count => by simp [loopCount, hs]
  cases op <;> simp only [advance] <;>
    first
    | (rw [(loopEnd_congr 5 c c' _ h1 h2).1])
    | (rw [hl]; split <;> rfl)

/-! ### The state a bundle leaves -/

theorem CoreState.beforeStall_fc (c : CoreState) (t : Nat) (b : Bundle) :
    (c.atFc t).beforeStall b = (c.beforeStall b).atFc t := by
  unfold beforeStall; split <;> rfl

theorem CoreState.beforeStall_parts (c : CoreState) (b : Bundle) :
    (c.beforeStall b).sregs = c.sregs ∧ (c.beforeStall b).preds = c.preds ∧ (c.beforeStall b).vregs = c.vregs ∧
      (c.beforeStall b).loops = c.loops ∧ (c.beforeStall b).active = c.active := by
  unfold beforeStall; split <;> exact ⟨rfl, rfl, rfl, rfl, rfl⟩

theorem State.slotReads_near (s : State) (p : Nat) (b : Bundle) (hp : p < 27200) (h : s.NearGood p)
    (hv : s.valueTrap (s.core p) (s.pc p) b = none) (c : CoreState) (hc : c.sregs = (s.core p).sregs) :
    s.slotReads p c b = (s, s.ldWord p b.c, s.vldLine p b.m, none) := by
  have hs : ∀ x, c.sreg x = (s.core p).sreg x := fun x => by simp [CoreState.sreg, hc]
  have ha : ∀ a imm, ctlAddr c a imm = ctlAddr (s.core p) a imm := fun a imm => by simp [ctlAddr, hs]
  have hm : ∀ a imm, moveAddr c a imm = moveAddr (s.core p) a imm := fun a imm => by simp [moveAddr, hs]
  simp only [valueTrap, Option.or_eq_none_iff] at hv
  have h1 := hv.1.2
  have h2 := hv.2.1
  unfold slotReads ldWord vldLine
  have e1 : ∀ a imm d, b.c = .ldw d a imm → ctlAddr (s.core p) a imm + 4 ≤ nearSize := by
    intro a imm d e
    simp only [e, ctlValue] at h1
    split at h1
    · rename_i h; unfold nearSize at *; simp at h; omega
    · cases h1
  have e2 : ∀ a imm d, b.m = .vld d a imm → moveAddr (s.core p) a imm + 512 ≤ nearSize := by
    intro a imm d e
    simp only [e, moveValue] at h2
    split at h2
    · rename_i h; unfold nearSize at *; simp at h; omega
    · cases h2
  have f1 : ∀ d a imm, b.c = .ldw d a imm → s.readPhys (nearAddr p (ctlAddr (s.core p) a imm)) 4 =
      (s, some (memRead s.mem (nearAddr p (ctlAddr (s.core p) a imm)) 4)) :=
    fun d a imm e => State.readPhys_near s p _ 4 hp (e1 a imm d e) h
  have f2 : ∀ d a imm, b.m = .vld d a imm → s.readPhys (nearAddr p (moveAddr (s.core p) a imm)) 512 =
      (s, some (memRead s.mem (nearAddr p (moveAddr (s.core p) a imm)) 512)) :=
    fun d a imm e => State.readPhys_near s p _ 512 hp (e2 a imm d e) h
  cases hbc : b.c with
  | ldw d a imm =>
    simp only [ha, hm, f1 d a imm hbc]
    cases hbm : b.m with
    | vld d' a' imm' => simp only [f2 d' a' imm' hbm]
    | _ => rfl
  | _ =>
    simp only [hm]
    cases hbm : b.m with
    | vld d' a' imm' => simp only [f2 d' a' imm' hbm]
    | _ => rfl

@[simp] theorem CoreState.vreg_length (c : CoreState) (v : VReg) : (c.vreg v).length = 128 := by simp [vreg]

theorem bytesOf_length (xs : List Word) : (bytesOf xs).length = 4 * xs.length := by
  induction xs with
  | nil => rfl
  | cons x xs ih => simp only [bytesOf, List.flatMap_cons, List.length_append, leBytes_length] at *; simp [ih]; omega

theorem State.slotStores_near (s : State) (p : Nat) (b : Bundle) (hp : p < 27200) (h : s.NearGood p)
    (hv : s.valueTrap (s.core p) (s.pc p) b = none) (c : CoreState) (hc : c.sregs = (s.core p).sregs)
    (hw : c.vregs = (s.core p).vregs) : s.slotStores p c b = (s.setMem (s.storeMem p b), none) := by
  have hs : ∀ x, c.sreg x = (s.core p).sreg x := fun x => by simp [CoreState.sreg, hc]
  have hr : ∀ x, c.vreg x = (s.core p).vreg x := fun x => by simp [CoreState.vreg, hw]
  have ha : ∀ a imm, ctlAddr c a imm = ctlAddr (s.core p) a imm := fun a imm => by simp [ctlAddr, hs]
  have hm : ∀ a imm, moveAddr c a imm = moveAddr (s.core p) a imm := fun a imm => by simp [moveAddr, hs]
  simp only [valueTrap, Option.or_eq_none_iff] at hv
  have h1 := hv.1.2
  have h2 := hv.2.1
  unfold slotStores storeMem vstMem
  have f1 : ∀ (x : State) d a imm, b.c = .stw d a imm → x.NearGood p →
      x.writePhys (nearAddr p (ctlAddr (s.core p) a imm)) (leBytes 4 ((s.core p).sreg d).toNat) =
      (x.setMem (memWrite x.mem (nearAddr p (ctlAddr (s.core p) a imm)) (leBytes 4 ((s.core p).sreg d).toNat)), true) := by
    intro x d a imm e hx
    refine State.writePhys_near x p _ _ hp ?_ hx
    simp only [e, ctlValue] at h1
    split at h1
    · rename_i h; unfold nearSize at *; simp at h ⊢; omega
    · cases h1
  have f2 : ∀ d a imm, b.m = .vst d a imm →
      s.writePhys (nearAddr p (moveAddr (s.core p) a imm)) (bytesOf ((s.core p).vreg d)) =
      (s.setMem (memWrite s.mem (nearAddr p (moveAddr (s.core p) a imm)) (bytesOf ((s.core p).vreg d))), true) := by
    intro d a imm e
    refine State.writePhys_near s p _ _ hp ?_ h
    rw [bytesOf_length, CoreState.vreg_length]
    simp only [e, moveValue] at h2
    split at h2
    · rename_i h; unfold nearSize at *; simp at h ⊢; omega
    · cases h2
  cases hbm : b.m with
  | vst d a imm =>
    have hN : ∀ m, (s.setMem m).NearGood p := fun _ => h
    simp only [hm, hr, f2 d a imm hbm]
    cases hbc : b.c with
    | stw d' a' imm' => simp only [ha, hs]; rw [f1 _ d' a' imm' hbc (hN _)]; rfl
    | _ => rfl
  | _ =>
    cases hbc : b.c with
    | stw d' a' imm' => simp only [ha, hs, f1 s d' a' imm' hbc h]; rfl
    | _ => rfl

theorem State.valueTrap_congr (s t : State) (c c' : CoreState) (pc : BitVec 12) (b : Bundle)
    (h1 : t.get .NUM_PAGE_ADDR = s.get .NUM_PAGE_ADDR) (h2 : t.image = s.image) (h3 : c'.sregs = c.sregs)
    (h4 : c'.loops = c.loops) (h5 : c'.active = c.active) : t.valueTrap c' pc b = s.valueTrap c pc b := by
  have hs : ∀ x, c'.sreg x = c.sreg x := fun x => by simp [CoreState.sreg, h3]
  have hp : ∀ o n, t.pageHit o n = s.pageHit o n := fun o n => by simp [pageHit, h1, hasPlan, h2]
  have hl : ∀ l, c'.loopCtr l = c.loopCtr l := fun l => by simp [CoreState.loopCtr, h4]
  simp only [valueTrap]
  congr 1
  · congr 1
    unfold ctlValue
    cases b.c <;> simp only [ctlAddr, hs, hp, hl, h5] <;> rfl
  · congr 1
    · unfold moveValue
      cases b.m <;> simp only [moveAddr, hs, hp] <;> rfl
    · unfold arrValue
      cases b.a <;> simp only [hs]

theorem State.ldWord_congr (s t : State) (p : Nat) (op : CtlOp) (h1 : t.mem = s.mem)
    (h2 : (t.core p).sregs = (s.core p).sregs) : t.ldWord p op = s.ldWord p op := by
  cases op <;> simp [ldWord, ctlAddr, CoreState.sreg, h1, h2]

theorem State.vldLine_congr (s t : State) (p : Nat) (op : MoveOp) (h1 : t.mem = s.mem)
    (h2 : (t.core p).sregs = (s.core p).sregs) : t.vldLine p op = s.vldLine p op := by
  cases op <;> simp [vldLine, moveAddr, CoreState.sreg, h1, h2]

theorem State.storeMem_congr (s t : State) (p : Nat) (b : Bundle) (h1 : t.mem = s.mem)
    (h2 : (t.core p).sregs = (s.core p).sregs) (h3 : (t.core p).vregs = (s.core p).vregs) :
    t.storeMem p b = s.storeMem p b := by
  have hv : t.vstMem p b.m = s.vstMem p b.m := by
    unfold vstMem; cases b.m <;> simp [moveAddr, CoreState.sreg, CoreState.vreg, h1, h2, h3]
  unfold storeMem
  rw [hv]
  cases b.c <;> simp [ctlAddr, CoreState.sreg, h2]

/-- The issue once its checks and stalls are behind it, in terms of the state before. -/
theorem State.issueNow_eq (s s2 : State) (p : Nat) (a : Bundle) (t : Nat) (hp : p < 27200)
    (hb : a.reaches = false) (hmem : s2.mem = s.mem) (hbad : s2.bad = s.bad) (hfree : s2.free = s.free)
    (hg : s.NearGood p) (hpc : s2.pc p = s.pc p) (hv : s2.valueTrap (s2.core p) (s2.pc p) a = none)
    (hs : (s2.core p).sregs = (s.core p).sregs) (hw : (s2.core p).vregs = (s.core p).vregs)
    (hftz : s2.on .CORE_CFG_FTZ p = s.on .CORE_CFG_FTZ p) (hk : s2.on .NUM_CFG_NAN_MODE = s.on .NUM_CFG_NAN_MODE)
    (hnan : (s.vecResult p a.v).2 = false) (hst : s2.get .CORE_STATUS_STATE p = 1)
    (hn : ((a.a.effect (s2.core p) (a.v.effect (s2.core p) (a.m.effect (s2.core p) (a.c.effect (s2.core p) (s2.core p)
      (s.ldWord p a.c)) (s.pc p) (s.vldLine p a.m)) (s.vecResult p a.v) (s.on .NUM_CFG_NAN_MODE)) (s.pc p)).advance
      (s2.core p) (s.pc p) a.c).2.1 ≤ 4095) :
    s2.issueNow p a t =
      (let c := a.a.effect (s2.core p) (a.v.effect (s2.core p) (a.m.effect (s2.core p) (a.c.effect (s2.core p) (s2.core p)
        (s.ldWord p a.c)) (s.pc p) (s.vldLine p a.m)) (s.vecResult p a.v) (s.on .NUM_CFG_NAN_MODE)) (s.pc p)
      let x := c.advance (s2.core p) (s.pc p) a.c
      (((((s2.setMem (s.storeMem p a)).useFree a.v.frees).setCore p { x.1 with
        fc := t + 1 + x.2.2
        sfuUntil := if a.v.sfuBusy = 0 then x.1.sfuUntil else t + a.v.sfuBusy
        posted := false
        ready := a.writes.foldl (fun m w => if w.1 = 0 || w.1 = 32 then m else mset 0 m w.1 (t + w.2)) x.1.ready }).puts p
        [(.CORE_STATUS_STALLED, 0), (.CORE_STATUS_IN_BWAIT, 0)]).count .CORE_ISSUED_COUNT 1 p).setPc p x.2.1) := by
  have hg2 : s2.NearGood p := fun w hw => by rw [hbad]; exact hg w hw
  have hvec : a.v.result (s2.core p).vreg (s2.core p).sreg (s2.on .CORE_CFG_FTZ p) s2.free = s.vecResult p a.v := by
    have e1 : (s2.core p).vreg = (s.core p).vreg := by funext v; simp [CoreState.vreg, hw]
    have e2 : (s2.core p).sreg = (s.core p).sreg := by funext v; simp [CoreState.sreg, hs]
    rw [e1, e2, hftz, hfree]; rfl
  unfold issueNow
  simp only [slotReads_near s2 p a hp hg2 hv _ rfl, slotStores_near s2 p a hp hg2 hv _ rfl rfl, hvec, hpc, hk,
    ldWord_congr s s2 p _ hmem hs, vldLine_congr s s2 p _ hmem hs, storeMem_congr s s2 p _ hmem hs hw, hnan]
  have hb1 : ¬ a.c = .halt := by intro e; simp [Bundle.reaches, e] at hb
  generalize hx : (a.a.effect (s2.core p) (a.v.effect (s2.core p) (a.m.effect (s2.core p) (a.c.effect (s2.core p)
    (s2.core p) (s.ldWord p a.c)) (s.pc p) (s.vldLine p a.m)) (s.vecResult p a.v) (s.on .NUM_CFG_NAN_MODE))
    (s.pc p)).advance (s2.core p) (s.pc p) a.c = x at hn ⊢
  have hlt : ¬ 4095 < x.2.1 := by omega
  simp only [hb1, hlt, if_false, Bool.false_eq_true]
  split
  · rename_i e; simp [Bundle.reaches, e] at hb
  · rw [if_neg]
    simp [setPc, count, puts, get_eq]
    simpa [get_eq] using hst

/-- A bundle that issues leaves exactly this state: memory with its stores, the core after its effects, the next pc, the
issue counter and the stalled fc counted. -/
theorem State.issue_eq (s : State) (p : Nat) (b : Bundle) (hp : p < 27200) (h : s.Issues p b)
    (hb : (s.actingAt p b).reaches = false) :
    s.issue p b = (((((s.count .CORE_STALLS_COUNT (s.issueAt p b - (s.core p).fc) p).setMem (s.storeMem p (s.actingAt p b))).useFree
      (s.actingAt p b).v.frees).setCore p
      (s.coreAfter p b)).puts p [(.CORE_STATUS_STALLED, 0), (.CORE_STATUS_IN_BWAIT, 0)] |>.count .CORE_ISSUED_COUNT 1 p).setPc p
      (s.nextPc p b) := by
  obtain ⟨⟨h1, h2, h3⟩, h4, h5, h6, h7, h8⟩ := h
  have r1 : ¬ (s.get .CORE_STATUS_STATE p != 1) = true := by simp [h1]
  unfold issue
  rw [if_neg r1]
  simp only [h2]
  have hact : b.acting (s.core p) = s.actingAt p b := rfl
  have ht : (s.core p).issueFc b (s.actingAt p b) = s.issueAt p b := rfl
  simp only [hact, ht] at *
  generalize hA : s.actingAt p b = a at *
  generalize hT : s.issueAt p b = t at *
  generalize hS : s.count .CORE_STALLS_COUNT (t - (s.core p).fc) p = s1
  have k0 : ∀ q, s1.core q = s.core q := by intro q; subst hS; simp [count]
  have k1 : s1.get .NUM_PAGE_ADDR = s.get .NUM_PAGE_ADDR := by
    subst hS; simp only [count, put_eq]
    exact get_putWord_field s (by decide) _ _ _
  have k2 : s1.image = s.image := by subst hS; simp [count]
  have hv : (s1.setCore p ((s.core p).atFc t)).valueTrap (s.core p) (s.pc p) a = none := by
    rw [valueTrap_congr s _ _ (s.core p) _ _ (by simpa using k1) (by simpa using k2) rfl rfl rfl]; exact h3
  simp only [hv, core_setCore_self]
  simp only [setCore_setCore]
  have hst : (((s.core p).atFc t).beforeStall a).stalls a = false := by
    rw [CoreState.beforeStall_fc]; exact h4
  simp only [hst, Bool.false_eq_true, if_false]
  have hw : (((s.core p).atFc t).beforeStall a).waits a = false := by
    rw [← h5]; unfold CoreState.beforeStall; split <;> rfl
  generalize hC : ((s.core p).atFc t).beforeStall a = c2 at *
  have hc := CoreState.beforeStall_parts ((s.core p).atFc t) a
  rw [hC] at hc
  have hm : ∀ x : State, x.syncPost p a = x := by
    intro x; unfold syncPost; split
    · rename_i e; simp [Bundle.reaches, e] at hb
    · rfl
  rw [hm]
  simp only [core_setCore_self, hw, Bool.false_eq_true, if_false]
  have hcong := CoreState.advance_congr
    (a.a.effect c2 (a.v.effect c2 (a.m.effect c2 (a.c.effect c2 c2 (s.ldWord p a.c)) (s.pc p) (s.vldLine p a.m))
      (s.vecResult p a.v) (s.on .NUM_CFG_NAN_MODE)) (s.pc p)) (s.core p) c2 (s.core p) (s.pc p) a.c
    (by rw [(ArrOp.effect_loops ..).1, (VecOp.effect_loops ..).1, (MoveOp.effect_loops ..).1, (CtlOp.effect_loops ..).1]
        exact hc.2.2.2.1)
    (by rw [(ArrOp.effect_loops ..).2, (VecOp.effect_loops ..).2, (MoveOp.effect_loops ..).2, (CtlOp.effect_loops ..).2]
        exact hc.2.2.2.2)
    hc.1
  have hpc : (s1.setCore p c2).pc p = s.pc p := by
    subst hS; simp [pc, count, get_eq]
  have hnext : (s.nextPc p b) = ((s.core p).advance (s.core p) (s.pc p) a.c).2.1 := by rw [nextPc, hA]
  rw [issueNow_eq s (s1.setCore p c2) p a t hp hb]
  · simp only [core_setCore_self]
    have hcore : ∀ (m : List Host.Cell) (n : Nat) (x : CoreState),
        (((s1.setCore p c2).setMem m).useFree n).setCore p x = ((s1.setMem m).useFree n).setCore p x := by
      intro m n x; simp [setCore, setMem, useFree, mset_mset_same]
    rw [hcore, hnext, ← congrArg Prod.fst hcong]
    unfold coreAfter coreEffect
    simp only [hA, hT, hC]
  · subst hS; simp [count]
  · subst hS; simp [count]
  · subst hS; simp [count]
  · exact h6
  · exact hpc
  · rw [hpc, core_setCore_self, valueTrap_congr s (s1.setCore p c2) (s.core p) c2 (s.pc p) a (by simpa using k1)
      (by simpa using k2) hc.1 hc.2.2.2.1 hc.2.2.2.2]; exact h3
  · rw [core_setCore_self]; exact hc.1
  · rw [core_setCore_self]; exact hc.2.2.1
  · subst hS; simp [count, on, get_eq]
  · simp only [on, get_setCore]; subst hS; simp only [count, put_eq]
    rw [get_putWord_field s (by decide) _ _ _]
  · exact h7
  · subst hS; simp [count, get_eq]; simpa [get_eq] using h1
  · simp only [core_setCore_self]; rw [congrArg Prod.fst hcong]; exact h8

/-! ### What an issue leaves, part by part -/

section parts
variable {s : State} {p : Nat} {b : Bundle}

theorem State.issue_core (hp : p < 27200) (h : s.Issues p b) (hb : (s.actingAt p b).reaches = false) :
    (s.issue p b).core p = s.coreAfter p b := by
  rw [issue_eq s p b hp h hb]; simp [setPc, count, puts]

theorem State.issue_core_other (hp : p < 27200) (h : s.Issues p b) (hb : (s.actingAt p b).reaches = false) {q : Nat}
    (hq : p ≠ q) : (s.issue p b).core q = s.core q := by
  rw [issue_eq s p b hp h hb]; simp [setPc, count, puts, hq]

theorem State.issue_mem (hp : p < 27200) (h : s.Issues p b) (hb : (s.actingAt p b).reaches = false) :
    (s.issue p b).mem = s.storeMem p (s.actingAt p b) := by
  rw [issue_eq s p b hp h hb]; simp [setPc, count, puts]

/-- The pc of the next bundle. -/
theorem State.issue_pc (hp : p < 27200) (h : s.Issues p b) (hb : (s.actingAt p b).reaches = false) :
    (s.issue p b).get .CORE_PC_PC p = s.nextPc p b := by
  have := h.inRange
  rw [issue_eq s p b hp h hb, setPc, get_put_self]
  exact Nat.mod_eq_of_lt (by have e : Field.CORE_PC_PC.info.width = 12 := rfl; rw [e]; unfold nextPc actingAt; omega)

theorem State.issue_word (hp : p < 27200) (h : s.Issues p b) (hb : (s.actingAt p b).reaches = false) {f : Field} {i : Nat}
    (hf : i ≠ p ∨ f ∉ issueFields) : (s.issue p b).word f i = s.word f i := by
  have key : ∀ (x : State) (g : Field) (v : Word), g ∈ issueFields → (x.putWord g v p).word f i = x.word f i := by
    intro x g v hg
    rcases hf with hne | hf
    · by_cases hgf : g = f
      · subst hgf; exact x.word_putWord_idx g v (fun e => hne e.symm)
      · exact x.word_putWord_field hgf v _ _
    · exact x.word_putWord_field (fun e => hf (by rw [← e]; exact hg)) v _ _
  rw [issue_eq s p b hp h hb]
  simp only [setPc, count, puts, List.foldl, put_eq]
  rw [key _ _ _ (by decide), key _ _ _ (by decide), key _ _ _ (by decide), key _ _ _ (by decide), word_setCore]
  exact key s _ _ (by decide)

/-- The control flow of a bundle changes its core's loop counters alone. -/
theorem CoreState.advance_only (c r : CoreState) (pc : BitVec 12) (op : CtlOp) :
    ∃ ls ac, (c.advance r pc op).1 = { c with loops := ls, active := ac } := by
  have hl : ∀ k (c : CoreState) (pc : Nat), ∃ ls ac, (c.loopEnd pc k).1 = { c with loops := ls, active := ac } := by
    intro k
    induction k with
    | zero => intro c pc; exact ⟨c.loops, c.active, rfl⟩
    | succ k ih =>
      intro c pc
      unfold loopEnd
      split
      · exact ⟨c.loops, c.active, rfl⟩
      · rename_i l _
        dsimp only
        split
        · obtain ⟨ls, ac, e⟩ := ih ({ (c.setLoop l { (c.loopCtr l) with count := (c.loopCtr l).count - 1 }) with
            active := c.active.erase l }) pc
          exact ⟨ls, ac, by rw [e]; rfl⟩
        · exact ⟨_, _, rfl⟩
  cases op <;> simp only [advance] <;>
    first
    | exact hl _ _ _
    | (split <;> exact ⟨_, _, rfl⟩)
    | exact ⟨_, _, rfl⟩

theorem CtlOp.effect_parts (op : CtlOp) (r c : CoreState) (ld : Word) :
    (op.effect r c ld).vregs = c.vregs ∧ (op.effect r c ld).chans = c.chans ∧ (op.effect r c ld).arr = c.arr ∧
      (op.effect r c ld).istore = c.istore ∧ (op.effect r c ld).posts = c.posts ∧
      (op.effect r c ld).releases = c.releases ∧ (op.effect r c ld).remotes = c.remotes := by
  cases op <;> simp only [effect, CoreState.setSreg, CoreState.setPreg] <;>
    (try split) <;> simp

theorem MoveOp.effect_parts (op : MoveOp) (r c : CoreState) (pc : BitVec 12) (l : List Word) :
    (op.effect r c pc l).sregs = c.sregs ∧ (op.effect r c pc l).preds = c.preds ∧ (op.effect r c pc l).arr = c.arr ∧
      (op.effect r c pc l).adesc = c.adesc ∧ (op.effect r c pc l).sdesc = c.sdesc ∧
      (op.effect r c pc l).istore = c.istore ∧ (op.effect r c pc l).posts = c.posts ∧
      (op.effect r c pc l).releases = c.releases ∧ (op.effect r c pc l).remotes = c.remotes := by
  cases op <;> exact ⟨rfl, rfl, rfl, rfl, rfl, rfl, rfl, rfl, rfl⟩

theorem VecOp.effect_parts (op : VecOp) (r c : CoreState) (res : List Word × Bool) (k : Bool) :
    (op.effect r c res k).sregs = c.sregs ∧ (op.effect r c res k).chans = c.chans ∧ (op.effect r c res k).arr = c.arr ∧
      (op.effect r c res k).adesc = c.adesc ∧ (op.effect r c res k).sdesc = c.sdesc ∧
      (op.effect r c res k).istore = c.istore ∧ (op.effect r c res k).posts = c.posts ∧
      (op.effect r c res k).releases = c.releases ∧ (op.effect r c res k).remotes = c.remotes := by
  cases op <;> simp only [effect, dest, CoreState.setPreg, CoreState.setVreg] <;> (try split) <;> simp

theorem ArrOp.effect_parts (op : ArrOp) (r c : CoreState) (pc : BitVec 12) :
    (op.effect r c pc).sregs = c.sregs ∧ (op.effect r c pc).preds = c.preds ∧ (op.effect r c pc).vregs = c.vregs ∧
      (op.effect r c pc).chans = c.chans ∧ (op.effect r c pc).adesc = c.adesc ∧ (op.effect r c pc).sdesc = c.sdesc ∧
      (op.effect r c pc).istore = c.istore ∧ (op.effect r c pc).posts = c.posts ∧
      (op.effect r c pc).releases = c.releases ∧ (op.effect r c pc).remotes = c.remotes := by
  cases op <;> exact ⟨rfl, rfl, rfl, rfl, rfl, rfl, rfl, rfl, rfl, rfl⟩

/-- Parts of the core that a bundle leaves as the slots' effects leave them. -/
theorem State.coreAfter_parts (s : State) (p : Nat) (b : Bundle) :
    (s.coreAfter p b).sregs = (s.coreEffect p b).sregs ∧ (s.coreAfter p b).preds = (s.coreEffect p b).preds ∧
      (s.coreAfter p b).vregs = (s.coreEffect p b).vregs ∧ (s.coreAfter p b).chans = (s.coreEffect p b).chans ∧
      (s.coreAfter p b).arr = (s.coreEffect p b).arr ∧ (s.coreAfter p b).adesc = (s.coreEffect p b).adesc ∧
      (s.coreAfter p b).sdesc = (s.coreEffect p b).sdesc ∧ (s.coreAfter p b).istore = (s.coreEffect p b).istore ∧
      (s.coreAfter p b).posts = (s.coreEffect p b).posts ∧ (s.coreAfter p b).releases = (s.coreEffect p b).releases ∧
      (s.coreAfter p b).remotes = (s.coreEffect p b).remotes := by
  obtain ⟨ls, ac, e⟩ := CoreState.advance_only (s.coreEffect p b)
    (((s.core p).atFc (s.issueAt p b)).beforeStall (s.actingAt p b)) (s.pc p) (s.actingAt p b).c
  simp only [coreAfter, e, and_self]

/-- The core whose registers the slots read. -/
def State.readCore (s : State) (p : Nat) (b : Bundle) : CoreState :=
  ((s.core p).atFc (s.issueAt p b)).beforeStall (s.actingAt p b)

theorem State.readCore_parts (s : State) (p : Nat) (b : Bundle) :
    (s.readCore p b).sregs = (s.core p).sregs ∧ (s.readCore p b).preds = (s.core p).preds ∧
      (s.readCore p b).vregs = (s.core p).vregs ∧ (s.readCore p b).loops = (s.core p).loops ∧
      (s.readCore p b).chans = (s.core p).chans ∧ (s.readCore p b).adesc = (s.core p).adesc ∧
      (s.readCore p b).sdesc = (s.core p).sdesc ∧ (s.readCore p b).istore = (s.core p).istore ∧
      (s.readCore p b).posts = (s.core p).posts ∧ (s.readCore p b).releases = (s.core p).releases ∧
      (s.readCore p b).remotes = (s.core p).remotes ∧ (s.readCore p b).step = (s.core p).step ∧
      (s.readCore p b).bufSel = (s.core p).bufSel := by
  unfold readCore CoreState.beforeStall CoreState.atFc
  split <;> simp

theorem CoreState.sreg_congr {c d : CoreState} (h : c.sregs = d.sregs) : c.sreg = d.sreg := by
  funext x; simp [sreg, h]
theorem CoreState.preg_congr {c d : CoreState} (h : c.preds = d.preds) : c.preg = d.preg := by
  funext x; simp [preg, h]
theorem CoreState.vreg_congr {c d : CoreState} (h : c.vregs = d.vregs) : c.vreg = d.vreg := by
  funext x; simp [vreg, h]

/-- Scalar registers after a bundle: those of the control slot's effect on the core as it was. -/
theorem State.coreAfter_sregs (s : State) (p : Nat) (b : Bundle) :
    (s.coreAfter p b).sregs =
      ((s.actingAt p b).c.effect (s.core p) (s.core p) (s.ldWord p (s.actingAt p b).c)).sregs := by
  rw [(coreAfter_parts s p b).1]
  unfold coreEffect
  rw [(ArrOp.effect_parts ..).1, (VecOp.effect_parts ..).1, (MoveOp.effect_parts ..).1]
  have h := readCore_parts s p b
  unfold readCore at h
  generalize ((s.core p).atFc (s.issueAt p b)).beforeStall (s.actingAt p b) = r at h ⊢
  have h1 := CoreState.sreg_congr h.1
  have h2 := CoreState.vreg_congr h.2.2.1
  have h3 : r.loopCtr = (s.core p).loopCtr := by funext x; simp [CoreState.loopCtr, h.2.2.2.1]
  cases (s.actingAt p b).c <;>
    simp only [CtlOp.effect, CoreState.setSreg, CoreState.setPreg, h1, h2, h3] <;> (try split) <;> simp [h.1]

/-- Predicates after a bundle: those of the control slot's and then the vector slot's effect. -/
theorem State.coreAfter_preds (s : State) (p : Nat) (b : Bundle) :
    (s.coreAfter p b).preds = ((s.actingAt p b).v.effect (s.core p)
      ((s.actingAt p b).c.effect (s.core p) (s.core p) (s.ldWord p (s.actingAt p b).c)) (s.vecResult p (s.actingAt p b).v)
      (s.on .NUM_CFG_NAN_MODE)).preds := by
  rw [(coreAfter_parts s p b).2.1]
  unfold coreEffect
  rw [(ArrOp.effect_parts ..).2.1]
  have h := readCore_parts s p b
  unfold readCore at h
  generalize ((s.core p).atFc (s.issueAt p b)).beforeStall (s.actingAt p b) = r at h ⊢
  have h1 := CoreState.sreg_congr h.1
  have h2 := CoreState.vreg_congr h.2.2.1
  have h4 := CoreState.preg_congr h.2.1
  have hc : (((s.actingAt p b).m.effect r ((s.actingAt p b).c.effect r r (s.ldWord p (s.actingAt p b).c)) (s.pc p)
      (s.vldLine p (s.actingAt p b).m)).preds) =
      ((s.actingAt p b).c.effect (s.core p) (s.core p) (s.ldWord p (s.actingAt p b).c)).preds := by
    rw [(MoveOp.effect_parts ..).2.1]
    cases (s.actingAt p b).c <;>
      simp only [CtlOp.effect, CoreState.setSreg, CoreState.setPreg, h1, h2, h4] <;> (try split) <;> simp [h.2.1]
  cases (s.actingAt p b).v <;> simp only [VecOp.effect, VecOp.dest, CoreState.setPreg, CoreState.setVreg, h2] <;>
    (try split) <;> simp [hc]

/-- Vector registers after a bundle: those of the move slot's and then the vector slot's effect. -/
theorem State.coreAfter_vregs (s : State) (p : Nat) (b : Bundle) :
    (s.coreAfter p b).vregs = ((s.actingAt p b).v.effect (s.core p)
      ((s.actingAt p b).m.effect (s.core p) (s.core p) (s.pc p) (s.vldLine p (s.actingAt p b).m))
      (s.vecResult p (s.actingAt p b).v) (s.on .NUM_CFG_NAN_MODE)).vregs := by
  rw [(coreAfter_parts s p b).2.2.1]
  unfold coreEffect
  rw [(ArrOp.effect_parts ..).2.2.1]
  have h := readCore_parts s p b
  unfold readCore at h
  generalize ((s.core p).atFc (s.issueAt p b)).beforeStall (s.actingAt p b) = r at h ⊢
  have h2 := CoreState.vreg_congr h.2.2.1
  have hc : (((s.actingAt p b).m.effect r ((s.actingAt p b).c.effect r r (s.ldWord p (s.actingAt p b).c)) (s.pc p)
      (s.vldLine p (s.actingAt p b).m)).vregs) =
      ((s.actingAt p b).m.effect (s.core p) (s.core p) (s.pc p) (s.vldLine p (s.actingAt p b).m)).vregs := by
    have he := (CtlOp.effect_parts (s.actingAt p b).c r r (s.ldWord p (s.actingAt p b).c)).1
    cases (s.actingAt p b).m <;> simp [MoveOp.effect, CoreState.setVreg, CoreState.setChan, he, h.2.2.1]
  cases (s.actingAt p b).v <;> simp only [VecOp.effect, VecOp.dest, CoreState.setPreg, CoreState.setVreg, h2] <;>
    (try split) <;> simp [hc]

end parts

end Sys2Proof.Machine
end

