-- ==== Sys2Proof/Laws/Keeps.lean ====
section
/-!
SUPPORT. What every shared operation keeps: the queue and the clock, the fuses that are blown, the canonical form of
memory, and reserved register bits (`State.Keeps`). One lemma per operation, from the smallest on.
-/
namespace Sys2Proof.Machine

/-- No word of a register map has a bit beyond its field's width. -/
def RegsMasked (r : SMap Word) : Prop :=
  ∀ (f : Field) (i : Nat), mget f.resetWord r (f.key i) &&& f.mask = mget f.resetWord r (f.key i)

/-- A queue, a clock, a fuse bank, a memory and a register map that keep those of a state: the queue and the clock are the
same, no fuse is unblown, and memory's form and reserved register bits are kept. -/
structure Kept (s : State) (pending : List Instr) (fc : Nat) (fuses : FusePair) (mem : List Host.Cell) (regs : SMap Word) :
    Prop where
  pending : pending = s.pending
  fc : fc = s.fc
  fuses : s.fuses.Le fuses
  mem : Memory.wf s.mem = true → Memory.wf mem = true
  regs : s.Masked → RegsMasked regs

/-- The second state keeps what `Kept` says of the first. -/
def State.Keeps (s t : State) : Prop := Kept s t.pending t.fc t.fuses t.mem t.regs

/-! ### Fuses -/

theorem slotLe_refl (a : Option (BitVec 512)) : slotLe a a := by cases a <;> simp [slotLe]

theorem slotLe_trans {a b c : Option (BitVec 512)} (h : slotLe a b) (k : slotLe b c) : slotLe a c := by
  cases a <;> cases b <;> cases c <;> simp_all [slotLe]
  rename_i x y z
  rw [← h, BitVec.and_assoc, k]

theorem FuseBank.Le.refl (a : FuseBank) : a.Le a := by
  constructor <;> first | rfl | exact slotLe_refl _ | exact BitVec.le_refl _ | exact BitVec.and_self | exact id

theorem FuseBank.Le.trans {a b c : FuseBank} (h : a.Le b) (k : b.Le c) : a.Le c where
  orderCode := k.orderCode.trans h.orderCode
  holdupFitted := k.holdupFitted.trans h.holdupFitted
  halfPorts := k.halfPorts.trans h.halfPorts
  serial := k.serial.trans h.serial
  defects := k.defects.trans h.defects
  slot0 := k.slot0.trans h.slot0
  slot1 := slotLe_trans h.slot1 k.slot1
  slot2 := slotLe_trans h.slot2 k.slot2
  slot3 := slotLe_trans h.slot3 k.slot3
  lifecycle := BitVec.le_trans h.lifecycle k.lifecycle
  fwCount := BitVec.le_trans h.fwCount k.fwCount
  imageCount := BitVec.le_trans h.imageCount k.imageCount
  enables := k.enables.trans h.enables
  disables := by rw [← h.disables, BitVec.and_assoc, k.disables]
  pairShared := fun x => k.pairShared (h.pairShared x)
  lockPolicy := fun x => k.lockPolicy (h.lockPolicy x)
  lockFreeze := fun x => k.lockFreeze (h.lockFreeze x)
  policy := by rw [← h.policy, BitVec.and_assoc, k.policy]
  secret := by rw [← h.secret, BitVec.and_assoc, k.secret]
  whole := by rw [← h.whole, BitVec.and_assoc, k.whole]

theorem FusePair.Le.refl (a : FusePair) : a.Le a := ⟨.refl _, .refl _⟩

theorem FusePair.Le.trans {a b c : FusePair} (h : a.Le b) (k : b.Le c) : a.Le c := ⟨h.one.trans k.one, h.two.trans k.two⟩

/-- Both fuses of a pair are blown by operations that only blow. -/
theorem FusePair.Le.blow (p : FusePair) {f g : FuseBank → FuseBank} (hf : ∀ b : FuseBank, b.Le (f b))
    (hg : ∀ b : FuseBank, b.Le (g b)) :
    p.Le (p.blow f g) := ⟨hf _, hg _⟩

/-! ### What a fuse operation does to the bank -/

theorem raiseCount_le (old : BitVec 7) (new : Nat) (mask : BitVec 512) : old ≤ raiseCount old new mask := by
  unfold raiseCount
  split
  · exact BitVec.le_refl _
  · rw [BitVec.le_def, BitVec.toNat_ofNat]
    have := old.isLt
    omega

theorem FuseBank.Le.setSlot {b : FuseBank} {i : Nat} {v : Option (BitVec 512)} (h : slotLe (b.slot i) v) :
    b.Le (b.setSlot i v) := by
  unfold FuseBank.setSlot
  split
  · rename_i e; subst e
    exact { FuseBank.Le.refl b with slot1 := h }
  · split
    · rename_i e; subst e
      exact { FuseBank.Le.refl b with slot2 := h }
    · split
      · rename_i e; subst e
        exact { FuseBank.Le.refl b with slot3 := h }
      · exact .refl b

theorem slotLe_or (a : Option (BitVec 512)) (x : BitVec 512) : slotLe a (some (a.getD 0 ||| x)) := by
  cases a with
  | none => trivial
  | some y =>
    simp only [slotLe, Option.getD_some]
    ext i
    simp
    cases y[i] <;> simp

theorem and_or_self {w : Nat} (a b : BitVec w) : a &&& (a ||| b) = a := by
  ext i
  simp
  cases a[i] <;> simp

theorem FuseOp.blow_le (o : FuseOp) (mask : BitVec 512) (b : FuseBank) : b.Le (o.blow mask b) := by
  unfold FuseOp.blow
  lift_lets
  intro bits3 v done
  split
  · split
    · exact .refl b
    · exact { FuseBank.Le.setSlot (slotLe_or (b.slot o.arg) _) with whole := and_or_self _ _ }
  split
  · split
    · rename_i h
      refine { FuseBank.Le.refl b with lifecycle := ?_ }
      simp only [Bool.and_eq_true, decide_eq_true_eq] at h
      have := b.lifecycle.isLt
      rw [BitVec.le_def, BitVec.toNat_ofNat]
      omega
    · exact .refl b
  split
  · exact { FuseBank.Le.refl b with fwCount := raiseCount_le _ _ _ }
  split
  · exact { FuseBank.Le.refl b with imageCount := raiseCount_le _ _ _ }
  split
  · exact { FuseBank.Le.refl b with disables := and_or_self _ _ }
  split
  · exact { FuseBank.Le.refl b with pairShared := fun h => by simp [h] }
  split
  · refine { FuseBank.Le.refl b with policy := ?_, lockPolicy := fun h => ?_, lockFreeze := fun h => ?_ }
    · simp [h]
    · simp [h]
    · dsimp only
      split
      · exact and_or_self _ _
      · exact BitVec.and_self
  · exact .refl b

theorem blowAll_le (ops : List FuseOp) (b : FuseBank) : b.Le (blowAll ops b) := by
  unfold blowAll
  induction ops generalizing b with
  | nil => exact .refl b
  | cons o ops ih => exact (o.blow_le _ b).trans (ih _)

theorem blowSome_le (ops : List FuseOp) (k : Nat) (mask : BitVec 512) (b : FuseBank) : b.Le (blowSome ops k mask b) := by
  unfold blowSome
  split
  · exact blowAll_le _ _
  · exact (blowAll_le _ _).trans (FuseOp.blow_le _ _ _)

/-! ### Ways of keeping -/

namespace State

theorem Keeps.refl (s : State) : s.Keeps s := ⟨rfl, rfl, .refl _, id, id⟩

theorem Keeps.masked {s t : State} (h : s.Keeps t) (k : s.Masked) : t.Masked := h.regs k

theorem Keeps.trans {a b c : State} (h : a.Keeps b) (k : b.Keeps c) : a.Keeps c :=
  ⟨k.pending.trans h.pending, k.fc.trans h.fc, h.fuses.trans k.fuses, fun x => k.mem (h.mem x), fun x => k.regs (h.masked x)⟩

variable {s0 s t : State}

theorem Keeps.of (h : s0.Keeps s) : Kept s0 s.pending s.fc s.fuses s.mem s.regs := h

theorem Keeps.memWrite (h : s0.Keeps s) (a : Nat) (bs : List Byte) :
    Kept s0 s.pending s.fc s.fuses (memWrite s.mem a bs) s.regs :=
  ⟨h.pending, h.fc, h.fuses, fun x => memWrite_wf _ _ _ (h.mem x), h.regs⟩

theorem Keeps.memZero (h : s0.Keeps s) (a n : Nat) : Kept s0 s.pending s.fc s.fuses (memZero s.mem a n) s.regs :=
  ⟨h.pending, h.fc, h.fuses, fun x => memZero_wf _ _ _ (h.mem x), h.regs⟩

theorem Keeps.memNil (h : s0.Keeps s) : Kept s0 s.pending s.fc s.fuses [] s.regs :=
  ⟨h.pending, h.fc, h.fuses, fun _ => rfl, h.regs⟩

theorem Keeps.raised (h : s0.Keeps s) {b : FusePair} (k : s.fuses.Le b) : Kept s0 s.pending s.fc b s.mem s.regs :=
  ⟨h.pending, h.fc, h.fuses.trans k, h.mem, h.regs⟩

theorem Keeps.ite {c : Prop} [Decidable c] (h : s0.Keeps s) (k : s0.Keeps t) : s0.Keeps (if c then s else t) := by
  split <;> assumption

theorem Keeps.bif {c : Bool} (h : s0.Keeps s) (k : s0.Keeps t) : s0.Keeps (bif c then s else t) := by
  cases c <;> assumption

theorem Keeps.pick {w : Way} {f : Nat → State} {u : State} (h : s0.Keeps s) (k : ∀ r, s0.Keeps (f r)) (l : s0.Keeps u) :
    s0.Keeps (w.pick s f u) := by
  cases w
  · exact h
  · exact k _
  · exact l

theorem Keeps.elim {α : Type} {o : Option α} {f : α → State} (h : s0.Keeps s) (k : ∀ x, s0.Keeps (f x)) :
    s0.Keeps (o.elim s f) := by
  cases o with
  | none => exact h
  | some x => exact k x

theorem Keeps.foldl {α : Type} {f : State → α → State} {xs : List α} (h : s0.Keeps s)
    (k : ∀ y x, s0.Keeps y → s0.Keeps (f y x)) : s0.Keeps (xs.foldl f s) := by
  induction xs generalizing s with
  | nil => exact h
  | cons x xs ih => exact ih (k _ _ h)

theorem Keeps.fstOf {α : Type} {x : State × α} {a : α} (e : x = (s, a)) (h : s0.Keeps x.1) : s0.Keeps s := by
  rw [e] at h; exact h

theorem Keeps.sndOf {α : Type} {x : α × State} {a : α} (e : x = (a, s)) (h : s0.Keeps x.2) : s0.Keeps s := by
  rw [e] at h; exact h

/-! Results that are a state and more. -/

variable {α β : Type}

theorem Keeps.ite1 {c : Prop} [Decidable c] {x y : State × α} (h : s0.Keeps x.1) (k : s0.Keeps y.1) :
    s0.Keeps (if c then x else y).1 := by split <;> assumption

theorem Keeps.foldl1 {f : State × α → β → State × α} {xs : List β} {a : State × α} (h : s0.Keeps a.1)
    (k : ∀ y x, s0.Keeps y.1 → s0.Keeps (f y x).1) : s0.Keeps (xs.foldl f a).1 := by
  induction xs generalizing a with
  | nil => exact h
  | cons x xs ih => exact ih (k _ _ h)

/-! ### The smallest operations -/

theorem Keeps.putWord (h : s0.Keeps s) (f : Field) (v : Word) (i : Nat) : s0.Keeps (s.putWord f v i) := by
  refine h.trans ⟨rfl, rfl, .refl _, id, fun x g j => ?_⟩
  have hx := x g j
  by_cases e : f.key i = g.key j
  · have hf : f = g := Field.num_inj (by rw [← f.key_mod i, ← g.key_mod j, e])
    subst hf
    simp only [State.putWord, e, mget_mset_same]
    exact f.mask_mask v
  · simpa [State.word, State.putWord, mget_mset_any _ _ _ _ e] using hx

theorem Keeps.clearField (h : s0.Keeps s) (f : Field) : s0.Keeps (s.clearField f) := by
  refine h.trans ⟨rfl, rfl, .refl _, id, fun x g j => ?_⟩
  have hx := x g j
  simp only [State.word, State.clearField, mget_filter _ _ (fun k => k % 512 != f.num)] at hx ⊢
  split
  · exact hx
  · exact g.reset_masked

theorem Keeps.put (h : s0.Keeps s) (f : Field) (v i : Nat) : s0.Keeps (s.put f v i) := h.putWord _ _ _

theorem Keeps.puts (h : s0.Keeps s) (i : Nat) (fs : List (Field × Nat)) : s0.Keeps (s.puts i fs) :=
  h.foldl fun _ _ k => k.put _ _ _

theorem Keeps.clears (h : s0.Keeps s) (i : Nat) (fs : List Field) : s0.Keeps (s.clears i fs) :=
  h.foldl fun _ _ k => k.putWord _ _ _

theorem Keeps.each {xs : List α} {f : State → α → State} (h : s0.Keeps s) (k : ∀ y x, s0.Keeps y → s0.Keeps (f y x)) :
    s0.Keeps (s.each xs f) := h.foldl k

theorem Keeps.fresh {w : Nat} (h : s0.Keeps s) (f : Nat → BitVec w) : s0.Keeps (s.fresh f).2 :=
  h

theorem Keeps.useFree (h : s0.Keeps s) (n : Nat) : s0.Keeps (s.useFree n) := h

/-! ### Register fields, interrupts, the log -/

theorem Keeps.putSat {s : State} (h : s0.Keeps s) (f : Field) (v : Nat) (i : Nat) :
    s0.Keeps (s.putSat f v i) := by
  unfold State.putSat
  repeat' (with_reducible first | assumption | refine Keeps.put ?_ ..)

theorem Keeps.bump {s : State} (h : s0.Keeps s) (f : Field) (n : Nat) (i : Nat) : s0.Keeps (s.bump f n i) := by
  unfold State.bump
  repeat' (with_reducible first | assumption | refine Keeps.putSat ?_ ..)

theorem Keeps.count {s : State} (h : s0.Keeps s) (f : Field) (n : Nat) (i : Nat) : s0.Keeps (s.count f n i) := by
  unfold State.count
  repeat' (with_reducible first | assumption | refine Keeps.put ?_ ..)

theorem Keeps.flag {s : State} (h : s0.Keeps s) (f : Field) (b : Bool) (i : Nat) : s0.Keeps (s.flag f b i) := by
  unfold State.flag
  repeat' (with_reducible first | assumption | refine Keeps.put ?_ ..)

theorem Keeps.setCore {s : State} (h : s0.Keeps s) (p : Nat) (c : CoreState) : s0.Keeps (s.setCore p c) := h

theorem Keeps.setRouter {s : State} (h : s0.Keeps s) (r : Nat) (x : Router) : s0.Keeps (s.setRouter r x) := h

theorem Keeps.setBarrier {s : State} (h : s0.Keeps s) (k : Nat) (b : BarrierState) :
    s0.Keeps (s.setBarrier k b) := h

theorem Keeps.setUnit {s : State} (h : s0.Keeps s) (u : Nat) (e : UnitErr) : s0.Keeps (s.setUnit u e) := h

theorem Keeps.setStack {s : State} (h : s0.Keeps s) (c : Nat) (x : Stacked) : s0.Keeps (s.setStack c x) := h

theorem Keeps.setPort {s : State} (h : s0.Keeps s) (n : Nat) (p : Port) : s0.Keeps (s.setPort n p) := h

theorem Keeps.setRegion {s : State} (h : s0.Keeps s) (r : Nat) (x : Region) : s0.Keeps (s.setRegion r x) := h

theorem Keeps.abandonBarriers {s : State} (h : s0.Keeps s) : s0.Keeps s.abandonBarriers := h

theorem Keeps.setStep {s : State} (h : s0.Keeps s) (n : Nat) : s0.Keeps (s.setStep n) := by
  unfold State.setStep
  repeat' (with_reducible first | assumption | refine Keeps.put ?_ ..)

theorem Keeps.msixSend {s : State} (h : s0.Keeps s) (v : Nat) : s0.Keeps (s.msixSend v) := by
  unfold State.msixSend
  repeat' first
    | (with_reducible first | assumption | refine Keeps.ite ?_ ?_)
    | (show Kept s0 _ _ _ _ _; dsimp only; with_reducible refine Keeps.of ?_)

theorem Keeps.raise {s : State} (h : s0.Keeps s) (src : Nat) : s0.Keeps (s.raise src) := by
  unfold State.raise
  repeat' first
    | (intro y; refine (fun hy : s0.Keeps y => ?_) ?_; on_goal 2 => dsimp only [y]; on_goal 1 => clear_value y)
    | (intro y; try clear_value y)
    | lift_lets
    | (with_reducible first
        | assumption | refine Keeps.ite ?_ ?_ | refine Keeps.msixSend ?_ .. | refine Keeps.putWord ?_ ..)

theorem Keeps.event {s : State} (h : s0.Keeps s) (code cls loc detail value : Nat) :
    s0.Keeps (s.event code cls loc detail value) := by
  unfold State.event
  repeat' first
    | (intro y; refine (fun hy : s0.Keeps y => ?_) ?_; on_goal 2 => dsimp only [y]; on_goal 1 => clear_value y)
    | (intro y; try clear_value y)
    | lift_lets
    | (with_reducible first
        | assumption | refine Keeps.ite ?_ ?_ | refine Keeps.bif ?_ ?_ | refine Keeps.bump ?_ ..
        | refine Keeps.raise ?_ ..)
    | (show Kept s0 _ _ _ _ _; dsimp only; with_reducible refine Keeps.of ?_)

theorem Keeps.crossEvent {s : State} (h : s0.Keeps s) (reg : Nat) {go : State → State}
    (k : ∀ y, s0.Keeps y → s0.Keeps (go y)) : s0.Keeps (s.crossEvent reg go) := by
  unfold State.crossEvent
  lift_lets
  intro g y
  have hy : s0.Keeps y := Keeps.setRegion h ..
  clear_value y
  exact .ite h (k _ (.ite (.event hy ..) hy))

theorem Keeps.ignoredWrite {s : State} (h : s0.Keeps s) (offset : Nat) : s0.Keeps (s.ignoredWrite offset) := by
  unfold State.ignoredWrite
  repeat' (with_reducible first | assumption | refine Keeps.event ?_ ..)

theorem Keeps.alert {s : State} (h : s0.Keeps s) : s0.Keeps s.alert := by
  unfold State.alert
  repeat' (with_reducible first | assumption | refine Keeps.ite ?_ ?_ | refine Keeps.put ?_ ..)

/-! ### Memory -/

theorem Keeps.correct {s : State} (h : s0.Keeps s) (k pos : Nat) : s0.Keeps (s.correct k pos) := by
  unfold State.correct
  repeat' first
    | lift_lets
    | (with_reducible first
        | assumption | refine Keeps.ite ?_ ?_ | refine Keeps.bump ?_ .. | refine Keeps.event ?_ ..
        | refine Keeps.setUnit ?_ ..)

theorem Keeps.uncorrectable {s : State} (h : s0.Keeps s) (k : Nat) : s0.Keeps (s.uncorrectable k) := by
  unfold State.uncorrectable
  repeat' first
    | lift_lets
    | (with_reducible first
        | assumption | refine Keeps.alert ?_ .. | refine Keeps.bump ?_ .. | refine Keeps.event ?_ ..
        | refine Keeps.raise ?_ .. | refine Keeps.setUnit ?_ ..)
    | (show Kept s0 _ _ _ _ _; dsimp only; with_reducible refine Keeps.of ?_)

theorem Keeps.meet {s : State} (h : s0.Keeps s) (k : Nat) : s0.Keeps (s.meet k).1 := by
  unfold State.meet
  repeat' first
    | lift_lets
    | (with_reducible first
        | assumption | refine Keeps.ite1 ?_ ?_ | refine Keeps.correct ?_ .. | refine Keeps.fresh ?_ _
        | refine Keeps.uncorrectable ?_ ..)
    | (show Kept s0 _ _ _ _ _; dsimp only; with_reducible refine Keeps.of ?_)
    | split

theorem Keeps.readPhys {s : State} (h : s0.Keeps s) (a n : Nat) : s0.Keeps (s.readPhys a n).1 := by
  unfold State.readPhys
  repeat' first
    | lift_lets
    | (with_reducible first | assumption | refine Keeps.foldl1 ?_ fun _ _ _ => ?_ | refine Keeps.meet ?_ ..)
    | (show Kept s0 _ _ _ _ _; dsimp only; with_reducible refine Keeps.of ?_)
    | split

theorem Keeps.closeWindows {s : State} (h : s0.Keeps s) (a n : Nat) : s0.Keeps (s.closeWindows a n) := by
  unfold State.closeWindows
  repeat' first
    | (intro y; try clear_value y)
    | lift_lets
    | (with_reducible first | assumption | refine Keeps.ite ?_ ?_ | refine Keeps.setStack ?_ ..)

theorem Keeps.storeGood {s : State} (h : s0.Keeps s) (a : Nat) (bs : List Byte) :
    s0.Keeps (s.storeGood a bs) := by
  unfold State.storeGood
  repeat' first
    | (with_reducible first | assumption | refine Keeps.closeWindows ?_ ..)
    | (show Kept s0 _ _ _ _ _; dsimp only; with_reducible first | refine Keeps.memWrite ?_ .. | refine Keeps.of ?_)

theorem Keeps.storeNow {s : State} (h : s0.Keeps s) (a : Nat) (bs : List Byte) : s0.Keeps (s.storeNow a bs) := by
  unfold State.storeNow
  repeat' (with_reducible first
    | assumption | refine Keeps.ite ?_ ?_ | refine Keeps.foldl ?_ fun _ _ _ => ?_ | refine Keeps.storeGood ?_ ..
    | refine Keeps.uncorrectable ?_ ..)

theorem Keeps.store {s : State} (h : s0.Keeps s) (a : Nat) (bs : List Byte) : s0.Keeps (s.store a bs) := by
  unfold State.store
  repeat' first
    | (intro y; try clear_value y)
    | lift_lets
    | (with_reducible first
        | assumption | refine Keeps.ite ?_ ?_ | refine Keeps.foldl ?_ fun _ _ _ => ?_ | refine Keeps.storeNow ?_ ..)
    | (show Kept s0 _ _ _ _ _; dsimp only; with_reducible refine Keeps.of ?_)

theorem Keeps.mergeReads {s : State} (h : s0.Keeps s) (ks : List Nat) : s0.Keeps (s.mergeReads ks).1 := by
  unfold State.mergeReads
  repeat' first
    | lift_lets
    | (with_reducible first | assumption | refine Keeps.foldl1 ?_ fun _ _ _ => ?_ | refine Keeps.meet ?_ ..)
    | (show Kept s0 _ _ _ _ _; dsimp only; with_reducible first | refine Keeps.memWrite ?_ .. | refine Keeps.of ?_)
    | split

theorem Keeps.writePhys {s : State} (h : s0.Keeps s) (a : Nat) (bs : List Byte) :
    s0.Keeps (s.writePhys a bs).1 := by
  unfold State.writePhys
  repeat' first
    | (intro y; refine (fun hy : s0.Keeps y.1 => ?_) ?_; on_goal 2 => dsimp only [y]; on_goal 1 => clear_value y)
    | lift_lets
    | (with_reducible first
        | assumption | refine Keeps.ite1 ?_ ?_ | refine Keeps.ite ?_ ?_ | refine Keeps.foldl ?_ fun _ _ _ => ?_
        | refine Keeps.mergeReads ?_ .. | refine Keeps.store ?_ ..)

theorem Keeps.fillZero {s : State} (h : s0.Keeps s) (a n : Nat) : s0.Keeps (s.fillZero a n) := by
  unfold State.fillZero
  repeat' first
    | lift_lets
    | with_reducible assumption
    | (show Kept s0 _ _ _ _ _; dsimp only; with_reducible first | refine Keeps.memZero ?_ .. | refine Keeps.of ?_)

/-! ### The defect map -/

theorem Keeps.softAdd {s : State} (h : s0.Keeps s) (d : Word) (gone : Word → Bool) :
    s0.Keeps (s.softAdd d gone) := by
  unfold State.softAdd
  repeat' first
    | (intro y; refine (fun hy : s0.Keeps y => ?_) ?_; on_goal 2 => dsimp only [y]; on_goal 1 => clear_value y)
    | (intro y; try clear_value y)
    | lift_lets
    | (with_reducible first | assumption | refine Keeps.event ?_ ..)
    | (show Kept s0 _ _ _ _ _; dsimp only; with_reducible refine Keeps.of ?_)

theorem Keeps.addDefect {s t : State} (h : s0.Keeps s) {d : Word} (e : s.addDefect d = some t) : s0.Keeps t := by
  have k := fun d f => h.softAdd d f
  unfold State.addDefect at e
  dsimp only at e
  repeat' split at e
  all_goals first | (cases e; done) | (cases e; apply k)

theorem Keeps.firmwareDefect {s : State} (h : s0.Keeps s) (kind cause loc : Nat) :
    s0.Keeps (s.firmwareDefect kind cause loc) := by
  unfold State.firmwareDefect
  cases e : s.addDefect (defEntry kind cause loc) with
  | none => exact h
  | some t => exact h.addDefect e

/-! ### Fuses -/

theorem Keeps.blowPart {s : State} (h : s0.Keeps s) (k : Nat) : s0.Keeps (s.blowPart k) := by
  exact Keeps.raised ((h.fresh Config.fuseMask).fresh Config.fuseMask) (.blow _ (blowSome_le _ _ _) (blowSome_le _ _ _))

theorem Keeps.stopFuses {s : State} (h : s0.Keeps s) : s0.Keeps s.stopFuses := by
  unfold State.stopFuses
  split
  · exact h
  · exact (h.fresh Config.fuseStop).blowPart _

/-! ### Jobs, transactions, faults -/

theorem Keeps.setCap {s : State} (h : s0.Keeps s) (w : Nat) : s0.Keeps (s.setCap w) := by
  unfold State.setCap
  repeat' first
    | (intro y; refine (fun hy : s0.Keeps y => ?_) ?_; on_goal 2 => dsimp only [y]; on_goal 1 => clear_value y)
    | lift_lets
    | (with_reducible first | assumption | refine Keeps.ite ?_ ?_ | refine Keeps.put ?_ ..)

theorem Keeps.setScrub {s : State} (h : s0.Keeps s) : s0.Keeps s.setScrub := by
  unfold State.setScrub
  repeat' first
    | (intro y; try clear_value y)
    | lift_lets
    | (with_reducible first | assumption | refine Keeps.put ?_ ..)

theorem Keeps.setProfile {s : State} (h : s0.Keeps s) (p : Nat) : s0.Keeps (s.setProfile p) := by
  unfold State.setProfile
  repeat' first
    | (intro y; refine (fun hy : s0.Keeps y => ?_) ?_; on_goal 2 => dsimp only [y]; on_goal 1 => clear_value y)
    | (intro y; try clear_value y)
    | lift_lets
    | (with_reducible first
        | assumption | refine Keeps.ite ?_ ?_ | refine Keeps.put ?_ .. | refine Keeps.setCap ?_ ..
        | refine Keeps.setScrub ?_ ..)

theorem Keeps.setTag {s : State} (h : s0.Keeps s) (t : Nat) (x : TagState) : s0.Keeps (s.setTag t x) := h

theorem Keeps.mark {s : State} (h : s0.Keeps s) (i : Nat) : s0.Keeps (s.mark i) := h

theorem Keeps.writeTagLine {s : State} (h : s0.Keeps s) (i : Nat) : s0.Keeps (s.writeTagLine i) := by
  unfold State.writeTagLine
  repeat' first
    | (intro y; try clear_value y)
    | lift_lets
    | (with_reducible first | assumption | refine Keeps.ite ?_ ?_ | refine Keeps.store ?_ ..)

theorem Keeps.writeHeader {s : State} (h : s0.Keeps s) (step : Nat) : s0.Keeps (s.writeHeader step) := by
  unfold State.writeHeader
  repeat' (with_reducible first | assumption | refine Keeps.store ?_ ..)

theorem Keeps.tagChanged {s : State} (h : s0.Keeps s) (t n : Nat) : s0.Keeps (s.tagChanged t n) := by
  unfold State.tagChanged
  repeat' first
    | (intro y; try clear_value y)
    | lift_lets
    | (with_reducible first
        | assumption | refine Keeps.ite ?_ ?_ | refine Keeps.mark ?_ .. | refine Keeps.writePhys ?_ ..
        | refine Keeps.writeTagLine ?_ ..)

theorem Keeps.setTxn {s : State} (h : s0.Keeps s) (sc : Nat) (t : Txn) : s0.Keeps (s.setTxn sc t) := h

theorem Keeps.endTxn {s : State} (h : s0.Keeps s) (sc outcome code item : Nat) :
    s0.Keeps (s.endTxn sc outcome code item) := by
  unfold State.endTxn
  repeat' first
    | (intro y; refine (fun hy : s0.Keeps y => ?_) ?_; on_goal 2 => dsimp only [y]; on_goal 1 => clear_value y)
    | lift_lets
    | (with_reducible first | assumption | refine Keeps.event ?_ .. | refine Keeps.puts ?_ ..)
    | (show Kept s0 _ _ _ _ _; dsimp only; with_reducible refine Keeps.of ?_)

theorem Keeps.applyNumItem {s : State} (h : s0.Keeps s) (k : Word) (v : Nat) : s0.Keeps (s.applyNumItem k v) := by
  unfold State.applyNumItem
  repeat' first
    | (intro y; try clear_value y)
    | lift_lets
    | (with_reducible first
        | assumption | refine Keeps.put ?_ .. | refine Keeps.setTag ?_ .. | refine Keeps.tagChanged ?_ ..)
    | split

theorem Keeps.pairEvent {s : State} (h : s0.Keeps s) (m detail : Nat) : s0.Keeps (s.pairEvent m detail) := by
  unfold State.pairEvent
  repeat' (with_reducible first | assumption | refine Keeps.event ?_ ..)

theorem Keeps.tell {s : State} (h : s0.Keeps s) (m : Nat) (msg : PartnerMsg) : s0.Keeps (s.tell m msg) := by
  unfold State.tell
  repeat' first
    | (intro y; refine (fun hy : s0.Keeps y => ?_) ?_; on_goal 2 => dsimp only [y]; on_goal 1 => clear_value y)
    | (intro y; try clear_value y)
    | lift_lets
    | (with_reducible first
        | assumption | refine Keeps.ite ?_ ?_)
    | (show Kept s0 _ _ _ _ _; dsimp only; with_reducible refine Keeps.of ?_)
    | split

theorem Keeps.reportTags {s : State} (h : s0.Keeps s) : s0.Keeps s.reportTags := by
  unfold State.reportTags
  repeat' first
    | (with_reducible first
        | assumption | refine Keeps.ite ?_ ?_ | refine Keeps.tell ?_ ..)
    | split

theorem Keeps.beginPairing {s : State} (h :
    s0.Keeps s) (c : Option Ctx) (m : Nat) (commit : Bool) : s0.Keeps (s.beginPairing c m commit) := by
  unfold State.beginPairing
  repeat' first
    | (with_reducible first
        | assumption | refine Keeps.ite ?_ ?_ | refine Keeps.tell ?_ ..)
    | (show Kept s0 _ _ _ _ _; dsimp only; with_reducible refine Keeps.of ?_)

theorem Keeps.applyTxn {s : State} (h : s0.Keeps s) (sc : Nat) : s0.Keeps (s.applyTxn sc) := by
  unfold State.applyTxn
  repeat' first
    | (intro y; refine (fun hy : s0.Keeps y => ?_) ?_; on_goal 2 => dsimp only [y]; on_goal 1 => clear_value y)
    | (intro y; try clear_value y)
    | lift_lets
    | (with_reducible first
        | assumption | refine Keeps.ite ?_ ?_ | refine Keeps.applyNumItem ?_ .. | refine Keeps.beginPairing ?_ ..
        | refine Keeps.each ?_ fun _ _ _ => ?_ | refine Keeps.endTxn ?_ .. | refine Keeps.pairEvent ?_ ..
        | refine Keeps.put ?_ .. | refine Keeps.puts ?_ .. | refine Keeps.setProfile ?_ ..)
    | (show Kept s0 _ _ _ _ _; dsimp only; with_reducible refine Keeps.of ?_)
    | split

theorem Keeps.applyWhere {s : State} (h : s0.Keeps s) (due : Nat → Bool) : s0.Keeps (s.applyWhere due) := by
  unfold State.applyWhere
  repeat' first
    | (intro y; refine (fun hy : s0.Keeps y => ?_) ?_; on_goal 2 => dsimp only [y]; on_goal 1 => clear_value y)
    | lift_lets
    | (with_reducible first
        | assumption | refine Keeps.ite ?_ ?_ | refine Keeps.applyTxn ?_ .. | refine Keeps.each ?_ fun _ _ _ => ?_
        | refine Keeps.raise ?_ ..)

theorem Keeps.applyPending {s : State} (h : s0.Keeps s) : s0.Keeps s.applyPending := by
  unfold State.applyPending
  repeat' (with_reducible first | assumption | refine Keeps.applyWhere ?_ ..)

theorem Keeps.stopCores {s : State} (h : s0.Keeps s) : s0.Keeps s.stopCores := by
  unfold State.stopCores
  repeat' first
    | (intro y; refine (fun hy : s0.Keeps y => ?_) ?_; on_goal 2 => dsimp only [y]; on_goal 1 => clear_value y)
    | (intro y; try clear_value y)
    | lift_lets
    | (with_reducible first
        | assumption | refine Keeps.ite ?_ ?_ | refine Keeps.each ?_ fun _ _ _ => ?_ | refine Keeps.put ?_ ..
        | refine Keeps.puts ?_ .. | refine Keeps.setCore ?_ ..)

theorem Keeps.discardWork {s : State} (h : s0.Keeps s) : s0.Keeps s.discardWork := by
  unfold State.discardWork
  repeat' first
    | (intro y; try clear_value y)
    | lift_lets
    | (with_reducible first | assumption | refine Keeps.each ?_ fun _ _ _ => ?_ | refine Keeps.setCore ?_ ..)

theorem Keeps.endSteps {s : State} (h : s0.Keeps s) : s0.Keeps s.endSteps := by
  unfold State.endSteps
  repeat' first
    | (with_reducible first | assumption | refine Keeps.put ?_ ..)
    | (show Kept s0 _ _ _ _ _; dsimp only; with_reducible refine Keeps.of ?_)

theorem Keeps.endJob {s : State} (h : s0.Keeps s) : s0.Keeps s.endJob := by
  unfold State.endJob
  repeat' first
    | (with_reducible first | assumption | refine Keeps.abandonBarriers ?_ .. | refine Keeps.endSteps ?_ ..)
    | (show Kept s0 _ _ _ _ _; dsimp only; with_reducible refine Keeps.of ?_)

theorem Keeps.stopJob {s : State} (h : s0.Keeps s) : s0.Keeps s.stopJob := by
  unfold State.stopJob
  repeat' (with_reducible first
    | assumption | refine Keeps.applyPending ?_ .. | refine Keeps.endJob ?_ .. | refine Keeps.stopCores ?_ ..)

theorem Keeps.showDrain {s : State} (h : s0.Keeps s) : s0.Keeps s.showDrain := by
  unfold State.showDrain
  repeat' first
    | (intro y; refine (fun hy : s0.Keeps y => ?_) ?_; on_goal 2 => dsimp only [y]; on_goal 1 => clear_value y)
    | (intro y; try clear_value y)
    | lift_lets
    | (with_reducible first
        | assumption | refine Keeps.ite ?_ ?_ | refine Keeps.flag ?_ .. | refine Keeps.put ?_ ..)
    | split

theorem Keeps.dropDeferred {s : State} (h : s0.Keeps s) : s0.Keeps s.dropDeferred := by
  unfold State.dropDeferred
  repeat' first
    | (with_reducible first
        | assumption | refine Keeps.ite ?_ ?_ | refine Keeps.event ?_ .. | refine Keeps.showDrain ?_ ..)
    | (show Kept s0 _ _ _ _ _; dsimp only; with_reducible refine Keeps.of ?_)
    | split

theorem Keeps.addFault {s : State} (h : s0.Keeps s) : s0.Keeps s.addFault := h

theorem Keeps.classJ {s : State} (h : s0.Keeps s) (cause region : Nat) : s0.Keeps (s.classJ cause region) := by
  unfold State.classJ
  repeat' first
    | (intro y; refine (fun hy : s0.Keeps y => ?_) ?_; on_goal 2 => dsimp only [y]; on_goal 1 => clear_value y)
    | (intro y; try clear_value y)
    | lift_lets
    | (with_reducible first
        | assumption | refine Keeps.ite ?_ ?_ | refine Keeps.addFault ?_ .. | refine Keeps.alert ?_ ..
        | refine Keeps.bump ?_ .. | refine Keeps.discardWork ?_ .. | refine Keeps.dropDeferred ?_ ..
        | refine Keeps.event ?_ .. | refine Keeps.flag ?_ .. | refine Keeps.puts ?_ .. | refine Keeps.raise ?_ ..
        | refine Keeps.stopJob ?_ ..)
    | (show Kept s0 _ _ _ _ _; dsimp only; with_reducible refine Keeps.of ?_)

theorem Keeps.trap {s : State} (h : s0.Keeps s) (p cause slot info pc : Nat) :
    s0.Keeps (s.trap p cause slot info pc) := by
  unfold State.trap
  repeat' first
    | (intro y; refine (fun hy : s0.Keeps y => ?_) ?_; on_goal 2 => dsimp only [y]; on_goal 1 => clear_value y)
    | lift_lets
    | (with_reducible first | assumption | refine Keeps.classJ ?_ .. | refine Keeps.puts ?_ ..)

theorem Keeps.checkComplete {s : State} (h : s0.Keeps s) : s0.Keeps s.checkComplete := by
  unfold State.checkComplete
  repeat' first
    | lift_lets
    | (with_reducible first
        | assumption | refine Keeps.ite ?_ ?_ | refine Keeps.applyPending ?_ .. | refine Keeps.dropDeferred ?_ ..
        | refine Keeps.endJob ?_ .. | refine Keeps.raise ?_ ..)

theorem Keeps.moduleReset {s : State} (h : s0.Keeps s) (cause : Nat) : s0.Keeps (s.moduleReset cause) := by
  have k := h.stopFuses
  unfold State.moduleReset
  refine Keeps.flag (Keeps.flag (Keeps.flag (Keeps.put ?_ ..) ..) ..) ..
  refine ⟨k.pending, k.fc, k.fuses.trans ?_, fun _ => rfl, fun _ f i => f.reset_masked⟩
  dsimp only
  split
  · have e (b : FuseBank) : b.Le { b with secret := BitVec.allOnes 256 } :=
      { FuseBank.Le.refl b with secret := BitVec.and_allOnes }
    exact .blow _ e e
  · exact .refl _

theorem Keeps.flushLog {s : State} (h : s0.Keeps s) : s0.Keeps s.flushLog := h

theorem Keeps.classM {s : State} (h : s0.Keeps s) (cause : Nat) : s0.Keeps (s.classM cause) := by
  unfold State.classM
  repeat' (with_reducible first
    | assumption | refine Keeps.addFault ?_ .. | refine Keeps.event ?_ .. | refine Keeps.flushLog ?_ ..
    | refine Keeps.moduleReset ?_ ..)

end State

end Sys2Proof.Machine
end

