-- ==== Sys2Proof/Laws/KeepsCore.lean ====
section
/-!
SUPPORT. What the shared operations keep (`State.Keeps`, Laws/Keeps.lean), continued: cores, their arrays and stream engines, the mesh and the memories.
-/
namespace Sys2Proof.Machine

namespace State

variable {s0 : State}

/-! ### Flags -/

theorem Keeps.nanRecord {s : State} (h : s0.Keeps s) (p unit slot pc desc tag : Nat) :
    s0.Keeps (s.nanRecord p unit slot pc desc tag) := by
  unfold State.nanRecord
  repeat' first
    | (intro y; refine (fun hy : s0.Keeps y => ?_) ?_; on_goal 2 => dsimp only [y]; on_goal 1 => clear_value y)
    | (intro y; try clear_value y)
    | lift_lets
    | (with_reducible first | assumption | refine Keeps.ite ?_ ?_ | refine Keeps.puts ?_ ..)
    | (show Kept s0 _ _ _ _ _; dsimp only; with_reducible refine Keeps.of ?_)

theorem Keeps.nan {s : State} (h : s0.Keeps s) (p unit slot pc desc tag : Nat) :
    s0.Keeps (s.nan p unit slot pc desc tag) := by
  unfold State.nan
  repeat' first
    | (intro y; refine (fun hy : s0.Keeps y => ?_) ?_; on_goal 2 => dsimp only [y]; on_goal 1 => clear_value y)
    | lift_lets
    | (with_reducible first
        | assumption | refine Keeps.ite ?_ ?_ | refine Keeps.nanRecord ?_ .. | refine Keeps.trap ?_ ..)

theorem Keeps.ovf16 {s : State} (h : s0.Keeps s) (p : Nat) (c : Counts) : s0.Keeps (s.ovf16 p c) := by
  unfold State.ovf16
  repeat' (with_reducible first | assumption | refine Keeps.ite ?_ ?_ | refine Keeps.put ?_ ..)

theorem Keeps.report {s : State} (h : s0.Keeps s) (tag : Nat) (c : Counts) : s0.Keeps (s.report tag c) := h

/-! ### The issue of a bundle -/

theorem Keeps.injectAt {s : State} (h : s0.Keeps s) (r i : Nat) (fs : List Flit) :
    s0.Keeps (s.injectAt r i fs) := by
  unfold State.injectAt
  repeat' first
    | lift_lets
    | (with_reducible first | assumption | refine Keeps.each ?_ fun _ _ _ => ?_ | refine Keeps.setRouter ?_ ..)

theorem Keeps.post {s : State} (h : s0.Keeps s) (p bar : Nat) : s0.Keeps (s.post p bar) := by
  unfold State.post
  repeat' first
    | (intro y; refine (fun hy : s0.Keeps y => ?_) ?_; on_goal 2 => dsimp only [y]; on_goal 1 => clear_value y)
    | (intro y; try clear_value y)
    | lift_lets
    | (with_reducible first
        | assumption | refine Keeps.ite ?_ ?_ | refine Keeps.injectAt ?_ .. | refine Keeps.put ?_ ..
        | refine Keeps.setCore ?_ ..)

theorem Keeps.stall {s : State} (h : s0.Keeps s) (p : Nat) (bwait : Bool) : s0.Keeps (s.stall p bwait) := by
  unfold State.stall
  repeat' first
    | (intro y; try clear_value y)
    | lift_lets
    | (with_reducible first
        | assumption | refine Keeps.count ?_ .. | refine Keeps.puts ?_ .. | refine Keeps.setCore ?_ ..)

theorem Keeps.slotReads {s : State} (h : s0.Keeps s) (p : Nat) (c : CoreState) (b : Bundle) :
    s0.Keeps (s.slotReads p c b).1 := by
  unfold State.slotReads
  repeat' first
    | lift_lets
    | (with_reducible first | assumption | refine Keeps.readPhys ?_ ..)
    | (show Kept s0 _ _ _ _ _; dsimp only; with_reducible refine Keeps.of ?_)
    | split

theorem Keeps.slotStores {s : State} (h : s0.Keeps s) (p : Nat) (c : CoreState) (b : Bundle) :
    s0.Keeps (s.slotStores p c b).1 := by
  unfold State.slotStores
  repeat' first
    | lift_lets
    | (with_reducible first | assumption | refine Keeps.writePhys ?_ ..)
    | (show Kept s0 _ _ _ _ _; dsimp only; with_reducible refine Keeps.of ?_)
    | split

theorem Keeps.setPc {s : State} (h : s0.Keeps s) (p a : Nat) : s0.Keeps (s.setPc p a) := by
  unfold State.setPc
  repeat' (with_reducible first | assumption | refine Keeps.put ?_ ..)

theorem Keeps.issueNow {s : State} (h : s0.Keeps s) (p : Nat) (b : Bundle) (t : Nat) :
    s0.Keeps (s.issueNow p b t) := by
  unfold State.issueNow
  repeat' first
    | (intro y; try clear_value y)
    | lift_lets
    | (with_reducible first
        | assumption | refine Keeps.ite ?_ ?_ | refine Keeps.checkComplete ?_ .. | refine Keeps.count ?_ ..
        | refine Keeps.nan ?_ .. | refine Keeps.nanRecord ?_ .. | refine Keeps.post ?_ .. | refine Keeps.put ?_ ..
        | refine Keeps.puts ?_ .. | refine Keeps.setCore ?_ .. | refine Keeps.setPc ?_ .. | refine Keeps.slotReads ?_ ..
        | refine Keeps.slotStores ?_ .. | refine Keeps.trap ?_ .. | refine Keeps.useFree ?_ ..)
    | (show Kept s0 _ _ _ _ _; dsimp only; with_reducible refine Keeps.of ?_)
    | split

theorem Keeps.syncPost {s : State} (h : s0.Keeps s) (p : Nat) (b : Bundle) : s0.Keeps (s.syncPost p b) := by
  unfold State.syncPost
  repeat' first
    | lift_lets
    | (with_reducible first
        | assumption | refine Keeps.ite ?_ ?_ | refine Keeps.post ?_ .. | refine Keeps.setCore ?_ ..)
    | (show Kept s0 _ _ _ _ _; dsimp only; with_reducible refine Keeps.of ?_)
    | split

theorem Keeps.issue {s : State} (h : s0.Keeps s) (p : Nat) (b : Bundle) : s0.Keeps (s.issue p b) := by
  unfold State.issue
  repeat' first
    | (intro y; refine (fun hy : s0.Keeps y => ?_) ?_; on_goal 2 => dsimp only [y]; on_goal 1 => clear_value y)
    | (intro y; try clear_value y)
    | lift_lets
    | (with_reducible first
        | assumption | refine Keeps.ite ?_ ?_ | refine Keeps.count ?_ .. | refine Keeps.issueNow ?_ ..
        | refine Keeps.setCore ?_ .. | refine Keeps.stall ?_ .. | refine Keeps.syncPost ?_ .. | refine Keeps.trap ?_ ..)
    | split

theorem Keeps.issueCtl {s : State} (h : s0.Keeps s) (p : PCore) (g : Guard) (op : CtlOp) :
    s0.Keeps (s.issueCtl p g op) := by
  unfold State.issueCtl
  repeat' (with_reducible first | assumption | refine Keeps.issue ?_ ..)

theorem Keeps.issueMove {s : State} (h : s0.Keeps s) (p : PCore) (g : Guard) (op : MoveOp) :
    s0.Keeps (s.issueMove p g op) := by
  unfold State.issueMove
  repeat' (with_reducible first | assumption | refine Keeps.issue ?_ ..)

theorem Keeps.issueVec {s : State} (h : s0.Keeps s) (p : PCore) (g : Guard) (op : VecOp) :
    s0.Keeps (s.issueVec p g op) := by
  unfold State.issueVec
  repeat' (with_reducible first | assumption | refine Keeps.issue ?_ ..)

theorem Keeps.issueArr {s : State} (h : s0.Keeps s) (p : PCore) (g : Guard) (op : ArrOp) :
    s0.Keeps (s.issueArr p g op) := by
  unfold State.issueArr
  repeat' (with_reducible first | assumption | refine Keeps.issue ?_ ..)

/-! ### The mesh -/

theorem Keeps.enter {s : State} (h : s0.Keeps s) (r input : Nat) (f : Flit) : s0.Keeps (s.enter r input f) := by
  unfold State.enter
  repeat' first
    | (intro y; try clear_value y)
    | lift_lets
    | (with_reducible first | assumption | refine Keeps.setRouter ?_ ..)

theorem Keeps.drop {s : State} (h : s0.Keeps s) (r cause : Nat) : s0.Keeps (s.drop r cause) := by
  unfold State.drop
  repeat' first
    | (intro y; refine (fun hy : s0.Keeps y => ?_) ?_; on_goal 2 => dsimp only [y]; on_goal 1 => clear_value y)
    | (intro y; try clear_value y)
    | lift_lets
    | (with_reducible first
        | assumption | refine Keeps.ite ?_ ?_ | refine Keeps.bump ?_ .. | refine Keeps.classJ ?_ ..
        | refine Keeps.crossEvent ?_ _ fun _ _ => ?_ | refine Keeps.event ?_ .. | refine Keeps.puts ?_ ..)

theorem Keeps.acked {s : State} (h : s0.Keeps s) (owner : Nat) : s0.Keeps (s.acked owner) := by
  unfold State.acked
  repeat' first
    | (intro y; try clear_value y)
    | lift_lets
    | (with_reducible first | assumption | refine Keeps.setCore ?_ ..)
    | split

theorem Keeps.toPort {s : State} (h : s0.Keeps s) (n : Nat) (f : Flit) : s0.Keeps (s.toPort n f) := by
  unfold State.toPort
  repeat' first
    | (intro y; try clear_value y)
    | lift_lets
    | (with_reducible first | assumption | refine Keeps.setPort ?_ ..)

theorem Keeps.ackPort {s : State} (h : s0.Keeps s) (r input n : Nat) (k : FibrePacket) :
    s0.Keeps (s.ackPort r input n k) := by
  unfold State.ackPort
  repeat' first
    | (with_reducible first | assumption | refine Keeps.injectAt ?_ .. | refine Keeps.toPort ?_ ..)
    | split

theorem Keeps.leafAcked {s : State} (h : s0.Keeps s) (t r branch owner : Nat) :
    s0.Keeps (s.leafAcked t r branch owner) := by
  unfold State.leafAcked
  repeat' first
    | (intro y; refine (fun hy : s0.Keeps y => ?_) ?_; on_goal 2 => dsimp only [y]; on_goal 1 => clear_value y)
    | (intro y; try clear_value y)
    | lift_lets
    | (with_reducible first
        | assumption | refine Keeps.ite ?_ ?_ | refine Keeps.acked ?_ .. | refine Keeps.injectAt ?_ ..
        | refine Keeps.setRouter ?_ ..)
    | split

theorem Keeps.acknowledge {s : State} (h : s0.Keeps s) (r input : Nat) (f : Flit) :
    s0.Keeps (s.acknowledge r input f) := by
  unfold State.acknowledge
  repeat' first
    | (with_reducible first
        | assumption | refine Keeps.ite ?_ ?_ | refine Keeps.ackPort ?_ .. | refine Keeps.injectAt ?_ ..
        | refine Keeps.leafAcked ?_ ..)
    | split

theorem Keeps.refusedWrite {s : State} (h : s0.Keeps s) (owner : Nat) : s0.Keeps (s.refusedWrite owner) := by
  unfold State.refusedWrite
  repeat' first
    | (with_reducible first | assumption | refine Keeps.ite ?_ ?_ | refine Keeps.trap ?_ ..)
    | split

theorem Keeps.notePair {s : State} (h : s0.Keeps s) (a : Nat) : s0.Keeps (s.notePair a) := by
  unfold State.notePair
  repeat' first
    | with_reducible assumption
    | (show Kept s0 _ _ _ _ _; dsimp only; with_reducible refine Keeps.of ?_)
    | split

theorem Keeps.storeAt {s : State} (h : s0.Keeps s) (addr : Nat) (bs : List Byte) :
    s0.Keeps (s.storeAt addr bs).1 := by
  unfold State.storeAt
  repeat' first
    | (with_reducible first
        | assumption | refine Keeps.ite1 ?_ ?_ | refine Keeps.notePair ?_ .. | refine Keeps.writePhys ?_ ..)
    | split

/-! ### The stream engine -/

theorem Keeps.fetch {s : State} (h : s0.Keeps s) (got : List (Nat × Option (List Byte))) (a n : Nat) :
    s0.Keeps (s.fetch got a n).1 := by
  unfold State.fetch
  repeat' first
    | lift_lets
    | (with_reducible first
        | assumption | refine Keeps.ite1 ?_ ?_ | refine Keeps.foldl1 ?_ fun _ _ _ => ?_ | refine Keeps.readPhys ?_ ..)
    | split

theorem Keeps.fetchRows {s : State} (h : s0.Keeps s) (got : List (Nat × Option (List Byte))) (addrs : List Nat) (n : Nat) :
    s0.Keeps (s.fetchRows got addrs n).1 := by
  unfold State.fetchRows
  repeat' first
    | lift_lets
    | (with_reducible first | assumption | refine Keeps.foldl1 ?_ fun _ _ _ => ?_ | refine Keeps.fetch ?_ ..)
    | (show Kept s0 _ _ _ _ _; dsimp only; with_reducible refine Keeps.of ?_)
    | split

theorem Keeps.writeRow {s : State} (h : s0.Keeps s) (p ch : Nat) (d : SDesc) (w : Nat × List Byte) :
    s0.Keeps (s.writeRow p ch d w).1 := by
  unfold State.writeRow
  repeat' first
    | (intro y; refine (fun hy : s0.Keeps y.1 => ?_) ?_; on_goal 2 => dsimp only [y]; on_goal 1 => clear_value y)
    | lift_lets
    | (with_reducible first
        | assumption | refine Keeps.ite1 ?_ ?_ | refine Keeps.foldl1 ?_ fun _ _ _ => ?_ | refine Keeps.storeAt ?_ ..)

theorem Keeps.streamTrap {s : State} (h : s0.Keeps s) (p : Nat) (j : StreamJob) (cause sub : Nat) :
    s0.Keeps (s.streamTrap p j cause sub) := by
  unfold State.streamTrap
  repeat' (with_reducible first | assumption | refine Keeps.trap ?_ ..)

theorem Keeps.streamRun {s : State} (h :
    s0.Keeps s) (p ch : Nat) (j : StreamJob) (acks : Nat) (c : Counts) : s0.Keeps (s.streamRun p ch j acks c) := by
  unfold State.streamRun
  repeat' first
    | (intro y; refine (fun hy : s0.Keeps y => ?_) ?_; on_goal 2 => dsimp only [y]; on_goal 1 => clear_value y)
    | (intro y; try clear_value y)
    | lift_lets
    | (with_reducible first
        | assumption | refine Keeps.ite ?_ ?_ | refine Keeps.setCore ?_ ..)
    | (show Kept s0 _ _ _ _ _; dsimp only; with_reducible refine Keeps.of ?_)
    | split

theorem Keeps.streamMove {s : State} (h : s0.Keeps s) (p ch : Nat) (j : StreamJob) :
    s0.Keeps (s.streamMove p ch j) := by
  unfold State.streamMove
  dsimp only
  have k := h.fetchRows j.got (s.rowPlaces j) (j.desc.count0 * fmtBytes j.desc.srcFmt)
  generalize s.fetchRows j.got (s.rowPlaces j) (j.desc.count0 * fmtBytes j.desc.srcFmt) = x at k ⊢
  split
  · exact k.streamTrap ..
  · have l := k.fetchRows j.got (x.1.glazePlaces j) (j.desc.count0 / j.desc.blk)
    generalize x.1.fetchRows j.got (x.1.glazePlaces j) (j.desc.count0 / j.desc.blk) = y at l ⊢
    split
    · exact l.streamTrap ..
    · refine Keeps.ite (.ite (l.nan ..) l) ?_
      generalize hz : List.foldl _ _ _ = z
      have m : s0.Keeps z.1 := by
        subst hz
        exact Keeps.foldl1 (Keeps.ovf16 (.ite (l.nan ..) l) ..) fun y x hy => hy.writeRow ..
      exact Keeps.ite (m.streamTrap ..) ((m.streamRun ..).injectAt ..)

theorem Keeps.streamStart {s : State} (h : s0.Keeps s) (p ch : Nat) (j : StreamJob) :
    s0.Keeps (s.streamStart p ch j) := by
  unfold State.streamStart
  repeat' first
    | (intro y; refine (fun hy : s0.Keeps y => ?_) ?_; on_goal 2 => dsimp only [y]; on_goal 1 => clear_value y)
    | (intro y; try clear_value y)
    | lift_lets
    | (with_reducible first
        | assumption | refine Keeps.ite ?_ ?_ | refine Keeps.injectAt ?_ .. | refine Keeps.setCore ?_ ..
        | refine Keeps.streamMove ?_ .. | refine Keeps.streamRun ?_ .. | refine Keeps.streamTrap ?_ ..)
    | split

theorem Keeps.answered {s : State} (h :
    s0.Keeps s) (owner addr n : Nat) (data : Option (List Byte)) : s0.Keeps (s.answered owner addr n data) := by
  unfold State.answered
  repeat' first
    | (intro y; refine (fun hy : s0.Keeps y => ?_) ?_; on_goal 2 => dsimp only [y]; on_goal 1 => clear_value y)
    | (intro y; try clear_value y)
    | lift_lets
    | (with_reducible first
        | assumption | refine Keeps.ite ?_ ?_ | refine Keeps.setCore ?_ .. | refine Keeps.streamMove ?_ ..)
    | (show Kept s0 _ _ _ _ _; dsimp only; with_reducible refine Keeps.of ?_)
    | split

theorem Keeps.ringAnswer {s : State} (h : s0.Keeps s) (r input : Nat) (f : Flit) (addr n : Nat) :
    s0.Keeps (s.ringAnswer r input f addr n) := by
  unfold State.ringAnswer
  refine Keeps.injectAt ?_ ..
  refine Keeps.foldl1 h fun y x hy => ?_
  split
  · exact hy.readPhys ..
  · exact hy

/-! ### Delivery and grants -/

theorem Keeps.releasedAt {s : State} (h : s0.Keeps s) (bar : Nat) (news : Option News) (p : Nat) :
    s0.Keeps (s.releasedAt bar news p) := by
  unfold State.releasedAt
  repeat' first
    | (intro y; try clear_value y)
    | lift_lets
    | (with_reducible first | assumption | refine Keeps.setCore ?_ .. | refine Keeps.store ?_ ..)
    | split

theorem Keeps.deliver {s : State} (h : s0.Keeps s) (r out : Nat) (f : Flit) : s0.Keeps (s.deliver r out f) := by
  unfold State.deliver
  repeat' first
    | (intro y; refine (fun hy : s0.Keeps y => ?_) ?_; on_goal 2 => dsimp only [y]; on_goal 1 => clear_value y)
    | (intro y; try clear_value y)
    | lift_lets
    | (with_reducible first
        | assumption | refine Keeps.ite ?_ ?_ | refine Keeps.acked ?_ .. | refine Keeps.acknowledge ?_ ..
        | refine Keeps.answered ?_ .. | refine Keeps.drop ?_ .. | refine Keeps.each ?_ fun _ _ _ => ?_
        | refine Keeps.elim ?_ .. | refine Keeps.refusedWrite ?_ .. | refine Keeps.releasedAt ?_ ..
        | refine Keeps.ringAnswer ?_ .. | refine Keeps.storeAt ?_ .. | refine Keeps.writePhys ?_ ..)
    | (show Kept s0 _ _ _ _ _; dsimp only; with_reducible refine Keeps.of ?_)
    | split

theorem Keeps.relay {s : State} (h : s0.Keeps s) (f : Flit) (k : FibrePacket) : s0.Keeps (s.relay f k) := by
  unfold State.relay
  repeat' first
    | (intro y; try clear_value y)
    | lift_lets
    | (with_reducible first | assumption | refine Keeps.ite ?_ ?_ | refine Keeps.setPort ?_ ..)

theorem Keeps.sendFlit {s : State} (h : s0.Keeps s) (r out : Nat) (f : Flit) : s0.Keeps (s.sendFlit r out f) := by
  unfold State.sendFlit
  repeat' first
    | (intro y; refine (fun hy : s0.Keeps y => ?_) ?_; on_goal 2 => dsimp only [y]; on_goal 1 => clear_value y)
    | (intro y; try clear_value y)
    | lift_lets
    | (with_reducible first
        | assumption | refine Keeps.ite ?_ ?_ | refine Keeps.acknowledge ?_ .. | refine Keeps.count ?_ ..
        | refine Keeps.deliver ?_ .. | refine Keeps.drop ?_ .. | refine Keeps.enter ?_ .. | refine Keeps.relay ?_ ..
        | refine Keeps.setRouter ?_ .. | refine Keeps.toPort ?_ ..)
    | split

theorem Keeps.takeInput {s : State} (h : s0.Keeps s) (r i vc : Nat) (f : Flit) :
    s0.Keeps (s.takeInput r i vc f) := by
  unfold State.takeInput
  repeat' first
    | (intro y; try clear_value y)
    | lift_lets
    | (with_reducible first | assumption | refine Keeps.setRouter ?_ ..)

theorem Keeps.popInput {s : State} (h : s0.Keeps s) (r i vc : Nat) : s0.Keeps (s.popInput r i vc) := by
  unfold State.popInput
  repeat' first
    | (intro y; try clear_value y)
    | lift_lets
    | (with_reducible first | assumption | refine Keeps.setRouter ?_ ..)

theorem Keeps.fork {s : State} (h : s0.Keeps s) (r : Nat) (f : Flit) : s0.Keeps (s.fork r f) := by
  unfold State.fork
  repeat' first
    | lift_lets
    | (with_reducible first
        | assumption | refine Keeps.ite ?_ ?_ | refine Keeps.each ?_ fun _ _ _ => ?_ | refine Keeps.sendFlit ?_ ..
        | refine Keeps.setRouter ?_ ..)

theorem Keeps.grantInput {s : State} (h : s0.Keeps s) (r out i vc : Nat) :
    s0.Keeps (s.grantInput r out i vc) := by
  unfold State.grantInput
  repeat' first
    | (intro y; refine (fun hy : s0.Keeps y => ?_) ?_; on_goal 2 => dsimp only [y]; on_goal 1 => clear_value y)
    | lift_lets
    | (with_reducible first
        | assumption | refine Keeps.ite ?_ ?_ | refine Keeps.fork ?_ .. | refine Keeps.popInput ?_ ..
        | refine Keeps.sendFlit ?_ ..)
    | split

theorem Keeps.grantHeld {s : State} (h : s0.Keeps s) (r out vc : Nat) : s0.Keeps (s.grantHeld r out vc) := by
  unfold State.grantHeld
  repeat' first
    | (intro y; try clear_value y)
    | lift_lets
    | (with_reducible first | assumption | refine Keeps.sendFlit ?_ .. | refine Keeps.setRouter ?_ ..)
    | (show Kept s0 _ _ _ _ _; dsimp only; with_reducible refine Keeps.of ?_)
    | split

theorem Keeps.dropStrays {s : State} (h : s0.Keeps s) (r : Nat) : s0.Keeps (s.dropStrays r) := by
  unfold State.dropStrays
  repeat' first
    | lift_lets
    | (with_reducible first
        | assumption | refine Keeps.ite ?_ ?_ | refine Keeps.drop ?_ .. | refine Keeps.each ?_ fun _ _ _ => ?_
        | refine Keeps.fork ?_ .. | refine Keeps.leafAcked ?_ .. | refine Keeps.popInput ?_ ..)
    | (show Kept s0 _ _ _ _ _; dsimp only; with_reducible refine Keeps.of ?_)
    | split

theorem Keeps.grantChannel {s : State} (h : s0.Keeps s) (r out vc : Nat) :
    s0.Keeps (s.grantChannel r out vc) := by
  unfold State.grantChannel
  repeat' first
    | (intro y; try clear_value y)
    | lift_lets
    | (with_reducible first
        | assumption | refine Keeps.ite ?_ ?_ | refine Keeps.grantHeld ?_ .. | refine Keeps.grantInput ?_ ..
        | refine Keeps.setRouter ?_ ..)
    | (show Kept s0 _ _ _ _ _; dsimp only; with_reducible refine Keeps.of ?_)
    | split

theorem Keeps.grant {s : State} (h : s0.Keeps s) (r out : Nat) (floorOnly : Bool) :
    s0.Keeps (s.grant r out floorOnly) := by
  unfold State.grant
  repeat' first
    | (intro y; refine (fun hy : s0.Keeps y => ?_) ?_; on_goal 2 => dsimp only [y]; on_goal 1 => clear_value y)
    | (intro y; have _g : ∀ a, y a = y a := fun _ => rfl; clear _g; dsimp only [y]; clear y)
    | (intro y; try clear_value y)
    | lift_lets
    | (with_reducible first
        | assumption | refine Keeps.ite ?_ ?_ | refine Keeps.count ?_ .. | refine Keeps.dropStrays ?_ ..
        | refine Keeps.each ?_ fun _ _ _ => ?_ | refine Keeps.grantChannel ?_ .. | refine Keeps.setRouter ?_ ..)
    | split

/-! ### The matrix array -/

theorem Keeps.readLocal {s : State} (h : s0.Keeps s) (p off n : Nat) : s0.Keeps (s.readLocal p off n).1 := by
  unfold State.readLocal
  repeat' first
    | (with_reducible first | assumption | refine Keeps.readPhys ?_ ..)
    | split

theorem Keeps.readLines {s : State} (h : s0.Keeps s) (p : Nat) (lines : List Nat) : s0.Keeps (s.readLines p lines).1 := by
  unfold State.readLines
  refine Keeps.foldl1 h fun y x hy => ?_
  split
  · exact hy
  · dsimp only
    split <;> exact hy.readLocal ..

theorem Keeps.readLocals {s : State} (h : s0.Keeps s) (p : Nat) (n : Nat) (offs : List Nat) :
    s0.Keeps (s.readLocals p n offs).1 := h.readLines ..

theorem Keeps.loadOperand {s : State} (h : s0.Keeps s) (p : Nat) (d : ADesc) (isStat : Bool) (sub : Nat) (offs : List Nat) :
    s0.Keeps (s.loadOperand p d isStat sub offs).1 := by
  unfold State.loadOperand
  repeat' first
    | (intro y; try clear_value y)
    | lift_lets
    | (with_reducible first | assumption | refine Keeps.ite1 ?_ ?_ | refine Keeps.readLocals ?_ ..)

theorem Keeps.arrayUE {s : State} (h : s0.Keeps s) (p : Nat) (j : ArrayJob) (off : Nat) :
    s0.Keeps (s.arrayUE p j off) := by
  unfold State.arrayUE
  repeat' (with_reducible first | assumption | refine Keeps.trap ?_ ..)

theorem Keeps.arrayStop {s : State} (h : s0.Keeps s) (p : Nat) (j : ArrayJob) (unit off : Option Nat) :
    s0.Keeps (s.arrayStop p j unit off) := by
  unfold State.arrayStop
  have k : s0.Keeps (unit.elim s (fun u => s.nan p u 3 j.pc.toNat j.index.toNat (j.get).tag)) := by
    cases unit
    · exact h
    · exact h.nan ..
  refine Keeps.ite k ?_
  cases off
  · exact k
  · exact k.arrayUE ..

theorem Keeps.readVector {s : State} (h : s0.Keeps s) (p base lo n : Nat) : s0.Keeps (s.readVector p base lo n).1 := by
  unfold State.readVector
  repeat' (with_reducible first | assumption | refine Keeps.readLocals ?_ ..)

theorem Keeps.drainReads {s : State} (h : s0.Keeps s) (p : Nat) (b : Bank) (d : ADesc) : s0.Keeps (s.drainReads p b d).1 := by
  unfold State.drainReads
  dsimp only
  refine Keeps.ite1 (Keeps.readVector ?_ ..) ?_ <;> exact .ite1 (h.readVector ..) (.ite1 (h.readVector ..) h)

theorem Keeps.writeLocal {s : State} (h : s0.Keeps s) (p off : Nat) (bs : List Byte) :
    s0.Keeps (s.writeLocal p off bs).1 := by
  unfold State.writeLocal
  repeat' first
    | (with_reducible first | assumption | refine Keeps.writePhys ?_ ..)
    | split

theorem Keeps.drainWrites {s : State} (h : s0.Keeps s) (p : Nat) (b : Bank) (d : ADesc) (rows : List (Nat × Nat × RowOut)) :
    s0.Keeps (s.drainWrites p b d rows).1 := by
  unfold State.drainWrites
  refine Keeps.foldl1 h fun y x hy => ?_
  refine Keeps.writeLocal ?_ ..
  exact .ite1 hy (hy.writeLocal ..)

/-! ### Passes and drains of the array -/

theorem Keeps.setArr {s : State} (h : s0.Keeps s) (p : Nat) (a : ArrayState) : s0.Keeps (s.setArr p a) := by
  unfold State.setArr
  repeat' (with_reducible first | assumption | refine Keeps.setCore ?_ ..)

theorem Keeps.moveOn {s : State} (h : s0.Keeps s) (p : Nat) : s0.Keeps (s.moveOn p) := by
  unfold State.moveOn
  repeat' (with_reducible first | assumption | refine Keeps.setArr ?_ ..)

theorem foldPass {α : Type} {f : PassSum → α → PassSum} {xs : List α} {a : PassSum} (h : s0.Keeps a.s)
    (k : ∀ y x, s0.Keeps y.s → s0.Keeps (f y x).s) : s0.Keeps (xs.foldl f a).s := by
  induction xs generalizing a with
  | nil => exact h
  | cons x xs ih => exact ih (k _ _ h)

theorem Keeps.runPass {s : State} (h : s0.Keeps s) (p : Nat) (ps : Pass) (b : Bank) (lines : List Nat) :
    s0.Keeps (s.runPass p ps b lines).s := by
  unfold State.runPass
  dsimp only
  refine foldPass h fun y x hy => ?_
  split
  · exact hy
  · have k (offs : List Nat) : s0.Keeps (y.s.loadOperand p ps.job.get false (ps.job.get.pos ps.pass).sub offs).1 :=
      hy.loadOperand ..
    split <;> exact Keeps.ite1 ((k _).readLocals ..) (k _)

theorem Keeps.feedPass {s : State} (h : s0.Keeps s) (p : Nat) (ps : Pass) (rest : List Pass) (lines : List Nat)
    (last : Bool) : s0.Keeps (s.feedPass p ps rest lines last) := by
  unfold State.feedPass
  dsimp only
  split
  · exact h
  · rename_i i _
    have k : s0.Keeps (s.runPass p ps ((s.arr p).bank i) lines).s := h.runPass ..
    split
    · exact k.arrayStop ..
    · exact (Keeps.ite ((k.setArr ..).moveOn _) (k.setArr ..)).arrayStop ..

theorem Keeps.reportUpTo {s : State} (h : s0.Keeps s) (p no : Nat) : s0.Keeps (s.reportUpTo p no) := by
  unfold State.reportUpTo
  repeat' first
    | (intro y; try clear_value y)
    | lift_lets
    | (with_reducible first
        | assumption | refine Keeps.each ?_ fun _ _ _ => ?_ | refine Keeps.report ?_ .. | refine Keeps.setArr ?_ ..)

theorem Keeps.writeDbgSel {s : State} (h : s0.Keeps s) (reg v : Nat) : s0.Keeps (s.writeDbgSel reg v) := by
  unfold State.writeDbgSel
  repeat' first
    | (intro y; refine (fun hy : s0.Keeps y => ?_) ?_; on_goal 2 => dsimp only [y]; on_goal 1 => clear_value y)
    | (intro y; try clear_value y)
    | lift_lets
    | (with_reducible first
        | assumption | refine Keeps.ite ?_ ?_ | refine Keeps.foldl ?_ fun _ _ _ => ?_ | refine Keeps.ignoredWrite ?_ ..
        | refine Keeps.put ?_ .. | refine Keeps.putWord ?_ .. | refine Keeps.puts ?_ ..)
    | (show Kept s0 _ _ _ _ _; dsimp only; with_reducible refine Keeps.of ?_)

theorem Keeps.portsTrap {s : State} (h :
    s0.Keeps s) (c : Nat) (ports : List Nat) (d : Delivery) : s0.Keeps (s.portsTrap c ports d) := by
  unfold State.portsTrap
  repeat' first
    | (with_reducible first
        | assumption | refine Keeps.ite ?_ ?_ | refine Keeps.each ?_ fun _ _ _ => ?_ | refine Keeps.trap ?_ ..)
    | split

/-! ### Memory rows -/

theorem Keeps.stackedRead {s : State} (h : s0.Keeps s) (c port line : Nat) : s0.Keeps (s.stackedRead c port line) := by
  unfold State.stackedRead
  repeat' first
    | (intro y; refine (fun hy : s0.Keeps y => ?_) ?_; on_goal 2 => dsimp only [y]; on_goal 1 => clear_value y)
    | (intro y; try clear_value y)
    | lift_lets
    | (with_reducible first
        | assumption | refine Keeps.ite ?_ ?_ | refine Keeps.deliver ?_ .. | refine Keeps.portsTrap ?_ ..
        | refine Keeps.setStack ?_ .. | refine Keeps.setUnit ?_ ..)
    | (show Kept s0 _ _ _ _ _; dsimp only; with_reducible refine Keeps.of ?_)
    | split

theorem Keeps.closeWindow {s : State} (h : s0.Keeps s) (c line : Nat) : s0.Keeps (s.closeWindow c line) := by
  unfold State.closeWindow
  repeat' first
    | (intro y; try clear_value y)
    | lift_lets
    | (with_reducible first | assumption | refine Keeps.setStack ?_ ..)

theorem Keeps.grantBank {s : State} (h : s0.Keeps s) (c bank : Nat) : s0.Keeps (s.grantBank c bank) := by
  unfold State.grantBank
  repeat' first
    | (intro y; refine (fun hy : s0.Keeps y => ?_) ?_; on_goal 2 => dsimp only [y]; on_goal 1 => clear_value y)
    | (intro y; try clear_value y)
    | lift_lets
    | (with_reducible first
        | assumption | refine Keeps.ite ?_ ?_ | refine Keeps.deliver ?_ .. | refine Keeps.portsTrap ?_ ..
        | refine Keeps.readPhys ?_ .. | refine Keeps.setStack ?_ .. | refine Keeps.setUnit ?_ ..)
    | (show Kept s0 _ _ _ _ _; dsimp only; with_reducible refine Keeps.of ?_)
    | split

theorem Keeps.scrubRead {s : State} (h : s0.Keeps s) (k : Nat) : s0.Keeps (s.scrubRead k) := by
  unfold State.scrubRead
  repeat' first
    | (intro y; try clear_value y)
    | lift_lets
    | (with_reducible first
        | assumption | refine Keeps.ite ?_ ?_ | refine Keeps.classJ ?_ .. | refine Keeps.fresh ?_ _
        | refine Keeps.meet ?_ ..)
    | (show Kept s0 _ _ _ _ _; dsimp only; with_reducible first | refine Keeps.memWrite ?_ .. | refine Keeps.of ?_)
    | split

theorem Keeps.upset {s : State} (h : s0.Keeps s) (k : Nat) (more : List Nat) : s0.Keeps (s.upset k more) := h

theorem Keeps.showPasses {s : State} (h : s0.Keeps s) : s0.Keeps s.showPasses := by
  unfold State.showPasses
  repeat' first
    | (intro y; try clear_value y)
    | lift_lets
    | (with_reducible first | assumption | refine Keeps.putSat ?_ ..)

theorem Keeps.showPatrol {s : State} (h : s0.Keeps s) : s0.Keeps s.showPatrol := by
  unfold State.showPatrol
  repeat' (with_reducible first | assumption | refine Keeps.putSat ?_ ..)

theorem Keeps.scrubNext {s : State} (h : s0.Keeps s) (u words : Nat) : s0.Keeps (s.scrubNext u words) := by
  unfold State.scrubNext
  repeat' first
    | (intro y; refine (fun hy : s0.Keeps y => ?_) ?_; on_goal 2 => dsimp only [y]; on_goal 1 => clear_value y)
    | (intro y; try clear_value y)
    | lift_lets
    | (with_reducible first
        | assumption | refine Keeps.ite ?_ ?_ | refine Keeps.setUnit ?_ .. | refine Keeps.showPasses ?_ ..
        | refine Keeps.showPatrol ?_ ..)

theorem Keeps.scrubStep {s : State} (h : s0.Keeps s) (u k words : Nat) : s0.Keeps (s.scrubStep u k words) := by
  unfold State.scrubStep
  repeat' (with_reducible first | assumption | refine Keeps.scrubNext ?_ .. | refine Keeps.scrubRead ?_ ..)

theorem Keeps.loseStack {s : State} (h : s0.Keeps s) (cause st : Nat) : s0.Keeps (s.loseStack cause st) := by
  have k {t : State} (h : s0.Keeps t) : s0.Keeps { t with lostStacks := t.lostStacks ||| BitVec.ofNat 36 (2 ^ st) } := h
  exact k (h.firmwareDefect 5 cause st)

theorem Keeps.trainStacks {s : State} (h : s0.Keeps s) : s0.Keeps s.trainStacks :=
  (h.useFree 1).each fun _ _ k => k.loseStack ..

theorem Keeps.testLocation {s : State} (h :
    s0.Keeps s) (loc : MemLoc) (passes spareRow : Bool) : s0.Keeps (s.testLocation loc passes spareRow) := by
  unfold State.testLocation
  repeat' first
    | (intro y; refine (fun hy : s0.Keeps y => ?_) ?_; on_goal 2 => dsimp only [y]; on_goal 1 => clear_value y)
    | (intro y; try clear_value y)
    | lift_lets
    | (with_reducible first
        | assumption | refine Keeps.ite ?_ ?_ | refine Keeps.firmwareDefect ?_ .. | refine Keeps.loseStack ?_ ..
        | refine Keeps.memZero ?_ .. | refine Keeps.store ?_ ..)
    | (show Kept s0 _ _ _ _ _; dsimp only; with_reducible first | refine Keeps.memZero ?_ .. | refine Keeps.of ?_)
    | split

theorem Keeps.writeCeSel {s : State} (h : s0.Keeps s) (v : Nat) : s0.Keeps (s.writeCeSel v) := by
  unfold State.writeCeSel
  repeat' first
    | (intro y; refine (fun hy : s0.Keeps y => ?_) ?_; on_goal 2 => dsimp only [y]; on_goal 1 => clear_value y)
    | lift_lets
    | (with_reducible first
        | assumption | refine Keeps.ite ?_ ?_ | refine Keeps.ignoredWrite ?_ .. | refine Keeps.put ?_ ..
        | refine Keeps.puts ?_ ..)

theorem Keeps.putCeEntry {s : State} (h : s0.Keeps s) (i : Nat) (e : Option CeEntry) :
    s0.Keeps (s.putCeEntry i e) := by
  unfold State.putCeEntry
  repeat' first
    | (with_reducible first | assumption | refine Keeps.clears ?_ .. | refine Keeps.puts ?_ ..)
    | split

theorem Keeps.copyCe {s : State} (h : s0.Keeps s) : s0.Keeps s.copyCe := by
  unfold State.copyCe
  repeat' first
    | (intro y; refine (fun hy : s0.Keeps y => ?_) ?_; on_goal 2 => dsimp only [y]; on_goal 1 => clear_value y)
    | (intro y; try clear_value y)
    | lift_lets
    | (with_reducible first
        | assumption | refine Keeps.ite ?_ ?_ | refine Keeps.each ?_ fun _ _ _ => ?_ | refine Keeps.put ?_ ..
        | refine Keeps.putCeEntry ?_ .. | refine Keeps.puts ?_ .. | refine Keeps.setUnit ?_ ..)

theorem Keeps.hostRefuse {s : State} (h : s0.Keeps s) (op : HostOp) (st : RspStatus) (code : Nat) :
    s0.Keeps (s.hostRefuse op st code) := by
  unfold State.hostRefuse
  repeat' first
    | (intro y; refine (fun hy : s0.Keeps y => ?_) ?_; on_goal 2 => dsimp only [y]; on_goal 1 => clear_value y)
    | lift_lets
    | (with_reducible first | assumption | refine Keeps.event ?_ ..)
    | (show Kept s0 _ _ _ _ _; dsimp only; with_reducible refine Keeps.of ?_)
    | split

theorem Keeps.hostMemory {s : State} (h : s0.Keeps s) (a : Nat) (op : HostOp) : s0.Keeps (s.hostMemory a op) := by
  unfold State.hostMemory
  repeat' first
    | lift_lets
    | (with_reducible first | assumption | refine Keeps.readPhys ?_ .. | refine Keeps.writePhys ?_ ..)
    | (show Kept s0 _ _ _ _ _; dsimp only; with_reducible refine Keeps.of ?_)
    | split

theorem Keeps.hostRing {s : State} (h : s0.Keeps s) (w : HostWindow) (a : Nat) (op : HostOp) :
    s0.Keeps (s.hostRing w a op) := by
  unfold State.hostRing
  repeat' first
    | (intro y; refine (fun hy : s0.Keeps y => ?_) ?_; on_goal 2 => dsimp only [y]; on_goal 1 => clear_value y)
    | lift_lets
    | (with_reducible first | assumption | refine Keeps.ite ?_ ?_ | refine Keeps.hostMemory ?_ ..)
    | (show Kept s0 _ _ _ _ _; dsimp only; with_reducible refine Keeps.of ?_)

theorem Keeps.serveWaiting {s : State} (h : s0.Keeps s) (due : List (Nat × HostWindow × Nat × HostOp)) :
    s0.Keeps (s.serveWaiting due) := by
  unfold State.serveWaiting
  repeat' first
    | (intro y; refine (fun hy : s0.Keeps y => ?_) ?_; on_goal 2 => dsimp only [y]; on_goal 1 => clear_value y)
    | lift_lets
    | (with_reducible first | assumption | refine Keeps.each ?_ fun _ _ _ => ?_ | refine Keeps.hostRing ?_ ..)
    | (show Kept s0 _ _ _ _ _; dsimp only; with_reducible refine Keeps.of ?_)

theorem Keeps.hostRingArrive {s : State} (h : s0.Keeps s) (w : HostWindow) (addr : Nat) (op : HostOp) (bankBusy : Bool) :
    s0.Keeps (s.hostRingArrive w addr op bankBusy) := by
  unfold State.hostRingArrive
  repeat' first
    | (intro y; try clear_value y)
    | lift_lets
    | (with_reducible first
        | assumption | refine Keeps.ite ?_ ?_ | refine Keeps.hostRefuse ?_ .. | refine Keeps.hostRing ?_ ..
        | refine Keeps.serveWaiting ?_ ..)
    | (show Kept s0 _ _ _ _ _; dsimp only; with_reducible refine Keeps.of ?_)

theorem Keeps.snoopDone {s : State} (h : s0.Keeps s) (line : Nat) : s0.Keeps (s.snoopDone line) := by
  unfold State.snoopDone
  repeat' first
    | (intro y; refine (fun hy : s0.Keeps y => ?_) ?_; on_goal 2 => dsimp only [y]; on_goal 1 => clear_value y)
    | (intro y; try clear_value y)
    | lift_lets
    | (with_reducible first
        | assumption | refine Keeps.acknowledge ?_ .. | refine Keeps.each ?_ fun _ _ _ => ?_
        | refine Keeps.storeNow ?_ ..)
    | (show Kept s0 _ _ _ _ _; dsimp only; with_reducible refine Keeps.of ?_)

theorem Keeps.hostCluster {s : State} (h : s0.Keeps s) (a : Nat) (op : HostOp) :
    s0.Keeps (s.hostCluster a op) := by
  unfold State.hostCluster
  repeat' first
    | (with_reducible first
        | assumption | refine Keeps.ite ?_ ?_ | refine Keeps.hostMemory ?_ .. | refine Keeps.hostRefuse ?_ ..)
    | split

theorem Keeps.hostClusterArrive {s : State} (h : s0.Keeps s) (bar0 : Bool) (a : Nat) (op : HostOp) :
    s0.Keeps (s.hostClusterArrive bar0 a op) := by
  unfold State.hostClusterArrive
  repeat' first
    | (with_reducible first
        | assumption | refine Keeps.pick ?_ (fun _ => ?_) ?_ | refine Keeps.ite ?_ ?_ | refine Keeps.event ?_ ..
        | refine Keeps.hostCluster ?_ .. | refine Keeps.hostRefuse ?_ ..)
    | (show Kept s0 _ _ _ _ _; dsimp only; with_reducible refine Keeps.of ?_)

theorem Keeps.byLine {s : State} (h : s0.Keeps s) (a : Nat) (op : HostOp) {one : State → Nat → HostOp → State}
    (k : ∀ y a op, s0.Keeps y → s0.Keeps (one y a op)) : s0.Keeps (s.byLine a op one) := by
  unfold State.byLine
  refine .ite (k _ _ _ h) (Keeps.foldl (show s0.Keeps { s with rsp := {} } from h) fun y x hy => ?_)
  exact k _ _ _ hy

end State

end Sys2Proof.Machine
end

