-- ==== Sys2Proof/Laws/KeepsStep.lean ====
section
/-!
SUPPORT. What the shared operations keep (`State.Keeps`, Laws/Keeps.lean), continued: the training step, drains, ports, the ladder, images, transactions and jobs.
-/
namespace Sys2Proof.Machine

namespace State

variable {s0 : State}

/-! ### Drains -/

theorem Keeps.recommend {s : State} (h : s0.Keeps s) : s0.Keeps s.recommend := by
  unfold State.recommend
  repeat' first
    | (intro y; refine (fun hy : s0.Keeps y => ?_) ?_; on_goal 2 => dsimp only [y]; on_goal 1 => clear_value y)
    | (intro y; try clear_value y)
    | lift_lets
    | (with_reducible first
        | assumption | refine Keeps.ite ?_ ?_ | refine Keeps.fresh ?_ _ | refine Keeps.put ?_ ..
        | refine Keeps.putSat ?_ ..)

theorem Keeps.openDrain {s : State} (h : s0.Keeps s) (step : Nat) (buf urgent flagged unpaced activity : Bool) :
    s0.Keeps (s.openDrain step buf urgent flagged unpaced activity) := by
  unfold State.openDrain
  repeat' first
    | (with_reducible first | assumption | refine Keeps.showDrain ?_ ..)
    | (show Kept s0 _ _ _ _ _; dsimp only; with_reducible refine Keeps.of ?_)

theorem Keeps.clearCopies {s : State} (h : s0.Keeps s) : s0.Keeps s.clearCopies := by
  unfold State.clearCopies
  repeat' first
    | (with_reducible first
        | assumption | refine Keeps.ite ?_ ?_ | refine Keeps.each ?_ fun _ _ _ => ?_ | refine Keeps.setPort ?_ ..)
    | (show Kept s0 _ _ _ _ _; dsimp only; with_reducible refine Keeps.of ?_)
    | split

theorem Keeps.drainOver {s : State} (h : s0.Keeps s) (d : Drain) (result : Nat) : s0.Keeps (s.drainOver d result) := by
  unfold State.drainOver
  repeat' first
    | (intro y; refine (fun hy : s0.Keeps y => ?_) ?_; on_goal 2 => dsimp only [y]; on_goal 1 => clear_value y)
    | (intro y; try clear_value y)
    | lift_lets
    | (with_reducible first
        | assumption | refine Keeps.ite ?_ ?_ | refine Keeps.alert ?_ .. | refine Keeps.bump ?_ ..
        | refine Keeps.clearCopies ?_ .. | refine Keeps.event ?_ .. | refine Keeps.put ?_ ..
        | refine Keeps.raise ?_ .. | refine Keeps.showDrain ?_ ..)
    | (show Kept s0 _ _ _ _ _; dsimp only; with_reducible refine Keeps.of ?_)
    | split

theorem Keeps.endCurrent {s : State} (h : s0.Keeps s) (result : Nat) : s0.Keeps (s.endCurrent result) := by
  unfold State.endCurrent
  repeat' first
    | (with_reducible first | assumption | refine Keeps.drainOver ?_ ..)
    | (show Kept s0 _ _ _ _ _; dsimp only; with_reducible refine Keeps.of ?_)
    | split

theorem Keeps.endDrain {s : State} (h : s0.Keeps s) (result : Nat) : s0.Keeps (s.endDrain result) := by
  unfold State.endDrain
  repeat' first
    | (with_reducible first | assumption | refine Keeps.drainOver ?_ .. | refine Keeps.endCurrent ?_ ..)
    | (show Kept s0 _ _ _ _ _; dsimp only; with_reducible refine Keeps.of ?_)
    | split

theorem Keeps.startDrain {s : State} (h : s0.Keeps s) (step : Nat) (buf urgent flagged unpaced activity : Bool) :
    s0.Keeps (s.startDrain step buf urgent flagged unpaced activity) := by
  unfold State.startDrain
  repeat' first
    | (intro y; refine (fun hy : s0.Keeps y => ?_) ?_; on_goal 2 => dsimp only [y]; on_goal 1 => clear_value y)
    | lift_lets
    | (with_reducible first
        | assumption | refine Keeps.ite ?_ ?_ | refine Keeps.endCurrent ?_ .. | refine Keeps.openDrain ?_ ..)

theorem Keeps.readUpTo {s : State} (h : s0.Keeps s) (a n : Nat) : s0.Keeps (s.readUpTo a n).1 := by
  unfold State.readUpTo
  refine Keeps.foldl1 h fun y x hy => ?_
  split
  · exact hy
  · have k := hy.meet x
    split <;> exact .fstOf ‹_› k

theorem Keeps.readRanges {s : State} (h : s0.Keeps s) (xs : List (Nat × Nat)) : s0.Keeps (s.readRanges xs).1 := by
  induction xs generalizing s with
  | nil => exact h
  | cons x xs ih =>
    obtain ⟨a, n⟩ := x
    have k := h.readUpTo a n
    unfold State.readRanges
    split
    · exact .fstOf ‹_› k
    · exact ih (.fstOf ‹_› k)

theorem Keeps.sendCopy {s : State} (h : s0.Keeps s) (ns : List Nat) (drains : Bool) (bs : List Byte) :
    s0.Keeps (s.sendCopy ns drains bs) := Keeps.foldl h fun _ _ hy => hy.setPort ..

theorem Keeps.mapDrain {s : State} (h : s0.Keeps s) (d : Drain) (f : Drain → Drain) : s0.Keeps (s.mapDrain d f) := h

theorem Keeps.dropDrain {s : State} (h : s0.Keeps s) (d : Drain) (result : Nat) : s0.Keeps (s.dropDrain d result) := by
  unfold State.dropDrain
  repeat' first
    | (with_reducible first
        | assumption | refine Keeps.ite ?_ ?_ | refine Keeps.drainOver ?_ .. | refine Keeps.endCurrent ?_ ..)
    | (show Kept s0 _ _ _ _ _; dsimp only; with_reducible refine Keeps.of ?_)
    | split

theorem Keeps.drainRead {s : State} (h : s0.Keeps s) : s0.Keeps s.drainRead := by
  unfold State.drainRead
  split
  · exact h
  · have k := h.readRanges s.uniqueRanges
    split
    · exact (Keeps.fstOf ‹_› k).dropDrain .. |>.classJ ..
    · refine Keeps.sendCopy ?_ ..
      show Kept s0 _ _ _ _ _
      dsimp only
      exact Keeps.of (Keeps.mapDrain (Keeps.putSat (.fstOf ‹_› k) ..) ..)

theorem Keeps.unpaceDrain {s : State} (h : s0.Keeps s) : s0.Keeps s.unpaceDrain := by
  unfold State.unpaceDrain
  repeat' first
    | (with_reducible first | assumption | refine Keeps.showDrain ?_ ..)
    | (show Kept s0 _ _ _ _ _; dsimp only; with_reducible refine Keeps.of ?_)

theorem Keeps.secureRequest {s : State} (h : s0.Keeps s) (source : Nat) :
    s0.Keeps (s.secureRequest source).1 := by
  unfold State.secureRequest
  repeat' first
    | (intro y; refine (fun hy : s0.Keeps y => ?_) ?_; on_goal 2 => dsimp only [y]; on_goal 1 => clear_value y)
    | lift_lets
    | (with_reducible first
        | assumption | refine Keeps.ite1 ?_ ?_ | refine Keeps.event ?_ .. | refine Keeps.showDrain ?_ ..
        | refine Keeps.startDrain ?_ .. | refine Keeps.unpaceDrain ?_ ..)
    | (show Kept s0 _ _ _ _ _; dsimp only; with_reducible refine Keeps.of ?_)

theorem Keeps.startDeferred {s : State} (h : s0.Keeps s) : s0.Keeps s.startDeferred := by
  unfold State.startDeferred
  repeat' first
    | (intro y; try clear_value y)
    | lift_lets
    | (with_reducible first
        | assumption | refine Keeps.ite ?_ ?_ | refine Keeps.bump ?_ .. | refine Keeps.startDrain ?_ ..)
    | (show Kept s0 _ _ _ _ _; dsimp only; with_reducible refine Keeps.of ?_)
    | split

/-! ### The training step -/

theorem Keeps.checkStarved {s : State} (h : s0.Keeps s) : s0.Keeps s.checkStarved := by
  unfold State.checkStarved
  repeat' first
    | (intro y; try clear_value y)
    | lift_lets
    | (with_reducible first
        | assumption | refine Keeps.ite ?_ ?_ | refine Keeps.bump ?_ .. | refine Keeps.each ?_ fun _ _ _ => ?_
        | refine Keeps.event ?_ ..)
    | (show Kept s0 _ _ _ _ _; dsimp only; with_reducible refine Keeps.of ?_)
    | split

theorem Keeps.barComplete {s : State} (h : s0.Keeps s) (bar : Nat) (v : Bool) :
    s0.Keeps (s.barComplete bar v) := by
  unfold State.barComplete
  repeat' first
    | (intro y; try clear_value y)
    | lift_lets
    | (with_reducible first | assumption | refine Keeps.checkStarved ?_ .. | refine Keeps.setBarrier ?_ ..)

theorem Keeps.sendArrival {s : State} (h : s0.Keeps s) (r bar out : Nat) (v : Bool) :
    s0.Keeps (s.sendArrival r bar out v) := by
  unfold State.sendArrival
  repeat' (with_reducible first | assumption | refine Keeps.injectAt ?_ ..)

theorem Keeps.combine {s : State} (h : s0.Keeps s) (r bar : Nat) (b : BarrierRec) (n : NodeRec) :
    s0.Keeps (s.combine r bar b n) := by
  unfold State.combine
  repeat' first
    | (intro y; refine (fun hy : s0.Keeps y => ?_) ?_; on_goal 2 => dsimp only [y]; on_goal 1 => clear_value y)
    | (intro y; try clear_value y)
    | lift_lets
    | (with_reducible first
        | assumption | refine Keeps.ite ?_ ?_ | refine Keeps.barComplete ?_ .. | refine Keeps.sendArrival ?_ ..)
    | (show Kept s0 _ _ _ _ _; dsimp only; with_reducible refine Keeps.of ?_)

theorem Keeps.arrive {s : State} (h : s0.Keeps s) (r bar input : Nat) (ovf : Bool) :
    s0.Keeps (s.arrive r bar input ovf) := by
  unfold State.arrive
  repeat' first
    | (intro y; try clear_value y)
    | lift_lets
    | (with_reducible first
        | assumption | refine Keeps.ite ?_ ?_ | refine Keeps.combine ?_ .. | refine Keeps.takeInput ?_ ..)
    | (show Kept s0 _ _ _ _ _; dsimp only; with_reducible refine Keeps.of ?_)
    | split

theorem Keeps.slip {s : State} (h : s0.Keeps s) (reg kind : Nat) (sys : Bool) (id slot port excess : Nat) :
    s0.Keeps (s.slip reg kind sys id slot port excess) := by
  unfold State.slip
  repeat' first
    | (intro y; refine (fun hy : s0.Keeps y => ?_) ?_; on_goal 2 => dsimp only [y]; on_goal 1 => clear_value y)
    | lift_lets
    | (with_reducible first
        | assumption | refine Keeps.bump ?_ .. | refine Keeps.crossEvent ?_ _ fun _ _ => ?_ | refine Keeps.event ?_ ..
        | refine Keeps.puts ?_ .. | refine Keeps.raise ?_ ..)

theorem Keeps.measureSlack {s : State} (h : s0.Keeps s) (bar : Nat) : s0.Keeps (s.measureSlack bar) := by
  unfold State.measureSlack
  repeat' first
    | lift_lets
    | (with_reducible first | assumption | refine Keeps.ite ?_ ?_ | refine Keeps.put ?_ .. | refine Keeps.slip ?_ ..)
    | (show Kept s0 _ _ _ _ _; dsimp only; with_reducible refine Keeps.of ?_)
    | split

theorem Keeps.writePages {s : State} (h : s0.Keeps s) (ps : List Nat) (skip : Bool) :
    s0.Keeps (s.writePages ps skip) := by
  unfold State.writePages
  repeat' (with_reducible first
    | assumption | refine Keeps.ite ?_ ?_ | refine Keeps.each ?_ fun _ _ _ => ?_ | refine Keeps.store ?_ ..)

theorem Keeps.stopQuiet {s : State} (h : s0.Keeps s) (ratio : Bool) : s0.Keeps (s.stopQuiet ratio) := by
  unfold State.stopQuiet
  repeat' first
    | (intro y; refine (fun hy : s0.Keeps y => ?_) ?_; on_goal 2 => dsimp only [y]; on_goal 1 => clear_value y)
    | (intro y; try clear_value y)
    | lift_lets
    | (with_reducible first
        | assumption | refine Keeps.ite ?_ ?_ | refine Keeps.dropDeferred ?_ .. | refine Keeps.event ?_ ..
        | refine Keeps.put ?_ .. | refine Keeps.raise ?_ .. | refine Keeps.startDeferred ?_ ..
        | refine Keeps.stopJob ?_ ..)
    | split

theorem Keeps.skipFault {s : State} (h : s0.Keeps s) : s0.Keeps s.skipFault := by
  unfold State.skipFault
  repeat' first
    | (intro y; refine (fun hy : s0.Keeps y => ?_) ?_; on_goal 2 => dsimp only [y]; on_goal 1 => clear_value y)
    | (intro y; try clear_value y)
    | lift_lets
    | (with_reducible first
        | assumption | refine Keeps.ite ?_ ?_ | refine Keeps.classJ ?_ .. | refine Keeps.event ?_ ..)
    | (show Kept s0 _ _ _ _ _; dsimp only; with_reducible refine Keeps.of ?_)
    | split

theorem Keeps.settleQuiet {s : State} (h : s0.Keeps s) : s0.Keeps s.settleQuiet := by
  unfold State.settleQuiet
  repeat' first
    | (with_reducible first
        | assumption | refine Keeps.ite ?_ ?_ | refine Keeps.skipFault ?_ .. | refine Keeps.stopQuiet ?_ ..)
    | (show Kept s0 _ _ _ _ _; dsimp only; with_reducible refine Keeps.of ?_)
    | split

theorem Keeps.applyScale {s : State} (h : s0.Keeps s) : s0.Keeps s.applyScale := by
  unfold State.applyScale
  repeat' first
    | (intro y; refine (fun hy : s0.Keeps y => ?_) ?_; on_goal 2 => dsimp only [y]; on_goal 1 => clear_value y)
    | (intro y; try clear_value y)
    | lift_lets
    | (with_reducible first
        | assumption | refine Keeps.ite ?_ ?_ | refine Keeps.bump ?_ .. | refine Keeps.event ?_ ..
        | refine Keeps.flag ?_ .. | refine Keeps.put ?_ ..)

theorem Keeps.putExp {s : State} (h : s0.Keeps s) (t : Nat) (e : Int) : s0.Keeps (s.putExp t e) := by
  unfold State.putExp
  repeat' (with_reducible first | assumption | refine Keeps.put ?_ ..)

theorem Keeps.applyExp {s : State} (h : s0.Keeps s) (t : Nat) : s0.Keeps (s.applyExp t) := by
  unfold State.applyExp
  repeat' first
    | (intro y; try clear_value y)
    | lift_lets
    | (with_reducible first
        | assumption | refine Keeps.ite ?_ ?_ | refine Keeps.bump ?_ .. | refine Keeps.mark ?_ ..
        | refine Keeps.put ?_ .. | refine Keeps.putExp ?_ ..)

theorem Keeps.ratioRecord {x : State × Nat × Nat} (h : s0.Keeps x.1) (n t : Nat) : s0.Keeps (ratioRecord n x t).1 := by
  obtain ⟨s, m, e⟩ := x
  unfold Machine.ratioRecord
  repeat' first
    | lift_lets
    | (with_reducible first
        | assumption | refine Keeps.ite1 ?_ ?_ | refine Keeps.ite ?_ ?_ | refine Keeps.readPhys ?_ ..
        | refine Keeps.put ?_ .. | refine Keeps.puts ?_ .. | refine Keeps.bump ?_ .. | refine Keeps.raise ?_ ..
        | refine Keeps.setTag ?_ .. | refine Keeps.mark ?_ .. | refine Keeps.event ?_ ..)

theorem Keeps.numericsApply {s : State} (h : s0.Keeps s) (q : Quiet) : s0.Keeps (s.numericsApply q) := by
  unfold State.numericsApply
  repeat' first
    | (intro y; refine (fun hy : s0.Keeps y => ?_) ?_; on_goal 2 => dsimp only [y]; on_goal 1 => clear_value y)
    | (intro y; try clear_value y)
    | lift_lets
    | (with_reducible first
        | assumption | refine Keeps.ite1 ?_ ?_ | refine Keeps.foldl1 ?_ fun _ _ _ => ?_ | refine Keeps.ite ?_ ?_
        | refine Keeps.applyExp ?_ .. | refine Keeps.applyScale ?_ .. | refine Keeps.classJ ?_ ..
        | refine Keeps.clearField ?_ .. | refine Keeps.each ?_ fun _ _ _ => ?_ | refine Keeps.event ?_ ..
        | refine Keeps.flag ?_ .. | refine Keeps.put ?_ .. | refine Keeps.ratioRecord ?_ ..
        | refine Keeps.recommend ?_ .. | refine Keeps.settleQuiet ?_ .. | refine Keeps.writeHeader ?_ ..
        | refine Keeps.writeTagLine ?_ ..)
    | (show Kept s0 _ _ _ _ _; dsimp only; with_reducible refine Keeps.of ?_)

theorem Keeps.quietBegin {s : State} (h : s0.Keeps s) : s0.Keeps s.quietBegin := by
  unfold State.quietBegin
  repeat' first
    | (intro y; refine (fun hy : s0.Keeps y => ?_) ?_; on_goal 2 => dsimp only [y]; on_goal 1 => clear_value y)
    | (intro y; try clear_value y)
    | lift_lets
    | (with_reducible first
        | assumption | refine Keeps.ite ?_ ?_ | refine Keeps.checkStarved ?_ .. | refine Keeps.each ?_ fun _ _ _ => ?_
        | refine Keeps.put ?_ ..)
    | (show Kept s0 _ _ _ _ _; dsimp only; with_reducible refine Keeps.of ?_)

theorem Keeps.releaseCount {s : State} (h : s0.Keeps s) (bar : Nat) : s0.Keeps (s.releaseCount bar) := by
  unfold State.releaseCount
  repeat' first
    | (intro y; refine (fun hy : s0.Keeps y => ?_) ?_; on_goal 2 => dsimp only [y]; on_goal 1 => clear_value y)
    | (intro y; try clear_value y)
    | lift_lets
    | (with_reducible first | assumption | refine Keeps.measureSlack ?_ .. | refine Keeps.setBarrier ?_ ..)

theorem Keeps.sendRelease {s : State} (h : s0.Keeps s) (bar : Nat) (news : Option News) :
    s0.Keeps (s.sendRelease bar news) := by
  unfold State.sendRelease
  repeat' first
    | (with_reducible first | assumption | refine Keeps.injectAt ?_ ..)
    | split

theorem Keeps.gateRelease {s : State} (h : s0.Keeps s) (q : Quiet) (g : Nat) : s0.Keeps (s.gateRelease q g) := by
  unfold State.gateRelease
  repeat' first
    | (intro y; refine (fun hy : s0.Keeps y => ?_) ?_; on_goal 2 => dsimp only [y]; on_goal 1 => clear_value y)
    | (intro y; try clear_value y)
    | lift_lets
    | (with_reducible first
        | assumption | refine Keeps.ite ?_ ?_ | refine Keeps.bump ?_ .. | refine Keeps.flag ?_ ..
        | refine Keeps.put ?_ .. | refine Keeps.putSat ?_ .. | refine Keeps.puts ?_ .. | refine Keeps.releaseCount ?_ ..
        | refine Keeps.sendRelease ?_ .. | refine Keeps.setStep ?_ ..)
    | (show Kept s0 _ _ _ _ _; dsimp only; with_reducible refine Keeps.of ?_)

theorem Keeps.tryGate {s : State} (h : s0.Keeps s) : s0.Keeps s.tryGate := by
  unfold State.tryGate
  repeat' first
    | (with_reducible first | assumption | refine Keeps.ite ?_ ?_ | refine Keeps.gateRelease ?_ ..)
    | split

theorem Keeps.advancePhase {s : State} (h : s0.Keeps s) (bar : Nat) : s0.Keeps (s.advancePhase bar) := by
  unfold State.advancePhase
  repeat' first
    | (intro y; refine (fun hy : s0.Keeps y => ?_) ?_; on_goal 2 => dsimp only [y]; on_goal 1 => clear_value y)
    | (intro y; try clear_value y)
    | lift_lets
    | (with_reducible first
        | assumption | refine Keeps.ite ?_ ?_ | refine Keeps.bump ?_ .. | refine Keeps.put ?_ ..
        | refine Keeps.puts ?_ .. | refine Keeps.quietBegin ?_ ..)
    | (show Kept s0 _ _ _ _ _; dsimp only; with_reducible refine Keeps.of ?_)
    | split

theorem Keeps.releaseNow {s : State} (h : s0.Keeps s) (bar : Nat) : s0.Keeps (s.releaseNow bar) := by
  unfold State.releaseNow
  repeat' first
    | (intro y; refine (fun hy : s0.Keeps y => ?_) ?_; on_goal 2 => dsimp only [y]; on_goal 1 => clear_value y)
    | lift_lets
    | (with_reducible first
        | assumption | refine Keeps.advancePhase ?_ .. | refine Keeps.releaseCount ?_ ..
        | refine Keeps.sendRelease ?_ ..)

theorem Keeps.release {s : State} (h : s0.Keeps s) (bar : Nat) (ovf : Bool) : s0.Keeps (s.release bar ovf) := by
  unfold State.release
  repeat' first
    | (intro y; try clear_value y)
    | lift_lets
    | (with_reducible first
        | assumption | refine Keeps.ite ?_ ?_ | refine Keeps.releaseNow ?_ .. | refine Keeps.setBarrier ?_ ..
        | refine Keeps.takeInput ?_ .. | refine Keeps.tryGate ?_ ..)
    | split

theorem Keeps.initTags {s : State} (h : s0.Keeps s) : s0.Keeps s.initTags := by
  unfold State.initTags
  repeat' first
    | (with_reducible first | assumption | refine Keeps.clearField ?_ ..)
    | (show Kept s0 _ _ _ _ _; dsimp only; with_reducible refine Keeps.of ?_)

theorem Keeps.writeArea {s : State} (h : s0.Keeps s) : s0.Keeps s.writeArea := by
  unfold State.writeArea
  repeat' first
    | (intro y; refine (fun hy : s0.Keeps y => ?_) ?_; on_goal 2 => dsimp only [y]; on_goal 1 => clear_value y)
    | (intro y; try clear_value y)
    | lift_lets
    | (with_reducible first | assumption | refine Keeps.fillZero ?_ .. | refine Keeps.store ?_ ..)

theorem Keeps.initArea {s : State} (h : s0.Keeps s) : s0.Keeps s.initArea := by
  unfold State.initArea
  repeat' first
    | (intro y; refine (fun hy : s0.Keeps y => ?_) ?_; on_goal 2 => dsimp only [y]; on_goal 1 => clear_value y)
    | lift_lets
    | (with_reducible first
        | assumption | refine Keeps.initTags ?_ .. | refine Keeps.puts ?_ .. | refine Keeps.writeArea ?_ ..)
    | (show Kept s0 _ _ _ _ _; dsimp only; with_reducible refine Keeps.of ?_)

theorem Keeps.writeRestart {s : State} (h : s0.Keeps s) (v : Nat) : s0.Keeps (s.writeRestart v) := by
  unfold State.writeRestart
  repeat' (with_reducible first
    | assumption | refine Keeps.ite ?_ ?_ | refine Keeps.ignoredWrite ?_ .. | refine Keeps.puts ?_ ..)

theorem Keeps.writeInProd {s : State} (h : s0.Keeps s) (ring v : Nat) : s0.Keeps (s.writeInProd ring v) := by
  unfold State.writeInProd
  repeat' first
    | (intro y; refine (fun hy : s0.Keeps y => ?_) ?_; on_goal 2 => dsimp only [y]; on_goal 1 => clear_value y)
    | lift_lets
    | (with_reducible first
        | assumption | refine Keeps.ite ?_ ?_ | refine Keeps.bump ?_ .. | refine Keeps.event ?_ ..
        | refine Keeps.ignoredWrite ?_ .. | refine Keeps.put ?_ .. | refine Keeps.serveWaiting ?_ ..)

theorem Keeps.commitsLate {s : State} (h : s0.Keeps s) : s0.Keeps s.commitsLate := by
  unfold State.commitsLate
  repeat' first
    | (intro y; refine (fun hy : s0.Keeps y => ?_) ?_; on_goal 2 => dsimp only [y]; on_goal 1 => clear_value y)
    | lift_lets
    | (with_reducible first
        | assumption | refine Keeps.ite ?_ ?_ | refine Keeps.each ?_ fun _ _ _ => ?_ | refine Keeps.endTxn ?_ ..
        | refine Keeps.raise ?_ .. | refine Keeps.settleQuiet ?_ ..)
    | (show Kept s0 _ _ _ _ _; dsimp only; with_reducible refine Keeps.of ?_)

/-! ### Optical ports -/

theorem Keeps.optEvent {s : State} (h : s0.Keeps s) (f : Field) : s0.Keeps (s.optEvent f) := by
  unfold State.optEvent
  repeat' (with_reducible first | assumption | refine Keeps.put ?_ .. | refine Keeps.raise ?_ ..)

theorem Keeps.setPort' {s : State} (h : s0.Keeps s) (n st cause : Nat) : s0.Keeps (State.setPort' s n st cause) := by
  unfold State.setPort'
  repeat' first
    | (intro y; refine (fun hy : s0.Keeps y => ?_) ?_; on_goal 2 => dsimp only [y]; on_goal 1 => clear_value y)
    | (intro y; try clear_value y)
    | lift_lets
    | (with_reducible first
        | assumption | refine Keeps.ite ?_ ?_ | refine Keeps.event ?_ .. | refine Keeps.optEvent ?_ ..
        | refine Keeps.puts ?_ ..)

theorem Keeps.unverify {s : State} (h : s0.Keeps s) (why : Nat) : s0.Keeps (s.unverify why) := by
  unfold State.unverify
  repeat' (with_reducible first
    | assumption | refine Keeps.ite ?_ ?_ | refine Keeps.event ?_ .. | refine Keeps.put ?_ ..)

theorem Keeps.checkPartner {s : State} (h : s0.Keeps s) : s0.Keeps s.checkPartner := by
  unfold State.checkPartner
  repeat' (with_reducible first | assumption | refine Keeps.ite ?_ ?_ | refine Keeps.unverify ?_ ..)

theorem Keeps.portDown {s : State} (h : s0.Keeps s) (n : Nat) : s0.Keeps (s.portDown n) := by
  unfold State.portDown
  repeat' first
    | (intro y; refine (fun hy : s0.Keeps y => ?_) ?_; on_goal 2 => dsimp only [y]; on_goal 1 => clear_value y)
    | (intro y; try clear_value y)
    | lift_lets
    | (with_reducible first
        | assumption | refine Keeps.checkPartner ?_ .. | refine Keeps.puts ?_ .. | refine Keeps.setPort ?_ ..)

theorem Keeps.wantTraining {s : State} (h : s0.Keeps s) (n : Nat) : s0.Keeps (s.wantTraining n) := by
  unfold State.wantTraining
  repeat' (with_reducible first | assumption | refine Keeps.setPort ?_ ..)

theorem Keeps.train {s : State} (h : s0.Keeps s) (n : Nat) (l : PortLight) : s0.Keeps (s.train n l) := by
  unfold State.train
  repeat' first
    | (intro y; refine (fun hy : s0.Keeps y => ?_) ?_; on_goal 2 => dsimp only [y]; on_goal 1 => clear_value y)
    | (intro y; try clear_value y)
    | lift_lets
    | (with_reducible first
        | assumption | refine Keeps.ite ?_ ?_ | refine Keeps.bump ?_ .. | refine Keeps.checkPartner ?_ ..
        | refine Keeps.event ?_ .. | refine Keeps.optEvent ?_ .. | refine Keeps.put ?_ .. | refine Keeps.putSat ?_ ..
        | refine Keeps.puts ?_ .. | refine Keeps.setPort ?_ .. | refine Keeps.setPort' ?_ ..)
    | split

theorem Keeps.linkLost {s : State} (h : s0.Keeps s) (n cause : Nat) (lanes : BitVec 8) :
    s0.Keeps (s.linkLost n cause lanes) := by
  unfold State.linkLost
  repeat' first
    | (intro y; refine (fun hy : s0.Keeps y => ?_) ?_; on_goal 2 => dsimp only [y]; on_goal 1 => clear_value y)
    | lift_lets
    | (with_reducible first
        | assumption | refine Keeps.classJ ?_ .. | refine Keeps.event ?_ .. | refine Keeps.optEvent ?_ ..
        | refine Keeps.portDown ?_ .. | refine Keeps.put ?_ .. | refine Keeps.setPort' ?_ ..
        | refine Keeps.wantTraining ?_ ..)

theorem Keeps.engineFault {s : State} (h : s0.Keeps s) (tile : Nat) : s0.Keeps (s.engineFault tile) := by
  unfold State.engineFault
  repeat' first
    | (intro y; refine (fun hy : s0.Keeps y => ?_) ?_; on_goal 2 => dsimp only [y]; on_goal 1 => clear_value y)
    | (intro y; try clear_value y)
    | lift_lets
    | (with_reducible first
        | assumption | refine Keeps.ite ?_ ?_ | refine Keeps.classJ ?_ .. | refine Keeps.each ?_ fun _ _ _ => ?_
        | refine Keeps.event ?_ .. | refine Keeps.firmwareDefect ?_ .. | refine Keeps.optEvent ?_ ..
        | refine Keeps.portDown ?_ .. | refine Keeps.setPort' ?_ ..)

theorem Keeps.sendKept {s : State} (h : s0.Keeps s) (n : Nat) (k : FibrePacket) : s0.Keeps (s.sendKept n k) := by
  unfold State.sendKept
  repeat' first
    | (intro y; refine (fun hy : s0.Keeps y => ?_) ?_; on_goal 2 => dsimp only [y]; on_goal 1 => clear_value y)
    | (intro y; try clear_value y)
    | lift_lets
    | (with_reducible first
        | assumption | refine Keeps.ite ?_ ?_ | refine Keeps.setPort ?_ ..)
    | (show Kept s0 _ _ _ _ _; dsimp only; with_reducible refine Keeps.of ?_)

theorem Keeps.sendFibre {s : State} (h : s0.Keeps s) (n : Nat) (k : FibrePacket) : s0.Keeps (s.sendFibre n k) := by
  unfold State.sendFibre
  exact ((h.sendKept ..).setPort ..).count ..

theorem Keeps.sendAgain {s : State} (h :
    s0.Keeps s) (n : Nat) (k : FibrePacket) (rest : List FibrePacket) : s0.Keeps (s.sendAgain n k rest) := by
  unfold State.sendAgain
  repeat' first
    | (intro y; refine (fun hy : s0.Keeps y => ?_) ?_; on_goal 2 => dsimp only [y]; on_goal 1 => clear_value y)
    | (intro y; try clear_value y)
    | lift_lets
    | (with_reducible first
        | assumption | refine Keeps.ite ?_ ?_ | refine Keeps.count ?_ .. | refine Keeps.setPort ?_ ..)
    | (show Kept s0 _ _ _ _ _; dsimp only; with_reducible refine Keeps.of ?_)
    | split

theorem Keeps.transmit {s : State} (h : s0.Keeps s) (n : Nat) : s0.Keeps (s.transmit n) := by
  unfold State.transmit
  repeat' first
    | (intro y; refine (fun hy : s0.Keeps y => ?_) ?_; on_goal 2 => dsimp only [y]; on_goal 1 => clear_value y)
    | (intro y; try clear_value y)
    | lift_lets
    | (with_reducible first
        | assumption | refine Keeps.ite ?_ ?_ | refine Keeps.count ?_ .. | refine Keeps.drop ?_ ..
        | refine Keeps.foldl ?_ .. | refine Keeps.report ?_ .. | refine Keeps.sendAgain ?_ ..
        | refine Keeps.sendFibre ?_ .. | refine Keeps.sendKept ?_ .. | refine Keeps.setPort ?_ ..)
    | (show Kept s0 _ _ _ _ _; dsimp only; with_reducible refine Keeps.of ?_)
    | split

theorem Keeps.rxDrop {s : State} (h : s0.Keeps s) (n cause : Nat) : s0.Keeps (s.rxDrop n cause) := by
  unfold State.rxDrop
  repeat' first
    | (intro y; refine (fun hy : s0.Keeps y => ?_) ?_; on_goal 2 => dsimp only [y]; on_goal 1 => clear_value y)
    | (intro y; try clear_value y)
    | lift_lets
    | (with_reducible first
        | assumption | refine Keeps.ite ?_ ?_ | refine Keeps.bump ?_ .. | refine Keeps.classJ ?_ ..
        | refine Keeps.event ?_ .. | refine Keeps.optEvent ?_ .. | refine Keeps.put ?_ ..)

theorem Keeps.handedOn {s : State} (h : s0.Keeps s) (n vc mesh : Nat) : s0.Keeps (s.handedOn n vc mesh) := by
  unfold State.handedOn
  repeat' first
    | (intro y; refine (fun hy : s0.Keeps y => ?_) ?_; on_goal 2 => dsimp only [y]; on_goal 1 => clear_value y)
    | (intro y; try clear_value y)
    | lift_lets
    | (with_reducible first
        | assumption | refine Keeps.ite ?_ ?_ | refine Keeps.setPort ?_ ..)
    | (show Kept s0 _ _ _ _ _; dsimp only; with_reducible refine Keeps.of ?_)

theorem Keeps.receiveAck {s : State} (h : s0.Keeps s) (n : Nat) (k : FibrePacket) : s0.Keeps (s.receiveAck n k) := by
  unfold State.receiveAck
  repeat' first
    | (intro y; refine (fun hy : s0.Keeps y => ?_) ?_; on_goal 2 => dsimp only [y]; on_goal 1 => clear_value y)
    | (intro y; try clear_value y)
    | lift_lets
    | (with_reducible first
        | assumption | refine Keeps.ite ?_ ?_ | refine Keeps.ackPort ?_ .. | refine Keeps.acked ?_ ..
        | refine Keeps.handedOn ?_ .. | refine Keeps.injectAt ?_ .. | refine Keeps.setPort ?_ ..)
    | (show Kept s0 _ _ _ _ _; dsimp only; with_reducible refine Keeps.of ?_)
    | split

theorem Keeps.takePacket {s : State} (h :
    s0.Keeps s) (n : Nat) (ks : List FibrePacket) : s0.Keeps (s.takePacket n ks) := by
  unfold State.takePacket
  repeat' first
    | (intro y; refine (fun hy : s0.Keeps y => ?_) ?_; on_goal 2 => dsimp only [y]; on_goal 1 => clear_value y)
    | (intro y; try clear_value y)
    | lift_lets
    | (with_reducible first
        | assumption | refine Keeps.ite ?_ ?_ | refine Keeps.each ?_ fun _ _ _ => ?_ | refine Keeps.handedOn ?_ ..
        | refine Keeps.injectAt ?_ .. | refine Keeps.rxDrop ?_ ..)
    | (show Kept s0 _ _ _ _ _; dsimp only; with_reducible refine Keeps.of ?_)
    | split

theorem Keeps.takeIn {s : State} (h : s0.Keeps s) (n : Nat) (k : FibrePacket) : s0.Keeps (s.takeIn n k) := by
  unfold State.takeIn
  dsimp only
  split
  · exact h
  · exact h.receiveAck ..
  · exact (h.handedOn ..).injectAt ..
  · exact (h.handedOn ..).injectAt ..
  · exact h.handedOn ..
  · exact Keeps.ite (h.setPort ..) ((h.setPort ..).takePacket ..)

theorem Keeps.receive {s : State} (h : s0.Keeps s) (n : Nat) (k : FibrePacket) : s0.Keeps (s.receive n k) := by
  unfold State.receive
  repeat' first
    | (intro y; refine (fun hy : s0.Keeps y => ?_) ?_; on_goal 2 => dsimp only [y]; on_goal 1 => clear_value y)
    | (intro y; try clear_value y)
    | lift_lets
    | (with_reducible first
        | assumption | refine Keeps.ite ?_ ?_ | refine Keeps.count ?_ .. | refine Keeps.setPort ?_ ..
        | refine Keeps.takeIn ?_ ..)
    | split

theorem Keeps.writePortCtrl {s : State} (h : s0.Keeps s) (n v : Nat) : s0.Keeps (s.writePortCtrl n v) := by
  unfold State.writePortCtrl
  repeat' first
    | (intro y; refine (fun hy : s0.Keeps y => ?_) ?_; on_goal 2 => dsimp only [y]; on_goal 1 => clear_value y)
    | (intro y; try clear_value y)
    | lift_lets
    | (with_reducible first
        | assumption | refine Keeps.ite ?_ ?_ | refine Keeps.ignoredWrite ?_ .. | refine Keeps.portDown ?_ ..
        | refine Keeps.put ?_ .. | refine Keeps.setPort' ?_ .. | refine Keeps.wantTraining ?_ ..)

/-! ### The ladder -/

theorem Keeps.fillRegion {s : State} (h : s0.Keeps s) (r : Nat) : s0.Keeps (s.fillRegion r) := by
  unfold State.fillRegion
  repeat' (with_reducible first | assumption | refine Keeps.each ?_ fun _ _ _ => ?_ | refine Keeps.fillZero ?_ ..)

theorem Keeps.putRegion {s : State} (h : s0.Keeps s) (r code : Nat) : s0.Keeps (s.putRegion r code) := by
  unfold State.putRegion
  repeat' first
    | (intro y; refine (fun hy : s0.Keeps y => ?_) ?_; on_goal 2 => dsimp only [y]; on_goal 1 => clear_value y)
    | (intro y; try clear_value y)
    | lift_lets
    | (with_reducible first
        | assumption | refine Keeps.ite ?_ ?_ | refine Keeps.fillRegion ?_ .. | refine Keeps.put ?_ ..
        | refine Keeps.puts ?_ .. | refine Keeps.setRegion ?_ ..)

theorem Keeps.moveRegion {s : State} (h : s0.Keeps s) (r code : Nat) : s0.Keeps (s.moveRegion r code) := by
  unfold State.moveRegion
  repeat' first
    | (intro y; try clear_value y)
    | lift_lets
    | (with_reducible first
        | assumption | refine Keeps.ite ?_ ?_ | refine Keeps.putRegion ?_ .. | refine Keeps.setRegion ?_ ..)

theorem Keeps.endWarming {s : State} (h : s0.Keeps s) : s0.Keeps s.endWarming := by
  unfold State.endWarming
  repeat' first
    | (with_reducible first
        | assumption | refine Keeps.ite ?_ ?_ | refine Keeps.each ?_ fun _ _ _ => ?_ | refine Keeps.moveRegion ?_ ..)
    | split

theorem Keeps.startWarming {s : State} (h : s0.Keeps s) : s0.Keeps s.startWarming := by
  unfold State.startWarming
  repeat' first
    | (intro y; refine (fun hy : s0.Keeps y => ?_) ?_; on_goal 2 => dsimp only [y]; on_goal 1 => clear_value y)
    | (intro y; try clear_value y)
    | lift_lets
    | (with_reducible first
        | assumption | refine Keeps.ite ?_ ?_ | refine Keeps.each ?_ fun _ _ _ => ?_ | refine Keeps.putRegion ?_ ..
        | refine Keeps.setRegion ?_ ..)

theorem Keeps.dropInside {s : State} (h : s0.Keeps s) (reg : Nat) : s0.Keeps (s.dropInside reg) := h

theorem Keeps.tripRegion {s : State} (h : s0.Keeps s) (r : Nat) : s0.Keeps (s.tripRegion r) := by
  unfold State.tripRegion
  repeat' first
    | (intro y; refine (fun hy : s0.Keeps y => ?_) ?_; on_goal 2 => dsimp only [y]; on_goal 1 => clear_value y)
    | (intro y; try clear_value y)
    | lift_lets
    | (with_reducible first
        | assumption | refine Keeps.dropInside ?_ .. | refine Keeps.puts ?_ .. | refine Keeps.setRegion ?_ ..)

theorem Keeps.latchRegion {s : State} (h : s0.Keeps s) (r : Nat) : s0.Keeps (s.latchRegion r) := by
  unfold State.latchRegion
  repeat' first
    | (intro y; refine (fun hy : s0.Keeps y => ?_) ?_; on_goal 2 => dsimp only [y]; on_goal 1 => clear_value y)
    | (intro y; try clear_value y)
    | lift_lets
    | (with_reducible first
        | assumption | refine Keeps.dropInside ?_ .. | refine Keeps.puts ?_ .. | refine Keeps.setRegion ?_ ..)

theorem Keeps.clearTrip {s : State} (h : s0.Keeps s) (r : Nat) : s0.Keeps (s.clearTrip r) := by
  unfold State.clearTrip
  repeat' (with_reducible first | assumption | refine Keeps.ite ?_ ?_ | refine Keeps.puts ?_ ..)

theorem Keeps.disablePorts {s : State} (h : s0.Keeps s) : s0.Keeps s.disablePorts := by
  unfold State.disablePorts
  repeat' first
    | (intro y; refine (fun hy : s0.Keeps y => ?_) ?_; on_goal 2 => dsimp only [y]; on_goal 1 => clear_value y)
    | (intro y; try clear_value y)
    | lift_lets
    | (with_reducible first
        | assumption | refine Keeps.ite ?_ ?_ | refine Keeps.each ?_ fun _ _ _ => ?_ | refine Keeps.puts ?_ ..
        | refine Keeps.setPort ?_ .. | refine Keeps.setPort' ?_ ..)

theorem Keeps.dropImage {s : State} (h : s0.Keeps s) : s0.Keeps s.dropImage := by
  unfold State.dropImage
  repeat' first
    | (intro y; refine (fun hy : s0.Keeps y => ?_) ?_; on_goal 2 => dsimp only [y]; on_goal 1 => clear_value y)
    | lift_lets
    | (with_reducible first | assumption | refine Keeps.disablePorts ?_ ..)
    | (show Kept s0 _ _ _ _ _; dsimp only; with_reducible refine Keeps.of ?_)

theorem Keeps.rollBack {s : State} (h : s0.Keeps s) (sc outcome : Nat) : s0.Keeps (s.rollBack sc outcome) := by
  unfold State.rollBack
  repeat' (with_reducible first | assumption | refine Keeps.ite ?_ ?_ | refine Keeps.endTxn ?_ ..)

theorem Keeps.discardTxn {s : State} (h : s0.Keeps s) (sc : Nat) : s0.Keeps (s.discardTxn sc) := by
  unfold State.discardTxn
  repeat' first
    | (with_reducible first | assumption | refine Keeps.puts ?_ ..)
    | (show Kept s0 _ _ _ _ _; dsimp only; with_reducible refine Keeps.of ?_)

theorem Keeps.dropHosted {s : State} (h : s0.Keeps s) : s0.Keeps s.dropHosted := by
  unfold State.dropHosted
  repeat' first
    | (intro y; refine (fun hy : s0.Keeps y => ?_) ?_; on_goal 2 => dsimp only [y]; on_goal 1 => clear_value y)
    | lift_lets
    | (with_reducible first | assumption | refine Keeps.clears ?_ .. | refine Keeps.each ?_ fun _ _ _ => ?_)
    | (show Kept s0 _ _ _ _ _; dsimp only; with_reducible refine Keeps.of ?_)

theorem Keeps.opticsOff {s : State} (h : s0.Keeps s) : s0.Keeps s.opticsOff := by
  unfold State.opticsOff
  repeat' (with_reducible first
    | assumption | refine Keeps.each ?_ fun _ _ _ => ?_ | refine Keeps.portDown ?_ .. | refine Keeps.put ?_ ..
    | refine Keeps.setPort' ?_ ..)

theorem Keeps.opticsUp {s : State} (h : s0.Keeps s) : s0.Keeps s.opticsUp := by
  unfold State.opticsUp
  repeat' (with_reducible first | assumption | refine Keeps.each ?_ fun _ _ _ => ?_ | refine Keeps.wantTraining ?_ ..)

theorem Keeps.fillRing {s : State} (h : s0.Keeps s) : s0.Keeps s.fillRing := by
  unfold State.fillRing
  repeat' (with_reducible first | assumption | refine Keeps.fillZero ?_ ..)

theorem Keeps.enterVigil {s : State} (h : s0.Keeps s) : s0.Keeps s.enterVigil := by
  unfold State.enterVigil
  repeat' first
    | (intro y; refine (fun hy : s0.Keeps y => ?_) ?_; on_goal 2 => dsimp only [y]; on_goal 1 => clear_value y)
    | lift_lets
    | (with_reducible first
        | assumption | refine Keeps.discardTxn ?_ .. | refine Keeps.dropHosted ?_ .. | refine Keeps.dropImage ?_ ..
        | refine Keeps.each ?_ fun _ _ _ => ?_ | refine Keeps.put ?_ ..)
    | (show Kept s0 _ _ _ _ _; dsimp only; with_reducible first | refine Keeps.memNil ?_ | refine Keeps.of ?_)

theorem Keeps.moveModule {s : State} (h : s0.Keeps s) (code : Nat) : s0.Keeps (s.moveModule code) := by
  unfold State.moveModule
  repeat' first
    | (intro y; refine (fun hy : s0.Keeps y => ?_) ?_; on_goal 2 => dsimp only [y]; on_goal 1 => clear_value y)
    | (intro y; try clear_value y)
    | lift_lets
    | (with_reducible first
        | assumption | refine Keeps.ite ?_ ?_ | refine Keeps.each ?_ fun _ _ _ => ?_ | refine Keeps.enterVigil ?_ ..
        | refine Keeps.fillRing ?_ .. | refine Keeps.moveRegion ?_ .. | refine Keeps.opticsOff ?_ ..
        | refine Keeps.opticsUp ?_ .. | refine Keeps.put ?_ .. | refine Keeps.trainStacks ?_ ..)

/-! ### Eloap commands -/

theorem Keeps.ringFault {s : State} (h : s0.Keeps s) (r cause : Nat) : s0.Keeps (s.ringFault r cause) := by
  unfold State.ringFault
  repeat' first
    | (intro y; refine (fun hy : s0.Keeps y => ?_) ?_; on_goal 2 => dsimp only [y]; on_goal 1 => clear_value y)
    | lift_lets
    | (with_reducible first
        | assumption | refine Keeps.event ?_ .. | refine Keeps.puts ?_ .. | refine Keeps.raise ?_ ..)

theorem Keeps.cqPut {s : State} (h :
    s0.Keeps s) (r : Nat) (irq : Bool) (entry : List Byte) : s0.Keeps (s.cqPut r irq entry) := by
  unfold State.cqPut
  repeat' first
    | (intro y; refine (fun hy : s0.Keeps y => ?_) ?_; on_goal 2 => dsimp only [y]; on_goal 1 => clear_value y)
    | (intro y; try clear_value y)
    | lift_lets
    | (with_reducible first
        | assumption | refine Keeps.ite ?_ ?_ | refine Keeps.put ?_ .. | refine Keeps.raise ?_ ..
        | refine Keeps.ringFault ?_ .. | refine Keeps.writePhys ?_ ..)
    | (show Kept s0 _ _ _ _ _; dsimp only; with_reducible refine Keeps.of ?_)
    | split

theorem Keeps.cqWrite {s : State} (h :
    s0.Keeps s) (r : Nat) (irq : Bool) (entry : List Byte) : s0.Keeps (s.cqWrite r irq entry) := by
  unfold State.cqWrite
  repeat' first
    | (with_reducible first
        | assumption | refine Keeps.ite ?_ ?_ | refine Keeps.cqPut ?_ .. | refine Keeps.ite1 ?_ ..
        | refine Keeps.put ?_ .. | refine Keeps.raise ?_ .. | refine Keeps.ringFault ?_ ..
        | refine Keeps.writePhys ?_ ..)
    | (show Kept s0 _ _ _ _ _; dsimp only; with_reducible refine Keeps.of ?_)
    | split

theorem Keeps.cqFlush {s : State} (h : s0.Keeps s) : s0.Keeps s.cqFlush := by
  unfold State.cqFlush
  repeat' first
    | (with_reducible first
        | assumption | refine Keeps.ite ?_ ?_ | refine Keeps.cqWrite ?_ .. | refine Keeps.each ?_ fun _ _ _ => ?_)
    | (show Kept s0 _ _ _ _ _; dsimp only; with_reducible refine Keeps.of ?_)

theorem Keeps.answer {s : State} (h :
    s0.Keeps s) (c : Ctx) (op status detail r0 r1 : Nat) (more : List Byte) : s0.Keeps (s.answer c op status detail r0 r1 more) := by
  unfold State.answer
  repeat' first
    | (intro y; refine (fun hy : s0.Keeps y => ?_) ?_; on_goal 2 => dsimp only [y]; on_goal 1 => clear_value y)
    | (intro y; try clear_value y)
    | lift_lets
    | (with_reducible first
        | assumption | refine Keeps.ite ?_ ?_ | refine Keeps.cqWrite ?_ .. | refine Keeps.drop ?_ ..
        | refine Keeps.each ?_ fun _ _ _ => ?_ | refine Keeps.put ?_ .. | refine Keeps.raise ?_ ..)
    | (show Kept s0 _ _ _ _ _; dsimp only; with_reducible refine Keeps.of ?_)
    | split

theorem Keeps.unaccept {s : State} (h : s0.Keeps s) (src : CmdSource) : s0.Keeps (s.unaccept src) := by
  unfold State.unaccept
  repeat' first
    | with_reducible assumption
    | (show Kept s0 _ _ _ _ _; dsimp only; with_reducible refine Keeps.of ?_)
    | split

theorem Keeps.clearBad {s : State} (h : s0.Keeps s) (n : Nat) : s0.Keeps (State.clearBad n s) := by
  induction n generalizing s with
  | zero => exact h
  | succ n ih =>
    rw [State.clearBad]
    dsimp only
    split
    · exact h
    · exact ih ((h.unaccept _).answer ..)

theorem Keeps.complete {s : State} (h : s0.Keeps s) (c : Ctx) (op status detail r0 r1 : Nat) (more : List Byte) :
    s0.Keeps (s.complete c op status detail r0 r1 more) := by
  unfold State.complete
  repeat' first
    | (intro y; refine (fun hy : s0.Keeps y => ?_) ?_; on_goal 2 => dsimp only [y]; on_goal 1 => clear_value y)
    | lift_lets
    | (with_reducible first
        | assumption | refine Keeps.ite ?_ ?_ | refine Keeps.answer ?_ .. | refine Keeps.clearBad ?_ ..
        | refine Keeps.unaccept ?_ ..)
    | split

theorem Keeps.accept {s : State} (h : s0.Keeps s) (src : CmdSource) (d : List Byte) :
    s0.Keeps (s.accept src d) := by
  unfold State.accept
  repeat' first
    | (intro y; refine (fun hy : s0.Keeps y => ?_) ?_; on_goal 2 => dsimp only [y]; on_goal 1 => clear_value y)
    | lift_lets
    | (with_reducible first | assumption | refine Keeps.clearBad ?_ ..)
    | (show Kept s0 _ _ _ _ _; dsimp only; with_reducible refine Keeps.of ?_)

theorem Keeps.heldOpen {s : State} (h : s0.Keeps s) (c : Ctx) (op : Nat) : s0.Keeps (s.heldOpen c op) := by
  unfold State.heldOpen
  repeat' first
    | (intro y; refine (fun hy : s0.Keeps y => ?_) ?_; on_goal 2 => dsimp only [y]; on_goal 1 => clear_value y)
    | lift_lets
    | (with_reducible first | assumption | refine Keeps.ite ?_ ?_ | refine Keeps.put ?_ ..)
    | (show Kept s0 _ _ _ _ _; dsimp only; with_reducible refine Keeps.of ?_)
    | split

/-! ### The loader -/

theorem Keeps.inspect {s : State} (h : s0.Keeps s) (kind addr : Nat) : s0.Keeps (s.inspect kind addr).1 := by
  unfold State.inspect
  repeat' first
    | lift_lets
    | (with_reducible first | assumption | refine Keeps.fstOf ‹_› (Keeps.readPhys ?_ ..))
    | (show Kept s0 _ _ _ _ _; dsimp only; with_reducible refine Keeps.of ?_)
    | split

theorem Keeps.unload {s : State} (h : s0.Keeps s) : s0.Keeps s.unload := by
  unfold State.unload
  repeat' first
    | (intro y; refine (fun hy : s0.Keeps y => ?_) ?_; on_goal 2 => dsimp only [y]; on_goal 1 => clear_value y)
    | lift_lets
    | (with_reducible first
        | assumption | refine Keeps.foldl ?_ fun _ _ _ => ?_ | refine Keeps.clears ?_ .. | refine Keeps.dropImage ?_ ..
        | refine Keeps.each ?_ fun _ _ _ => ?_ | refine Keeps.put ?_ .. | refine Keeps.rollBack ?_ ..)
    | (show Kept s0 _ _ _ _ _; dsimp only; with_reducible refine Keeps.of ?_)

theorem Keeps.loadResult {s : State} (h : s0.Keeps s) (r : Reject) : s0.Keeps (s.loadResult r) := by
  unfold State.loadResult
  repeat' first
    | (intro y; refine (fun hy : s0.Keeps y => ?_) ?_; on_goal 2 => dsimp only [y]; on_goal 1 => clear_value y)
    | lift_lets
    | (with_reducible first | assumption | refine Keeps.event ?_ .. | refine Keeps.puts ?_ ..)

theorem Keeps.loadEnd {s : State} (h : s0.Keeps s) (c : Option Ctx) (status detail : Nat) :
    s0.Keeps (s.loadEnd c status detail) := by
  unfold State.loadEnd
  repeat' first
    | (with_reducible first | assumption | refine Keeps.complete ?_ ..)
    | split

theorem Keeps.rejectLoad {s : State} (h : s0.Keeps s) (c : Option Ctx) (r : Reject) :
    s0.Keeps (s.rejectLoad c r) := by
  unfold State.rejectLoad
  repeat' (with_reducible first
    | assumption | refine Keeps.loadEnd ?_ .. | refine Keeps.loadResult ?_ .. | refine Keeps.put ?_ ..)

theorem Keeps.refusePorts {s : State} (h : s0.Keeps s) (im : Image) : s0.Keeps (s.refusePorts im) := by
  unfold State.refusePorts
  repeat' (with_reducible first
    | assumption | refine Keeps.each ?_ fun _ _ _ => ?_ | refine Keeps.setPort ?_ .. | refine Keeps.setPort' ?_ ..)

theorem Keeps.raiseRegions {s : State} (h : s0.Keeps s) (im : Image) : s0.Keeps (s.raiseRegions im) := by
  unfold State.raiseRegions
  repeat' first
    | (intro y; refine (fun hy : s0.Keeps y => ?_) ?_; on_goal 2 => dsimp only [y]; on_goal 1 => clear_value y)
    | lift_lets
    | (with_reducible first
        | assumption | refine Keeps.ite ?_ ?_ | refine Keeps.clearTrip ?_ .. | refine Keeps.each ?_ fun _ _ _ => ?_
        | refine Keeps.moveRegion ?_ ..)

theorem Keeps.wipe {s : State} (h : s0.Keeps s) (fs : List Field) : s0.Keeps (s.wipe fs) := by
  unfold State.wipe
  repeat' (with_reducible first | assumption | refine Keeps.foldl ?_ fun _ _ _ => ?_ | refine Keeps.clearField ?_ ..)

theorem Keeps.loadClear {s : State} (h : s0.Keeps s) : s0.Keeps s.loadClear := by
  unfold State.loadClear
  repeat' first
    | (intro y; refine (fun hy : s0.Keeps y => ?_) ?_; on_goal 2 => dsimp only [y]; on_goal 1 => clear_value y)
    | lift_lets
    | (with_reducible first | assumption | refine Keeps.wipe ?_ ..)
    | (show Kept s0 _ _ _ _ _; dsimp only; with_reducible refine Keeps.of ?_)

theorem Keeps.mapCores {s : State} (h : s0.Keeps s) : s0.Keeps s.mapCores := by
  unfold State.mapCores
  repeat' first
    | (intro y; try clear_value y)
    | lift_lets
    | with_reducible assumption
    | (show Kept s0 _ _ _ _ _; dsimp only; with_reducible refine Keeps.of ?_)

theorem Keeps.preload {s : State} (h : s0.Keeps s) (b : PreloadRec) : s0.Keeps (s.preload b) := by
  unfold State.preload
  repeat' first
    | (intro y; try clear_value y)
    | lift_lets
    | (with_reducible first
        | assumption | refine Keeps.ite ?_ ?_ | refine Keeps.setCore ?_ .. | refine Keeps.store ?_ ..)

theorem Keeps.overwritePairs {s : State} (h : s0.Keeps s) (im : Image) : s0.Keeps (s.overwritePairs im) := by
  unfold State.overwritePairs
  repeat' first
    | (intro y; try clear_value y)
    | lift_lets
    | with_reducible assumption
    | (show Kept s0 _ _ _ _ _; dsimp only; with_reducible refine Keeps.of ?_)

theorem Keeps.loadCores {s : State} (h : s0.Keeps s) (im : Image) (mine : Nat → Bool) :
    s0.Keeps (s.loadCores im mine) := by
  unfold State.loadCores
  repeat' first
    | (intro y; refine (fun hy : s0.Keeps y => ?_) ?_; on_goal 2 => dsimp only [y]; on_goal 1 => clear_value y)
    | (intro y; try clear_value y)
    | lift_lets
    | (with_reducible first
        | assumption | refine Keeps.ite ?_ ?_ | refine Keeps.each ?_ fun _ _ _ => ?_ | refine Keeps.setCore ?_ ..)

theorem Keeps.loadReceives {s : State} (h : s0.Keeps s) (im : Image) (mine : Nat → Bool) :
    s0.Keeps (s.loadReceives im mine) := by
  unfold State.loadReceives
  repeat' first
    | (intro y; try clear_value y)
    | lift_lets
    | (with_reducible first | assumption | refine Keeps.each ?_ fun _ _ _ => ?_ | refine Keeps.setPort ?_ ..)

theorem Keeps.loadTables {s : State} (h : s0.Keeps s) (im : Image) : s0.Keeps (s.loadTables im) := by
  unfold State.loadTables
  repeat' first
    | (intro y; refine (fun hy : s0.Keeps y => ?_) ?_; on_goal 2 => dsimp only [y]; on_goal 1 => clear_value y)
    | lift_lets
    | (with_reducible first | assumption | refine Keeps.loadCores ?_ .. | refine Keeps.loadReceives ?_ ..)
    | (show Kept s0 _ _ _ _ _; dsimp only; with_reducible refine Keeps.of ?_)

theorem Keeps.loadRegion {s : State} (h : s0.Keeps s) (r : RegionRec) : s0.Keeps (s.loadRegion r) := by
  unfold State.loadRegion
  repeat' first
    | (intro y; refine (fun hy : s0.Keeps y => ?_) ?_; on_goal 2 => dsimp only [y]; on_goal 1 => clear_value y)
    | (intro y; try clear_value y)
    | lift_lets
    | (with_reducible first
        | assumption | refine Keeps.ite ?_ ?_ | refine Keeps.put ?_ .. | refine Keeps.setRegion ?_ ..)

theorem Keeps.loadRings {s : State} (h : s0.Keeps s) : s0.Keeps s.loadRings := by
  unfold State.loadRings
  repeat' first
    | (intro y; try clear_value y)
    | lift_lets
    | (with_reducible first | assumption | refine Keeps.each ?_ fun _ _ _ => ?_ | refine Keeps.puts ?_ ..)

theorem Keeps.loadNumerics {s : State} (h : s0.Keeps s) (im : Image) : s0.Keeps (s.loadNumerics im) := by
  unfold State.loadNumerics
  repeat' first
    | (intro y; have _g : ∀ a, y a = y a := fun _ => rfl; clear _g; dsimp only [y]; clear y)
    | (intro y; try clear_value y)
    | lift_lets
    | (with_reducible first
        | assumption | refine Keeps.each ?_ fun _ _ _ => ?_ | refine Keeps.put ?_ .. | refine Keeps.puts ?_ ..
        | refine Keeps.setTag ?_ ..)

theorem Keeps.loadTender {s : State} (h : s0.Keeps s) (im : Image) : s0.Keeps (s.loadTender im) := by
  unfold State.loadTender
  repeat' first
    | lift_lets
    | (with_reducible first | assumption | refine Keeps.each ?_ fun _ _ _ => ?_ | refine Keeps.puts ?_ ..)
    | (show Kept s0 _ _ _ _ _; dsimp only; with_reducible refine Keeps.of ?_)
    | split

theorem Keeps.loadIdentity {s : State} (h : s0.Keeps s) (im : Image) : s0.Keeps (s.loadIdentity im) := by
  unfold State.loadIdentity
  repeat' first
    | (intro y; refine (fun hy : s0.Keeps y => ?_) ?_; on_goal 2 => dsimp only [y]; on_goal 1 => clear_value y)
    | lift_lets
    | (with_reducible first
        | assumption | refine Keeps.each ?_ fun _ _ _ => ?_ | refine Keeps.put ?_ .. | refine Keeps.puts ?_ ..)
    | (show Kept s0 _ _ _ _ _; dsimp only; with_reducible refine Keeps.of ?_)

theorem Keeps.enablePort {s : State} (h : s0.Keeps s) (r : PortRec) : s0.Keeps (s.enablePort r) := by
  unfold State.enablePort
  repeat' first
    | (intro y; refine (fun hy : s0.Keeps y => ?_) ?_; on_goal 2 => dsimp only [y]; on_goal 1 => clear_value y)
    | (intro y; try clear_value y)
    | lift_lets
    | (with_reducible first
        | assumption | refine Keeps.ite ?_ ?_ | refine Keeps.puts ?_ .. | refine Keeps.setPort ?_ ..
        | refine Keeps.setPort' ?_ ..)

theorem Keeps.rereads {s : State} (h : s0.Keeps s) (addr : Nat) (im : Image) :
    s0.Keeps (s.rereads addr im).1 := by
  unfold State.rereads
  repeat' first
    | (intro y; refine (fun hy : s0.Keeps y.1 => ?_) ?_; on_goal 2 => dsimp only [y]; on_goal 1 => clear_value y)
    | lift_lets
    | (with_reducible first | assumption | refine Keeps.readPhys ?_ ..)

theorem Keeps.finishLoad {s : State} (h : s0.Keeps s) (im : Image) : s0.Keeps (s.finishLoad im) := by
  unfold State.finishLoad
  repeat' first
    | (intro y; refine (fun hy : s0.Keeps y => ?_) ?_; on_goal 2 => dsimp only [y]; on_goal 1 => clear_value y)
    | lift_lets
    | (with_reducible first
        | assumption | refine Keeps.ite ?_ ?_ | refine Keeps.clearTrip ?_ .. | refine Keeps.each ?_ fun _ _ _ => ?_
        | refine Keeps.enablePort ?_ .. | refine Keeps.initArea ?_ .. | refine Keeps.loadClear ?_ ..
        | refine Keeps.loadIdentity ?_ .. | refine Keeps.loadNumerics ?_ .. | refine Keeps.loadRegion ?_ ..
        | refine Keeps.loadResult ?_ .. | refine Keeps.loadRings ?_ .. | refine Keeps.loadTender ?_ ..
        | refine Keeps.moveRegion ?_ ..)

theorem Keeps.applyLoad {s : State} (h : s0.Keeps s) (j : LoadJob) : s0.Keeps (s.applyLoad j) := by
  unfold State.applyLoad
  repeat' first
    | (intro y; refine (fun hy : s0.Keeps y => ?_) ?_; on_goal 2 => dsimp only [y]; on_goal 1 => clear_value y)
    | (intro y; refine (fun hy : s0.Keeps y.1 => ?_) ?_; on_goal 2 => dsimp only [y]; on_goal 1 => clear_value y)
    | (intro y; try clear_value y)
    | lift_lets
    | (with_reducible first
        | assumption | refine Keeps.elim ?_ fun _ => ?_ | refine Keeps.dropDeferred ?_ ..
        | refine Keeps.each ?_ fun _ _ _ => ?_ | refine Keeps.endDrain ?_ .. | refine Keeps.finishLoad ?_ ..
        | refine Keeps.loadEnd ?_ .. | refine Keeps.loadTables ?_ .. | refine Keeps.mapCores ?_ ..
        | refine Keeps.overwritePairs ?_ .. | refine Keeps.preload ?_ .. | refine Keeps.rejectLoad ?_ ..
        | refine Keeps.rereads ?_ ..)
    | (show Kept s0 _ _ _ _ _; dsimp only; with_reducible refine Keeps.of ?_)

theorem Keeps.loadImage {s : State} (h : s0.Keeps s) (c : Ctx) (addr : Nat) : s0.Keeps (s.loadImage c addr) := by
  unfold State.loadImage
  repeat' first
    | lift_lets
    | (with_reducible first
        | assumption | refine Keeps.ite ?_ ?_ | refine Keeps.fstOf ‹_› (Keeps.inspect ?_ ..)
        | refine Keeps.loadEnd ?_ .. | refine Keeps.loadResult ?_ .. | refine Keeps.raiseRegions ?_ ..
        | refine Keeps.refusePorts ?_ .. | refine Keeps.rejectLoad ?_ .. | refine Keeps.unload ?_ ..)
    | (show Kept s0 _ _ _ _ _; dsimp only; with_reducible refine Keeps.of ?_)
    | split

/-! ### Transactions -/

theorem Keeps.portsTrained {s : State} (h : s0.Keeps s) : s0.Keeps s.portsTrained := by
  unfold State.portsTrained
  repeat' (with_reducible first | assumption | refine Keeps.each ?_ fun _ _ _ => ?_ | refine Keeps.put ?_ ..)

theorem Keeps.judgePatch {s : State} (h : s0.Keeps s) (addr : Nat) (set : RegionSet) :
    s0.Keeps (s.judgePatch addr set).1 := by
  unfold State.judgePatch
  repeat' first
    | lift_lets
    | (with_reducible first | assumption | refine Keeps.ite1 ?_ ?_ | refine Keeps.fstOf ‹_› (Keeps.inspect ?_ ..))
    | (show Kept s0 _ _ _ _ _; dsimp only; with_reducible refine Keeps.of ?_)
    | split

theorem Keeps.applyPatch {s : State} (h : s0.Keeps s) (whole new : Image) (digest : BitVec 512) (set : RegionSet) :
    s0.Keeps (s.applyPatch whole new digest set) := by
  unfold State.applyPatch
  repeat' first
    | (intro y; refine (fun hy : s0.Keeps y => ?_) ?_; on_goal 2 => dsimp only [y]; on_goal 1 => clear_value y)
    | (intro y; try clear_value y)
    | lift_lets
    | (with_reducible first
        | assumption | refine Keeps.ite ?_ ?_ | refine Keeps.bump ?_ .. | refine Keeps.each ?_ fun _ _ _ => ?_
        | refine Keeps.enablePort ?_ .. | refine Keeps.loadCores ?_ .. | refine Keeps.loadReceives ?_ ..
        | refine Keeps.loadRegion ?_ .. | refine Keeps.moveRegion ?_ .. | refine Keeps.preload ?_ ..
        | refine Keeps.put ?_ .. | refine Keeps.puts ?_ .. | refine Keeps.setPort ?_ .. | refine Keeps.setPort' ?_ ..)
    | (show Kept s0 _ _ _ _ _; dsimp only; with_reducible refine Keeps.of ?_)

theorem Keeps.patchResult {s : State} (h : s0.Keeps s) (r : Reject) : s0.Keeps (s.patchResult r) := by
  unfold State.patchResult
  repeat' first
    | (intro y; refine (fun hy : s0.Keeps y => ?_) ?_; on_goal 2 => dsimp only [y]; on_goal 1 => clear_value y)
    | lift_lets
    | (with_reducible first | assumption | refine Keeps.event ?_ .. | refine Keeps.puts ?_ ..)

theorem Keeps.txnDone {s : State} (h : s0.Keeps s) (c : Ctx) (op code r0 : Nat) :
    s0.Keeps (s.txnDone c op code r0) := by
  unfold State.txnDone
  repeat' (with_reducible first | assumption | refine Keeps.complete ?_ ..)

theorem Keeps.txnBegin {s : State} (h : s0.Keeps s) (c : Ctx) (sc : Nat) (set : RegionSet) :
    s0.Keeps (s.txnBegin c sc set) := by
  unfold State.txnBegin
  repeat' first
    | (intro y; refine (fun hy : s0.Keeps y => ?_) ?_; on_goal 2 => dsimp only [y]; on_goal 1 => clear_value y)
    | lift_lets
    | (with_reducible first
        | assumption | refine Keeps.ite ?_ ?_ | refine Keeps.complete ?_ .. | refine Keeps.count ?_ ..
        | refine Keeps.puts ?_ .. | refine Keeps.setTxn ?_ .. | refine Keeps.txnDone ?_ ..)

theorem Keeps.txnWrite {s : State} (h : s0.Keeps s) (c : Ctx) (k : Word) (v : BitVec 64) :
    s0.Keeps (s.txnWrite c k v) := by
  unfold State.txnWrite
  repeat' first
    | (intro y; try clear_value y)
    | lift_lets
    | (with_reducible first
        | assumption | refine Keeps.ite ?_ ?_ | refine Keeps.complete ?_ .. | refine Keeps.put ?_ ..
        | refine Keeps.setTxn ?_ .. | refine Keeps.txnDone ?_ ..)

theorem Keeps.commitNow {s : State} (h : s0.Keeps s) (c : Ctx) (sc : Nat) : s0.Keeps (s.commitNow c sc) := by
  unfold State.commitNow
  repeat' first
    | (intro y; refine (fun hy : s0.Keeps y => ?_) ?_; on_goal 2 => dsimp only [y]; on_goal 1 => clear_value y)
    | lift_lets
    | (with_reducible first
        | assumption | refine Keeps.ite ?_ ?_ | refine Keeps.applyTxn ?_ .. | refine Keeps.txnDone ?_ ..)
    | (show Kept s0 _ _ _ _ _; dsimp only; with_reducible refine Keeps.of ?_)

theorem Keeps.commitPatch {s : State} (h : s0.Keeps s) (c : Ctx) : s0.Keeps (s.commitPatch c) := by
  unfold State.commitPatch
  repeat' first
    | (intro y; try clear_value y)
    | lift_lets
    | (with_reducible first
        | assumption | refine Keeps.ite ?_ ?_ | refine Keeps.applyPatch ?_ .. | refine Keeps.endTxn ?_ ..
        | refine Keeps.fstOf ‹_› (Keeps.judgePatch ?_ ..) | refine Keeps.patchResult ?_ ..
        | refine Keeps.raiseRegions ?_ .. | refine Keeps.txnDone ?_ ..)
    | (show Kept s0 _ _ _ _ _; dsimp only; with_reducible refine Keeps.of ?_)
    | split

theorem Keeps.txnCommit {s : State} (h : s0.Keeps s) (c : Ctx) (sc : Nat) (quiet : Bool) :
    s0.Keeps (s.txnCommit c sc quiet) := by
  unfold State.txnCommit
  repeat' first
    | (with_reducible first
        | assumption | refine Keeps.ite ?_ ?_ | refine Keeps.commitNow ?_ .. | refine Keeps.commitPatch ?_ ..
        | refine Keeps.complete ?_ .. | refine Keeps.endTxn ?_ .. | refine Keeps.put ?_ .. | refine Keeps.txnDone ?_ ..)
    | split

theorem Keeps.txnRollback {s : State} (h : s0.Keeps s) (c : Ctx) (sc : Nat) : s0.Keeps (s.txnRollback c sc) := by
  unfold State.txnRollback
  repeat' first
    | (intro y; try clear_value y)
    | lift_lets
    | (with_reducible first
        | assumption | refine Keeps.ite ?_ ?_ | refine Keeps.endTxn ?_ .. | refine Keeps.txnDone ?_ ..)

theorem Keeps.requesterReset {s : State} (h : s0.Keeps s) (who : Nat) : s0.Keeps (s.requesterReset who) := by
  unfold State.requesterReset
  repeat' first
    | (intro y; try clear_value y)
    | lift_lets
    | (with_reducible first
        | assumption | refine Keeps.ite ?_ ?_ | refine Keeps.each ?_ fun _ _ _ => ?_ | refine Keeps.endTxn ?_ ..
        | refine Keeps.raise ?_ ..)

/-! ### RUN, LADDER, pairing -/

theorem Keeps.limited {s : State} (h : s0.Keeps s) (tag : Nat) (v lo hi : Int) :
    s0.Keeps (s.limited tag v lo hi).1 := by
  unfold State.limited
  repeat' (with_reducible first | assumption | refine Keeps.ite1 ?_ ?_ | refine Keeps.event ?_ ..)

theorem Keeps.takeHeader {s : State} (h : s0.Keeps s) (bs : List Byte) : s0.Keeps (s.takeHeader bs) := by
  unfold State.takeHeader
  repeat' first
    | (intro y; have _g : ∀ a, y a = y a := fun _ => rfl; clear _g; dsimp only [y]; clear y)
    | lift_lets
    | (with_reducible first
        | assumption | refine Keeps.ite1 ?_ ?_ | refine Keeps.limited ?_ .. | refine Keeps.puts ?_ ..)

theorem Keeps.markIf {s : State} (h : s0.Keeps s) (differs : Bool) (i : Nat) : s0.Keeps (s.markIf differs i) := by
  unfold State.markIf
  repeat' (with_reducible first | assumption | refine Keeps.ite ?_ ?_ | refine Keeps.mark ?_ ..)

theorem Keeps.takeTag {s : State} (h : s0.Keeps s) (t : Nat) (e w : List Byte) : s0.Keeps (s.takeTag t e w) := by
  unfold State.takeTag
  repeat' first
    | (intro y; try clear_value y)
    | lift_lets
    | (with_reducible first
        | assumption | refine Keeps.ite ?_ ?_ | refine Keeps.limited ?_ .. | refine Keeps.markIf ?_ ..
        | refine Keeps.putExp ?_ .. | refine Keeps.setTag ?_ ..)

theorem Keeps.takeTags {s : State} (h : s0.Keeps s) (n t : Nat) (es ws : List Byte) : s0.Keeps (takeTags n t es ws s) := by
  induction n generalizing s t es ws with
  | zero => exact h
  | succ n ih => exact ih (h.takeTag ..) ..

theorem Keeps.readArea {s : State} (h : s0.Keeps s) : s0.Keeps s.readArea.1 := by
  unfold State.readArea
  repeat' first
    | (with_reducible first
        | assumption | refine Keeps.fstOf ‹_› (Keeps.readPhys ?_ ..) | refine Keeps.takeHeader ?_ ..
        | refine Keeps.takeTags ?_ ..)
    | (show Kept s0 _ _ _ _ _; dsimp only; with_reducible refine Keeps.of ?_)
    | split

theorem Keeps.firstQuiet {s : State} (h : s0.Keeps s) : s0.Keeps s.firstQuiet := by
  unfold State.firstQuiet
  repeat' first
    | (with_reducible first | assumption | refine Keeps.checkStarved ?_ .. | refine Keeps.put ?_ ..)
    | (show Kept s0 _ _ _ _ _; dsimp only; with_reducible refine Keeps.of ?_)

theorem Keeps.runReset {s : State} (h : s0.Keeps s) : s0.Keeps s.runReset := by
  unfold State.runReset
  repeat' first
    | (intro y; refine (fun hy : s0.Keeps y => ?_) ?_; on_goal 2 => dsimp only [y]; on_goal 1 => clear_value y)
    | (intro y; try clear_value y)
    | lift_lets
    | (with_reducible first
        | assumption | refine Keeps.each ?_ fun _ _ _ => ?_ | refine Keeps.flag ?_ .. | refine Keeps.puts ?_ ..
        | refine Keeps.setCore ?_ .. | refine Keeps.setStep ?_ .. | refine Keeps.wipe ?_ ..)
    | (show Kept s0 _ _ _ _ _; dsimp only; with_reducible refine Keeps.of ?_)

theorem Keeps.plannedEvent {s : State} (h : s0.Keeps s) : s0.Keeps s.plannedEvent := by
  unfold State.plannedEvent
  repeat' first
    | (intro y; try clear_value y)
    | lift_lets
    | (with_reducible first | assumption | refine Keeps.ite ?_ ?_ | refine Keeps.event ?_ ..)

theorem Keeps.release' {s : State} (h : s0.Keeps s) : s0.Keeps (State.release' s) := by
  unfold State.release'
  repeat' first
    | (intro y; refine (fun hy : s0.Keeps y => ?_) ?_; on_goal 2 => dsimp only [y]; on_goal 1 => clear_value y)
    | lift_lets
    | (with_reducible first
        | assumption | refine Keeps.ite ?_ ?_ | refine Keeps.checkComplete ?_ .. | refine Keeps.each ?_ fun _ _ _ => ?_
        | refine Keeps.put ?_ ..)
    | (show Kept s0 _ _ _ _ _; dsimp only; with_reducible refine Keeps.of ?_)

theorem Keeps.runJob {s : State} (h : s0.Keeps s) (c : Ctx) : s0.Keeps (s.runJob c) := by
  unfold State.runJob
  repeat' first
    | lift_lets
    | (with_reducible first
        | assumption | refine Keeps.ite1 ?_ ?_ | refine Keeps.ite ?_ ?_ | refine Keeps.complete ?_ ..
        | refine Keeps.each ?_ fun _ _ _ => ?_ | refine Keeps.firstQuiet ?_ .. | refine Keeps.recommend ?_ .. | refine Keeps.flag ?_ ..
        | refine Keeps.moveRegion ?_ .. | refine Keeps.plannedEvent ?_ .. | refine Keeps.readArea ?_ ..
        | refine Keeps.release' ?_ .. | refine Keeps.runReset ?_ .. | refine Keeps.writePages ?_ ..
        | refine Keeps.fstOf ‹_› ?_)
    | (show Kept s0 _ _ _ _ _; dsimp only; with_reducible refine Keeps.of ?_)
    | split

theorem Keeps.finishHalt {s : State} (h : s0.Keeps s) : s0.Keeps s.finishHalt := by
  unfold State.finishHalt
  repeat' first
    | (with_reducible first | assumption | refine Keeps.ite ?_ ?_ | refine Keeps.complete ?_ ..)
    | (show Kept s0 _ _ _ _ _; dsimp only; with_reducible refine Keeps.of ?_)
    | split

theorem Keeps.haltJob {s : State} (h : s0.Keeps s) (c : Ctx) : s0.Keeps (s.haltJob c) := by
  unfold State.haltJob
  repeat' first
    | (with_reducible first
        | assumption | refine Keeps.ite ?_ ?_ | refine Keeps.complete ?_ .. | refine Keeps.dropDeferred ?_ ..
        | refine Keeps.finishHalt ?_ .. | refine Keeps.stopJob ?_ ..)
    | (show Kept s0 _ _ _ _ _; dsimp only; with_reducible refine Keeps.of ?_)

theorem Keeps.ladder {s : State} (h : s0.Keeps s) (c : Ctx) (target : Nat) (isSet : Bool) (set : RegionSet) :
    s0.Keeps (s.ladder c target isSet set) := by
  unfold State.ladder
  repeat' first
    | (with_reducible first | assumption | refine Keeps.ite ?_ ?_ | refine Keeps.complete ?_ ..)
    | (show Kept s0 _ _ _ _ _; dsimp only; with_reducible refine Keeps.of ?_)
    | split

theorem Keeps.ladderDone {s : State} (h : s0.Keeps s) : s0.Keeps s.ladderDone := by
  unfold State.ladderDone
  repeat' first
    | (intro y; refine (fun hy : s0.Keeps y => ?_) ?_; on_goal 2 => dsimp only [y]; on_goal 1 => clear_value y)
    | lift_lets
    | (with_reducible first
        | assumption | refine Keeps.ite ?_ ?_ | refine Keeps.complete ?_ .. | refine Keeps.each ?_ fun _ _ _ => ?_
        | refine Keeps.moveModule ?_ .. | refine Keeps.moveRegion ?_ ..)
    | (show Kept s0 _ _ _ _ _; dsimp only; with_reducible refine Keeps.of ?_)
    | split

theorem Keeps.pairUp {s : State} (h : s0.Keeps s) (m : Nat) (r : PairReply) : s0.Keeps (s.pairUp m r) := by
  unfold State.pairUp
  repeat' first
    | (intro y; refine (fun hy : s0.Keeps y => ?_) ?_; on_goal 2 => dsimp only [y]; on_goal 1 => clear_value y)
    | (intro y; try clear_value y)
    | lift_lets
    | (with_reducible first
        | assumption | refine Keeps.ite ?_ ?_ | refine Keeps.event ?_ .. | refine Keeps.pairEvent ?_ ..
        | refine Keeps.puts ?_ ..)
    | (show Kept s0 _ _ _ _ _; dsimp only; with_reducible refine Keeps.of ?_)

theorem Keeps.pairCommitEnd {s : State} (h : s0.Keeps s) (c : Option Ctx) (refusal : Option Nat) :
    s0.Keeps (s.pairCommitEnd c refusal) := by
  unfold State.pairCommitEnd
  repeat' first
    | (intro y; refine (fun hy : s0.Keeps y => ?_) ?_; on_goal 2 => dsimp only [y]; on_goal 1 => clear_value y)
    | (intro y; try clear_value y)
    | lift_lets
    | (with_reducible first
        | assumption | refine Keeps.elim ?_ fun _ => ?_ | refine Keeps.endTxn ?_ .. | refine Keeps.put ?_ ..
        | refine Keeps.raise ?_ .. | refine Keeps.txnDone ?_ ..)
    | split

theorem Keeps.pairEnd {s : State} (h : s0.Keeps s) (j : PairJob) (reply : Option PairReply) :
    s0.Keeps (s.pairEnd j reply) := by
  unfold State.pairEnd
  repeat' first
    | (intro y; refine (fun hy : s0.Keeps y => ?_) ?_; on_goal 2 => dsimp only [y]; on_goal 1 => clear_value y)
    | (intro y; try clear_value y)
    | lift_lets
    | (with_reducible first
        | assumption | refine Keeps.ite ?_ ?_ | refine Keeps.applyPending ?_ .. | refine Keeps.applyWhere ?_ ..
        | refine Keeps.complete ?_ .. | refine Keeps.finishHalt ?_ .. | refine Keeps.pairCommitEnd ?_ ..
        | refine Keeps.pairEvent ?_ .. | refine Keeps.pairUp ?_ .. | refine Keeps.put ?_ ..
        | refine Keeps.settleQuiet ?_ ..)
    | (show Kept s0 _ _ _ _ _; dsimp only; with_reducible refine Keeps.of ?_)
    | split

theorem Keeps.pair {s : State} (h : s0.Keeps s) (c : Ctx) (m : Nat) : s0.Keeps (s.pair c m) := by
  unfold State.pair
  repeat' first
    | (with_reducible first
        | assumption | refine Keeps.ite ?_ ?_ | refine Keeps.beginPairing ?_ .. | refine Keeps.complete ?_ ..
        | refine Keeps.pairEvent ?_ .. | refine Keeps.put ?_ ..)
    | (show Kept s0 _ _ _ _ _; dsimp only; with_reducible refine Keeps.of ?_)
    | split

theorem Keeps.pairReceived {s : State} (h :
    s0.Keeps s) (n : Nat) (src : PairTags) : s0.Keeps (s.pairReceived n src) := by
  unfold State.pairReceived
  repeat' first
    | (intro y; refine (fun hy : s0.Keeps y => ?_) ?_; on_goal 2 => dsimp only [y]; on_goal 1 => clear_value y)
    | (intro y; try clear_value y)
    | lift_lets
    | (with_reducible first
        | assumption | refine Keeps.ite ?_ ?_ | refine Keeps.puts ?_ .. | refine Keeps.tell ?_ ..)
    | split

end State

end Sys2Proof.Machine
end

