-- ==== Sys2Proof/Laws/KeepsHost.lean ====
section
/-!
SUPPORT. What the shared operations keep (`State.Keeps`, Laws/Keeps.lean), continued: maintenance, fuses, attestation, host registers, power and start-up.
-/
namespace Sys2Proof.Machine

namespace State

variable {s0 : State}

/-! ### Maintenance -/

theorem Keeps.showQueue {s : State} (h : s0.Keeps s) : s0.Keeps s.showQueue := by
  unfold State.showQueue
  repeat' first
    | (intro y; try clear_value y)
    | lift_lets
    | (with_reducible first | assumption | refine Keeps.put ?_ ..)

theorem Keeps.reportActivity {s : State} (h : s0.Keeps s) (a : Activity) (result : Nat) :
    s0.Keeps (s.reportActivity a result) := by
  unfold State.reportActivity
  repeat' first
    | (intro y; refine (fun hy : s0.Keeps y => ?_) ?_; on_goal 2 => dsimp only [y]; on_goal 1 => clear_value y)
    | lift_lets
    | (with_reducible first
        | assumption | refine Keeps.event ?_ .. | refine Keeps.puts ?_ .. | refine Keeps.raise ?_ ..)

theorem Keeps.beginActivity {s : State} (h : s0.Keeps s) (a : Activity) : s0.Keeps (s.beginActivity a) := by
  unfold State.beginActivity
  repeat' first
    | (with_reducible first
        | assumption | refine Keeps.dropHosted ?_ .. | refine Keeps.each ?_ fun _ _ _ => ?_ | refine Keeps.put ?_ ..)
    | split

theorem Keeps.startNext {s : State} (h : s0.Keeps s) (xs : List Activity) (w : List Nat) : s0.Keeps (s.startNext xs w) := by
  induction xs generalizing s w with
  | nil => exact h
  | cons a xs ih =>
    unfold State.startNext
    refine Keeps.ite (ih h _) (Keeps.ite (ih h _) (Keeps.ite (ih ?_ _) (ih ?_ _)))
    · with_reducible refine Keeps.reportActivity ?_ ..
      exact h
    · with_reducible refine Keeps.beginActivity ?_ ..
      exact h

theorem Keeps.startQueued {s : State} (h : s0.Keeps s) : s0.Keeps s.startQueued := by
  unfold State.startQueued
  repeat' (with_reducible first | assumption | refine Keeps.showQueue ?_ .. | refine Keeps.startNext ?_ ..)

theorem Keeps.maintStart {s : State} (h : s0.Keeps s) (c : Ctx) (code : Nat) (p : List Byte) :
    s0.Keeps (s.maintStart c code p) := by
  unfold State.maintStart
  repeat' first
    | (intro y; refine (fun hy : s0.Keeps y => ?_) ?_; on_goal 2 => dsimp only [y]; on_goal 1 => clear_value y)
    | (intro y; try clear_value y)
    | lift_lets
    | (with_reducible first
        | assumption | refine Keeps.ite ?_ ?_ | refine Keeps.complete ?_ .. | refine Keeps.put ?_ ..
        | refine Keeps.startQueued ?_ ..)
    | (show Kept s0 _ _ _ _ _; dsimp only; with_reducible refine Keeps.of ?_)

theorem Keeps.setResult {s : State} (h : s0.Keeps s) (a : Activity) (result : Nat) :
    s0.Keeps (s.setResult a result) := h

theorem Keeps.perform {s : State} (h : s0.Keeps s) (code : Nat) {body : State → Activity → State × Nat}
    (k : ∀ y a, s0.Keeps y → s0.Keeps (body y a).1) : s0.Keeps (s.perform code body) := by
  unfold State.perform
  split
  · exact h
  · exact (k _ _ h).setResult ..

theorem Keeps.endActivity {s : State} (h : s0.Keeps s) (code : Nat) (failed : Bool) :
    s0.Keeps (s.endActivity code failed) := by
  unfold State.endActivity
  repeat' first
    | lift_lets
    | (with_reducible first
        | assumption | refine Keeps.ite ?_ ?_ | refine Keeps.each ?_ fun _ _ _ => ?_ | refine Keeps.put ?_ ..
        | refine Keeps.putSat ?_ .. | refine Keeps.reportActivity ?_ .. | refine Keeps.startQueued ?_ ..)
    | (show Kept s0 _ _ _ _ _; dsimp only; with_reducible refine Keeps.of ?_)
    | split

theorem Keeps.fillRange {s : State} (h : s0.Keeps s) (p : List Byte) : s0.Keeps (s.fillRange p) := by
  unfold State.fillRange
  repeat' (with_reducible first | assumption | refine Keeps.each ?_ fun _ _ _ => ?_ | refine Keeps.fillRegion ?_ ..)

theorem Keeps.unpaced {s : State} (h : s0.Keeps s) (units keys : List Nat) : s0.Keeps (s.unpaced units keys) := by
  unfold State.unpaced
  repeat' (with_reducible first
    | assumption | refine Keeps.each ?_ fun _ _ _ => ?_ | refine Keeps.scrubRead ?_ .. | refine Keeps.setUnit ?_ ..)

theorem Keeps.scrubAll {s : State} (h : s0.Keeps s) (p : List Byte) : s0.Keeps (s.scrubAll p).1 := by
  unfold State.scrubAll
  repeat' first
    | (intro y; try clear_value y)
    | lift_lets
    | (with_reducible first
        | assumption | refine Keeps.ite1 ?_ ?_ | refine Keeps.showPasses ?_ .. | refine Keeps.showPatrol ?_ ..
        | refine Keeps.unpaced ?_ ..)

theorem Keeps.adoptId {s : State} (h : s0.Keeps s) : s0.Keeps s.adoptId := by
  unfold State.adoptId
  repeat' first
    | (intro y; try clear_value y)
    | lift_lets
    | (with_reducible first | assumption | refine Keeps.puts ?_ ..)
    | (show Kept s0 _ _ _ _ _; dsimp only; with_reducible refine Keeps.of ?_)
    | split

theorem Keeps.trainAll {s : State} (h : s0.Keeps s) (light : List (PortRef × PortLight)) :
    s0.Keeps (s.trainAll light) := by
  unfold State.trainAll
  repeat' first
    | (intro y; have _g : ∀ a, y a = y a := fun _ => rfl; clear _g; dsimp only [y]; clear y)
    | lift_lets
    | (with_reducible first | assumption | refine Keeps.each ?_ fun _ _ _ => ?_ | refine Keeps.train ?_ ..)

theorem Keeps.senseAgain {s : State} (h : s0.Keeps s) : s0.Keeps s.senseAgain := by
  unfold State.senseAgain
  repeat' first
    | (intro y; refine (fun hy : s0.Keeps y => ?_) ?_; on_goal 2 => dsimp only [y]; on_goal 1 => clear_value y)
    | (intro y; try clear_value y)
    | lift_lets
    | (with_reducible first
        | assumption | refine Keeps.ite ?_ ?_ | refine Keeps.bump ?_ .. | refine Keeps.event ?_ ..
        | refine Keeps.put ?_ ..)

theorem Keeps.fillRanges {s : State} (h : s0.Keeps s) (xs : List (Nat × Nat)) (bs : List Byte) :
    s0.Keeps (s.fillRanges xs bs).1 := by
  induction xs generalizing s bs with
  | nil => exact h
  | cons x xs ih =>
    unfold State.fillRanges
    lift_lets
    intro r t
    have k : s0.Keeps r.1 := Keeps.foldl1 (a := (s, true)) h fun _ _ k => k.writePhys ..
    clear_value r
    exact ih k _

theorem Keeps.restore {s : State} (h : s0.Keeps s) (step : Nat) (copy : Option CopyInfo) (data : List Byte) :
    s0.Keeps (s.restore step copy data).1 := by
  unfold State.restore
  repeat' first
    | (intro y; have _g : ∀ a, y a = y a := fun _ => rfl; clear _g; dsimp only [y]; clear y)
    | lift_lets
    | (with_reducible first
        | assumption | refine Keeps.ite1 ?_ ?_ | refine Keeps.event ?_ ..
        | refine Keeps.fstOf ‹_› (Keeps.fillRanges ?_ ..) | refine Keeps.puts ?_ ..)
    | split

theorem Keeps.query {s : State} (h : s0.Keeps s) (slots : Option (CopyInfo × CopyInfo)) :
    s0.Keeps (s.query slots).1 := by
  unfold State.query
  repeat' first
    | (intro y; have _g : ∀ a, y a = y a := fun _ => rfl; clear _g; dsimp only [y]; clear y)
    | lift_lets
    | (with_reducible first | assumption | refine Keeps.ite1 ?_ ?_ | refine Keeps.puts ?_ ..)
    | split

theorem Keeps.secureLocal {s : State} (h : s0.Keeps s) : s0.Keeps s.secureLocal := by
  unfold State.secureLocal
  repeat' first
    | (intro y; try clear_value y)
    | lift_lets
    | (with_reducible first | assumption | refine Keeps.ite ?_ ?_ | refine Keeps.startDrain ?_ ..)

theorem Keeps.softClear {s : State} (h : s0.Keeps s) (gone : List Word) : s0.Keeps (s.softClear gone) := by
  unfold State.softClear
  repeat' first
    | (intro y; refine (fun hy : s0.Keeps y => ?_) ?_; on_goal 2 => dsimp only [y]; on_goal 1 => clear_value y)
    | (intro y; try clear_value y)
    | lift_lets
    | (with_reducible first
        | assumption | refine Keeps.ite ?_ ?_ | refine Keeps.each ?_ fun _ _ _ => ?_ | refine Keeps.event ?_ ..
        | refine Keeps.put ?_ .. | refine Keeps.setPort' ?_ .. | refine Keeps.wantTraining ?_ ..)
    | (show Kept s0 _ _ _ _ _; dsimp only; with_reducible refine Keeps.of ?_)
    | split

theorem Keeps.clearDefect {s : State} (h : s0.Keeps s) (d : Word) : s0.Keeps (s.clearDefect d).1 := by
  unfold State.clearDefect
  repeat' first
    | (intro y; try clear_value y)
    | lift_lets
    | (with_reducible first | assumption | refine Keeps.ite1 ?_ ?_ | refine Keeps.softClear ?_ ..)

theorem Keeps.clearKind {s : State} (h : s0.Keeps s) (k : Nat) : s0.Keeps (s.clearKind k).1 := by
  unfold State.clearKind
  repeat' first
    | (intro y; try clear_value y)
    | lift_lets
    | (with_reducible first | assumption | refine Keeps.ite1 ?_ ?_ | refine Keeps.softClear ?_ ..)

/-! ### Fuse requests -/

theorem Keeps.fuseRead {s : State} (h : s0.Keeps s) (addr : Nat) : s0.Keeps (s.fuseRead addr).1 := by
  unfold State.fuseRead
  repeat' first
    | lift_lets
    | (with_reducible first | assumption | refine Keeps.ite1 ?_ ?_ | refine Keeps.fstOf ‹_› (Keeps.readPhys ?_ ..))
    | (show Kept s0 _ _ _ _ _; dsimp only; with_reducible refine Keeps.of ?_)
    | split

theorem Keeps.fuseGo {s : State} (h : s0.Keeps s) : s0.Keeps s.fuseGo := by
  unfold State.fuseGo
  repeat' first
    | (with_reducible first
        | assumption | refine Keeps.ite ?_ ?_ | refine Keeps.fstOf ‹_› (Keeps.fuseRead ?_ ..) | refine Keeps.puts ?_ ..)
    | (show Kept s0 _ _ _ _ _; dsimp only; with_reducible refine Keeps.of ?_)
    | split

theorem Keeps.fuseShadow {s : State} (h : s0.Keeps s) (ops : List FuseOp) : s0.Keeps (s.fuseShadow ops) := by
  unfold State.fuseShadow
  repeat' first
    | (intro y; try clear_value y)
    | lift_lets
    | (with_reducible first | assumption | refine Keeps.put ?_ ..)
    | (show Kept s0 _ _ _ _ _; dsimp only; with_reducible refine Keeps.of ?_)

theorem Keeps.fuseEnd {s : State} (h : s0.Keeps s) (r : FuseReadback) : s0.Keeps (s.fuseEnd r) := by
  unfold State.fuseEnd
  lift_lets
  intro ops y
  have k : s0.Keeps y := Keeps.put h ..
  clear_value y
  split
  · with_reducible refine Keeps.fuseShadow ?_ ..
    exact Keeps.raised k (.blow _ (blowAll_le _) (blowAll_le _))
  · dsimp -zeta only
    with_reducible refine Keeps.event (Keeps.puts (Keeps.fuseShadow ?_ ..) ..) ..
    exact (k.blowPart _).fresh Config.fuseEvent

/-! ### Securing state -/

theorem Keeps.afterDrain {s : State} (h : s0.Keeps s) : s0.Keeps s.afterDrain := by
  unfold State.afterDrain
  repeat' (with_reducible first | assumption | refine Keeps.settleQuiet ?_ .. | refine Keeps.startQueued ?_ ..)

theorem Keeps.setHosted {s : State} (h : s0.Keeps s) (k : Nat) (c : Option CopyInfo) :
    s0.Keeps (s.setHosted k c) := by
  unfold State.setHosted
  repeat' first
    | (with_reducible first | assumption | refine Keeps.clears ?_ .. | refine Keeps.puts ?_ ..)
    | (show Kept s0 _ _ _ _ _; dsimp only; with_reducible refine Keeps.of ?_)
    | split

theorem Keeps.writeCopy {s : State} (h : s0.Keeps s) (k : Nat) (c : CopyInfo) (data : List Byte) :
    s0.Keeps (s.writeCopy k c data).1 := by
  unfold State.writeCopy
  dsimp only
  have l := (h.setHosted k none).fillRanges [((s.copySlot k).1 + 4096, (data.take (copyBytes c)).length)] (data.take (copyBytes c))
  split
  · exact .fstOf ‹_› l
  · have m := Keeps.fstOf ‹_› l
    refine Keeps.ite1 m ?_
    have n := m.writePhys (s.copySlot k).1 (copyHeader c (data.take (copyBytes c)).length)
    split
    · exact .fstOf ‹_› n
    · exact (Keeps.fstOf ‹_› n).setHosted ..

theorem Keeps.answerSource {s : State} (h : s0.Keeps s) (bs : List Byte) : s0.Keeps (s.answerSource bs) := by
  unfold State.answerSource
  repeat' first
    | (with_reducible first
        | assumption | refine Keeps.ite ?_ ?_ | refine Keeps.sendCopy ?_ ..)
    | (show Kept s0 _ _ _ _ _; dsimp only; with_reducible refine Keeps.of ?_)

theorem Keeps.readSlot {s : State} (h : s0.Keeps s) (k n : Nat) : s0.Keeps (s.readSlot k n).1 := by
  unfold State.readSlot
  repeat' first
    | (with_reducible first | assumption | refine Keeps.fstOf ‹_› (Keeps.readPhys ?_ ..))
    | split

theorem Keeps.requestSecure {s : State} (h : s0.Keeps s) (source : Nat) : s0.Keeps (s.requestSecure source) := by
  unfold State.requestSecure
  repeat' (with_reducible first | assumption | refine Keeps.secureRequest ?_ ..)

theorem Keeps.sampleTag {s : State} (h :
    s0.Keeps s) (feed : Nat) (tag changed : Field) (v : Nat) : s0.Keeps (s.sampleTag feed tag changed v) := by
  unfold State.sampleTag
  repeat' first
    | (with_reducible first
        | assumption | refine Keeps.ite ?_ ?_ | refine Keeps.event ?_ .. | refine Keeps.put ?_ ..
        | refine Keeps.reportTags ?_ .. | refine Keeps.unverify ?_ ..)
    | split

/-! ### PLDM and SPDM -/

theorem Keeps.flashCopy {s : State} (h : s0.Keeps s) (package : List Byte) : s0.Keeps (s.flashCopy package) := by
  unfold State.flashCopy
  repeat' first
    | with_reducible assumption
    | (show Kept s0 _ _ _ _ _; dsimp only; with_reducible refine Keeps.of ?_)
    | split

/-! ### BAR0 -/

theorem Keeps.fieldWrite {s : State} (h : s0.Keeps s) (v : Nat) (f : Field) (i : Nat) :
    s0.Keeps (s.fieldWrite v f i) := by
  unfold State.fieldWrite
  repeat' first
    | (intro y; try clear_value y)
    | lift_lets
    | (with_reducible first | assumption | refine Keeps.put ?_ .. | refine Keeps.putWord ?_ ..)
    | split

theorem Keeps.plainWrite {s : State} (h : s0.Keeps s) (off v : Nat) : s0.Keeps (s.plainWrite off v) := by
  unfold State.plainWrite
  repeat' first
    | (intro y; try clear_value y)
    | lift_lets
    | (with_reducible first
        | assumption | refine Keeps.ite ?_ ?_ | refine Keeps.each ?_ fun _ _ _ => ?_ | refine Keeps.event ?_ ..
        | refine Keeps.fieldWrite ?_ ..)

theorem Keeps.sqDoorbell {s : State} (h : s0.Keeps s) (r v : Nat) : s0.Keeps (s.sqDoorbell r v) := by
  unfold State.sqDoorbell
  repeat' first
    | (intro y; try clear_value y)
    | lift_lets
    | (with_reducible first
        | assumption | refine Keeps.ite ?_ ?_ | refine Keeps.put ?_ .. | refine Keeps.ringFault ?_ ..)

theorem Keeps.cqDoorbell {s : State} (h : s0.Keeps s) (r v : Nat) : s0.Keeps (s.cqDoorbell r v) := by
  unfold State.cqDoorbell
  repeat' first
    | (intro y; try clear_value y)
    | lift_lets
    | (with_reducible first
        | assumption | refine Keeps.ite ?_ ?_ | refine Keeps.put ?_ .. | refine Keeps.ringFault ?_ ..)

theorem Keeps.ringCfg {s : State} (h : s0.Keeps s) (r v : Nat) : s0.Keeps (s.ringCfg r v) := by
  unfold State.ringCfg
  repeat' first
    | (intro y; refine (fun hy : s0.Keeps y => ?_) ?_; on_goal 2 => dsimp only [y]; on_goal 1 => clear_value y)
    | (intro y; try clear_value y)
    | lift_lets
    | (with_reducible first
        | assumption | refine Keeps.ite ?_ ?_ | refine Keeps.ignoredWrite ?_ .. | refine Keeps.put ?_ ..
        | refine Keeps.puts ?_ ..)
    | (show Kept s0 _ _ _ _ _; dsimp only; with_reducible refine Keeps.of ?_)

theorem Keeps.ringWrite {s : State} (h : s0.Keeps s) (r w v : Nat) : s0.Keeps (s.ringWrite r w v) := by
  unfold State.ringWrite
  repeat' first
    | (intro y; try clear_value y)
    | lift_lets
    | (with_reducible first
        | assumption | refine Keeps.ite ?_ ?_ | refine Keeps.cqDoorbell ?_ .. | refine Keeps.ignoredWrite ?_ ..
        | refine Keeps.plainWrite ?_ .. | refine Keeps.ringCfg ?_ .. | refine Keeps.sqDoorbell ?_ ..)

theorem Keeps.mailCtrl {s : State} (h : s0.Keeps s) (v : Nat) : s0.Keeps (s.mailCtrl v) := by
  unfold State.mailCtrl
  repeat' first
    | (intro y; refine (fun hy : s0.Keeps y => ?_) ?_; on_goal 2 => dsimp only [y]; on_goal 1 => clear_value y)
    | lift_lets
    | (with_reducible first | assumption | refine Keeps.ite ?_ ?_ | refine Keeps.accept ?_ .. | refine Keeps.put ?_ ..)

theorem Keeps.mailWrite {s : State} (h : s0.Keeps s) (off v : Nat) : s0.Keeps (s.mailWrite off v) := by
  unfold State.mailWrite
  repeat' (with_reducible first
    | assumption | refine Keeps.ite ?_ ?_ | refine Keeps.ignoredWrite ?_ .. | refine Keeps.mailCtrl ?_ ..
    | refine Keeps.plainWrite ?_ .. | refine Keeps.ringWrite ?_ ..)

theorem Keeps.msixWrite {s : State} (h : s0.Keeps s) (off v : Nat) : s0.Keeps (s.msixWrite off v) := by
  unfold State.msixWrite
  repeat' first
    | (intro y; refine (fun hy : s0.Keeps y => ?_) ?_; on_goal 2 => dsimp only [y]; on_goal 1 => clear_value y)
    | (intro y; try clear_value y)
    | lift_lets
    | (with_reducible first
        | assumption | refine Keeps.ite ?_ ?_ | refine Keeps.event ?_ .. | refine Keeps.msixSend ?_ ..)
    | (show Kept s0 _ _ _ _ _; dsimp only; with_reducible refine Keeps.of ?_)

theorem Keeps.scrubWrite {s : State} (h : s0.Keeps s) (v : Nat) : s0.Keeps (s.scrubWrite v) := by
  unfold State.scrubWrite
  repeat' first
    | (intro y; refine (fun hy : s0.Keeps y => ?_) ?_; on_goal 2 => dsimp only [y]; on_goal 1 => clear_value y)
    | (intro y; try clear_value y)
    | lift_lets
    | (with_reducible first
        | assumption | refine Keeps.ite ?_ ?_ | refine Keeps.ignoredWrite ?_ .. | refine Keeps.put ?_ ..
        | refine Keeps.setScrub ?_ ..)

theorem Keeps.nextIdWrite {s : State} (h : s0.Keeps s) (v : Nat) : s0.Keeps (s.nextIdWrite v) := by
  unfold State.nextIdWrite
  repeat' first
    | (intro y; refine (fun hy : s0.Keeps y => ?_) ?_; on_goal 2 => dsimp only [y]; on_goal 1 => clear_value y)
    | (intro y; try clear_value y)
    | lift_lets
    | (with_reducible first | assumption | refine Keeps.puts ?_ ..)
    | (show Kept s0 _ _ _ _ _; dsimp only; with_reducible refine Keeps.of ?_)

theorem Keeps.siteTagWrite {s : State} (h : s0.Keeps s) (v : Nat) : s0.Keeps (s.siteTagWrite v) := by
  unfold State.siteTagWrite
  repeat' first
    | (intro y; refine (fun hy : s0.Keeps y => ?_) ?_; on_goal 2 => dsimp only [y]; on_goal 1 => clear_value y)
    | (intro y; try clear_value y)
    | lift_lets
    | (with_reducible first
        | assumption | refine Keeps.ite ?_ ?_ | refine Keeps.put ?_ .. | refine Keeps.reportTags ?_ ..
        | refine Keeps.unverify ?_ ..)
    | (show Kept s0 _ _ _ _ _; dsimp only; with_reducible refine Keeps.of ?_)

theorem Keeps.hostedAreaWrite {s : State} (h : s0.Keeps s) (off v : Nat) :
    s0.Keeps (s.hostedAreaWrite off v) := by
  unfold State.hostedAreaWrite
  repeat' first
    | (intro y; refine (fun hy : s0.Keeps y => ?_) ?_; on_goal 2 => dsimp only [y]; on_goal 1 => clear_value y)
    | lift_lets
    | (with_reducible first
        | assumption | refine Keeps.ite ?_ ?_ | refine Keeps.dropHosted ?_ .. | refine Keeps.ignoredWrite ?_ ..
        | refine Keeps.plainWrite ?_ ..)

theorem Keeps.hostedRelease {s : State} (h : s0.Keeps s) (v : Nat) : s0.Keeps (s.hostedRelease v) := by
  unfold State.hostedRelease
  repeat' (with_reducible first
    | assumption | refine Keeps.ite ?_ ?_ | refine Keeps.dropHosted ?_ .. | refine Keeps.puts ?_ ..)

theorem Keeps.debugWrite {s : State} (h : s0.Keeps s) (r off v : Nat) : s0.Keeps (s.debugWrite r off v) := by
  unfold State.debugWrite
  repeat' first
    | (intro y; try clear_value y)
    | lift_lets
    | (with_reducible first
        | assumption | refine Keeps.ite ?_ ?_ | refine Keeps.ignoredWrite ?_ .. | refine Keeps.plainWrite ?_ ..
        | refine Keeps.writeDbgSel ?_ ..)

theorem Keeps.blockWrite1 {s : State} (h : s0.Keeps s) (off v : Nat) : s0.Keeps (s.blockWrite1 off v) := by
  unfold State.blockWrite1
  repeat' (with_reducible first
    | assumption | refine Keeps.ite ?_ ?_ | refine Keeps.event ?_ .. | refine Keeps.fuseGo ?_ ..
    | refine Keeps.ignoredWrite ?_ .. | refine Keeps.plainWrite ?_ .. | refine Keeps.writeRestart ?_ ..)

theorem Keeps.stepCtrlWrite {s : State} (h : s0.Keeps s) (off v : Nat) : s0.Keeps (s.stepCtrlWrite off v) := by
  unfold State.stepCtrlWrite
  repeat' first
    | (intro y; refine (fun hy : s0.Keeps y => ?_) ?_; on_goal 2 => dsimp only [y]; on_goal 1 => clear_value y)
    | lift_lets
    | (with_reducible first
        | assumption | refine Keeps.ite ?_ ?_ | refine Keeps.ignoredWrite ?_ .. | refine Keeps.put ?_ ..)

theorem Keeps.blockWrite2 {s : State} (h : s0.Keeps s) (off v : Nat) : s0.Keeps (s.blockWrite2 off v) := by
  unfold State.blockWrite2
  repeat' first
    | (with_reducible first
        | assumption | refine Keeps.ite ?_ ?_ | refine Keeps.hostedAreaWrite ?_ .. | refine Keeps.hostedRelease ?_ ..
        | refine Keeps.ignoredWrite ?_ .. | refine Keeps.nextIdWrite ?_ .. | refine Keeps.plainWrite ?_ ..
        | refine Keeps.put ?_ .. | refine Keeps.puts ?_ .. | refine Keeps.scrubWrite ?_ ..
        | refine Keeps.siteTagWrite ?_ .. | refine Keeps.stepCtrlWrite ?_ .. | refine Keeps.writeCeSel ?_ ..
        | refine Keeps.writeInProd ?_ .. | refine Keeps.writePortCtrl ?_ ..)
    | split

theorem Keeps.regWrite {s : State} (h : s0.Keeps s) (off v : Nat) : s0.Keeps (s.regWrite off v) := by
  unfold State.regWrite
  repeat' first
    | (with_reducible first
        | assumption | refine Keeps.ite ?_ ?_ | refine Keeps.blockWrite1 ?_ .. | refine Keeps.blockWrite2 ?_ ..
        | refine Keeps.debugWrite ?_ .. | refine Keeps.mailWrite ?_ .. | refine Keeps.msixWrite ?_ ..)
    | split

theorem Keeps.readTouch {s : State} (h : s0.Keeps s) (off : Nat) : s0.Keeps (s.readTouch off) := by
  unfold State.readTouch
  repeat' first
    | (intro y; refine (fun hy : s0.Keeps y => ?_) ?_; on_goal 2 => dsimp only [y]; on_goal 1 => clear_value y)
    | (intro y; try clear_value y)
    | lift_lets
    | (with_reducible first
        | assumption | refine Keeps.ite ?_ ?_ | refine Keeps.event ?_ .. | refine Keeps.put ?_ ..
        | refine Keeps.useFree ?_ ..)
    | split

theorem Keeps.readWords {s : State} (h : s0.Keeps s) (xs : List Nat) : s0.Keeps (s.readWords xs).1 := by
  induction xs generalizing s with
  | nil => exact h
  | cons x xs ih => exact ih (h.readTouch _)

theorem Keeps.bar0Do {s : State} (h : s0.Keeps s) (off : Nat) (op : HostOp) : s0.Keeps (s.bar0Do off op) := by
  unfold State.bar0Do
  repeat' first
    | (intro y; refine (fun hy : s0.Keeps y => ?_) ?_; on_goal 2 => dsimp only [y]; on_goal 1 => clear_value y)
    | lift_lets
    | (with_reducible first
        | assumption | refine Keeps.each ?_ fun _ _ _ => ?_ | refine Keeps.event ?_ .. | refine Keeps.readWords ?_ ..
        | refine Keeps.regWrite ?_ ..)
    | (show Kept s0 _ _ _ _ _; dsimp only; with_reducible refine Keeps.of ?_)
    | split

theorem Keeps.bar0Arrive {s : State} (h : s0.Keeps s) (off : Nat) (op : HostOp) :
    s0.Keeps (s.bar0Arrive off op) := by
  unfold State.bar0Arrive
  repeat' first
    | (with_reducible first | assumption | refine Keeps.ite ?_ ?_ | refine Keeps.bar0Do ?_ ..)
    | (show Kept s0 _ _ _ _ _; dsimp only; with_reducible refine Keeps.of ?_)
    | split

theorem Keeps.bar0Write {s : State} (h : s0.Keeps s) (off : Nat) (v : Word) : s0.Keeps (s.bar0Write off v) := by
  unfold State.bar0Write
  repeat' (with_reducible first | assumption | refine Keeps.bar0Arrive ?_ ..)

theorem Keeps.resume {s : State} (h : s0.Keeps s) (x : Stalled) : s0.Keeps (s.resume x) := by
  unfold State.resume
  repeat' first
    | (with_reducible first
        | assumption | refine Keeps.ite ?_ ?_ | refine Keeps.bar0Do ?_ .. | refine Keeps.hostClusterArrive ?_ ..)
    | (show Kept s0 _ _ _ _ _; dsimp only; with_reducible refine Keeps.of ?_)

theorem Keeps.drainPosted {s : State} (h : s0.Keeps s) (n : Nat) : s0.Keeps (State.drainPosted n s) := by
  induction n generalizing s with
  | zero => exact h
  | succ n ih =>
    unfold State.drainPosted
    split
    · exact h
    · refine Keeps.ite h (ih ?_)
      with_reducible refine Keeps.resume ?_ ..
      exact h

theorem Keeps.stalledDone {s : State} (h : s0.Keeps s) (r : Nat) : s0.Keeps (s.stalledDone r) := by
  unfold State.stalledDone
  repeat' first
    | (with_reducible first
        | assumption | refine Keeps.ite ?_ ?_ | refine Keeps.drainPosted ?_ .. | refine Keeps.resume ?_ ..)
    | (show Kept s0 _ _ _ _ _; dsimp only; with_reducible refine Keeps.of ?_)
    | split

/-! ### Eloap -/

theorem Keeps.writeLog {s : State} (h : s0.Keeps s) (a : Nat) (es : List LogEntry) : s0.Keeps (s.writeLog a es).1 := by
  induction es generalizing s a with
  | nil => exact h
  | cons e es ih =>
    rw [State.writeLog]
    have k := h.writePhys a e.bytes
    split
    · rename_i x; rw [x] at k; exact k
    · rename_i x; rw [x] at k; exact ih k _

theorem Keeps.coverLog {s : State} (h : s0.Keeps s) (es : List LogEntry) : s0.Keeps (s.coverLog es) := h

theorem Keeps.logRead {s : State} (h : s0.Keeps s) (c : Ctx) (first count dest : Nat) (inline : Bool) :
    s0.Keeps (s.logRead c first count dest inline) := by
  unfold State.logRead
  repeat' first
    | (intro y; refine (fun hy : s0.Keeps y.1 => ?_) ?_; on_goal 2 => dsimp only [y]; on_goal 1 => clear_value y)
    | (intro y; try clear_value y)
    | lift_lets
    | (with_reducible first
        | assumption | refine Keeps.ite ?_ ?_ | refine Keeps.complete ?_ .. | refine Keeps.coverLog ?_ ..
        | refine Keeps.writeLog ?_ ..)

theorem Keeps.fetchEntry {s : State} (h : s0.Keeps s) (r : Fin 4) : s0.Keeps (s.fetchEntry r) := by
  unfold State.fetchEntry
  repeat' first
    | (intro y; try clear_value y)
    | lift_lets
    | (with_reducible first
        | assumption | refine Keeps.accept ?_ .. | refine Keeps.put ?_ ..
        | refine Keeps.fstOf ‹_› (Keeps.readPhys ?_ ..) | refine Keeps.ringFault ?_ ..)
    | split

theorem Keeps.hostReset {s : State} (h : s0.Keeps s) : s0.Keeps s.hostReset := by
  unfold State.hostReset
  repeat' first
    | (intro y; refine (fun hy : s0.Keeps y => ?_) ?_; on_goal 2 => dsimp only [y]; on_goal 1 => clear_value y)
    | (intro y; try clear_value y)
    | lift_lets
    | (with_reducible first
        | assumption | refine Keeps.clears ?_ .. | refine Keeps.each ?_ fun _ _ _ => ?_ | refine Keeps.put ?_ ..
        | refine Keeps.requesterReset ?_ ..)
    | (show Kept s0 _ _ _ _ _; dsimp only; with_reducible refine Keeps.of ?_)

/-! ### Power and heat -/

theorem Keeps.setFeedCtr {s : State} (h : s0.Keeps s) (f : FeedName) (c : FeedCtr) :
    s0.Keeps (s.setFeedCtr f c) := by
  unfold State.setFeedCtr
  repeat' first
    | with_reducible assumption
    | (show Kept s0 _ _ _ _ _; dsimp only; with_reducible refine Keeps.of ?_)
    | split

theorem Keeps.feedSample {s : State} (h : s0.Keeps s) (f : FeedName) (r : FeedReading) :
    s0.Keeps (s.feedSample f r) := by
  unfold State.feedSample
  repeat' first
    | (intro y; refine (fun hy : s0.Keeps y => ?_) ?_; on_goal 2 => dsimp only [y]; on_goal 1 => clear_value y)
    | (intro y; try clear_value y)
    | lift_lets
    | (with_reducible first
        | assumption | refine Keeps.ite ?_ ?_ | refine Keeps.event ?_ .. | refine Keeps.put ?_ ..
        | refine Keeps.puts ?_ .. | refine Keeps.setFeedCtr ?_ ..)

theorem Keeps.isolate {s : State} (h : s0.Keeps s) (f : FeedName) (st detail : Nat) :
    s0.Keeps (s.isolate f st detail) := by
  unfold State.isolate
  repeat' first
    | (intro y; refine (fun hy : s0.Keeps y => ?_) ?_; on_goal 2 => dsimp only [y]; on_goal 1 => clear_value y)
    | (intro y; try clear_value y)
    | lift_lets
    | (with_reducible first
        | assumption | refine Keeps.alert ?_ .. | refine Keeps.bump ?_ .. | refine Keeps.event ?_ ..
        | refine Keeps.puts ?_ .. | refine Keeps.raise ?_ ..)

theorem Keeps.overcurrent {s : State} (h : s0.Keeps s) (f : FeedName) : s0.Keeps (s.overcurrent f) := by
  unfold State.overcurrent
  repeat' first
    | (intro y; try clear_value y)
    | lift_lets
    | (with_reducible first | assumption | refine Keeps.isolate ?_ .. | refine Keeps.setFeedCtr ?_ ..)

theorem Keeps.sagOn {s : State} (h : s0.Keeps s) (volts : Nat) : s0.Keeps (s.sagOn volts) := by
  unfold State.sagOn
  repeat' first
    | (intro y; refine (fun hy : s0.Keeps y => ?_) ?_; on_goal 2 => dsimp only [y]; on_goal 1 => clear_value y)
    | lift_lets
    | (with_reducible first
        | assumption | refine Keeps.ite ?_ ?_ | refine Keeps.alert ?_ .. | refine Keeps.bump ?_ ..
        | refine Keeps.event ?_ .. | refine Keeps.put ?_ .. | refine Keeps.puts ?_ .. | refine Keeps.raise ?_ ..
        | refine Keeps.secureRequest ?_ ..)

theorem Keeps.sagOff {s : State} (h : s0.Keeps s) : s0.Keeps s.sagOff := by
  unfold State.sagOff
  repeat' (with_reducible first | assumption | refine Keeps.put ?_ .. | refine Keeps.setCap ?_ ..)

theorem Keeps.holdup {s : State} (h : s0.Keeps s) (volts : Nat) : s0.Keeps (s.holdup volts) := by
  unfold State.holdup
  repeat' (with_reducible first | assumption | refine Keeps.ite ?_ ?_ | refine Keeps.put ?_ ..)

theorem Keeps.storeEnergy {s : State} (h : s0.Keeps s) (joules : Nat) : s0.Keeps (s.storeEnergy joules) := by
  unfold State.storeEnergy
  repeat' first
    | (intro y; refine (fun hy : s0.Keeps y => ?_) ?_; on_goal 2 => dsimp only [y]; on_goal 1 => clear_value y)
    | (intro y; try clear_value y)
    | lift_lets
    | (with_reducible first | assumption | refine Keeps.ite ?_ ?_ | refine Keeps.put ?_ .. | refine Keeps.puts ?_ ..)

theorem Keeps.busSample {s : State} (h : s0.Keeps s) (volts : Nat) : s0.Keeps (s.busSample volts) := by
  unfold State.busSample
  repeat' first
    | (intro y; refine (fun hy : s0.Keeps y => ?_) ?_; on_goal 2 => dsimp only [y]; on_goal 1 => clear_value y)
    | (intro y; try clear_value y)
    | lift_lets
    | (with_reducible first
        | assumption | refine Keeps.ite ?_ ?_ | refine Keeps.classM ?_ .. | refine Keeps.event ?_ ..
        | refine Keeps.holdup ?_ .. | refine Keeps.putSat ?_ .. | refine Keeps.sagOff ?_ .. | refine Keeps.sagOn ?_ ..)
    | (show Kept s0 _ _ _ _ _; dsimp only; with_reducible refine Keeps.of ?_)

theorem Keeps.capTick {s : State} (h : s0.Keeps s) : s0.Keeps s.capTick := by
  unfold State.capTick
  repeat' first
    | (intro y; refine (fun hy : s0.Keeps y => ?_) ?_; on_goal 2 => dsimp only [y]; on_goal 1 => clear_value y)
    | (intro y; try clear_value y)
    | lift_lets
    | (with_reducible first | assumption | refine Keeps.ite ?_ ?_ | refine Keeps.put ?_ .. | refine Keeps.putSat ?_ ..)
    | (show Kept s0 _ _ _ _ _; dsimp only; with_reducible refine Keeps.of ?_)

theorem Keeps.capTicks (n : Nat) {s : State} (h : s0.Keeps s) : s0.Keeps (s.capTicks n) := by
  induction n generalizing s with
  | zero => exact h.capTick
  | succ n ih => exact ih h.capTick

theorem Keeps.fcTick {s : State} (h : s0.Keeps s) : s0.Keeps s.fcTick := by
  unfold State.fcTick
  repeat' first
    | (intro y; try clear_value y)
    | lift_lets
    | (with_reducible first
        | assumption | refine Keeps.ite ?_ ?_ | refine Keeps.each ?_ fun _ _ _ => ?_ | refine Keeps.setRegion ?_ ..)

theorem Keeps.shortRegion {s : State} (h : s0.Keeps s) (r : Nat) : s0.Keeps (s.shortRegion r) := by
  unfold State.shortRegion
  repeat' first
    | (intro y; refine (fun hy : s0.Keeps y => ?_) ?_; on_goal 2 => dsimp only [y]; on_goal 1 => clear_value y)
    | lift_lets
    | (with_reducible first
        | assumption | refine Keeps.classJ ?_ .. | refine Keeps.event ?_ .. | refine Keeps.firmwareDefect ?_ ..
        | refine Keeps.latchRegion ?_ ..)

theorem Keeps.thermalTrip {s : State} (h : s0.Keeps s) (r : Nat) : s0.Keeps (s.thermalTrip r) := by
  unfold State.thermalTrip
  repeat' first
    | (intro y; refine (fun hy : s0.Keeps y => ?_) ?_; on_goal 2 => dsimp only [y]; on_goal 1 => clear_value y)
    | (intro y; try clear_value y)
    | lift_lets
    | (with_reducible first
        | assumption | refine Keeps.alert ?_ .. | refine Keeps.bump ?_ .. | refine Keeps.classJ ?_ ..
        | refine Keeps.event ?_ .. | refine Keeps.raise ?_ .. | refine Keeps.tripRegion ?_ ..)

theorem Keeps.loseLock {s : State} (h : s0.Keeps s) (r : Nat) : s0.Keeps (s.loseLock r) := by
  unfold State.loseLock
  repeat' first
    | (intro y; refine (fun hy : s0.Keeps y => ?_) ?_; on_goal 2 => dsimp only [y]; on_goal 1 => clear_value y)
    | (intro y; try clear_value y)
    | lift_lets
    | (with_reducible first
        | assumption | refine Keeps.alert ?_ .. | refine Keeps.bump ?_ .. | refine Keeps.classJ ?_ ..
        | refine Keeps.event ?_ .. | refine Keeps.raise ?_ .. | refine Keeps.setRegion ?_ ..
        | refine Keeps.tripRegion ?_ ..)

theorem Keeps.setLevel {s : State} (h : s0.Keeps s) (r k : Nat) : s0.Keeps (s.setLevel r k) := by
  unfold State.setLevel
  repeat' first
    | (intro y; refine (fun hy : s0.Keeps y => ?_) ?_; on_goal 2 => dsimp only [y]; on_goal 1 => clear_value y)
    | (intro y; try clear_value y)
    | lift_lets
    | (with_reducible first
        | assumption | refine Keeps.ite ?_ ?_ | refine Keeps.alert ?_ .. | refine Keeps.event ?_ ..
        | refine Keeps.put ?_ .. | refine Keeps.raise ?_ .. | refine Keeps.setRegion ?_ ..)

theorem Keeps.coolSensor {s : State} (h : s0.Keeps s) (r : Nat) (tj : Int) : s0.Keeps (s.coolSensor r tj) := by
  unfold State.coolSensor
  repeat' first
    | (intro y; refine (fun hy : s0.Keeps y => ?_) ?_; on_goal 2 => dsimp only [y]; on_goal 1 => clear_value y)
    | (intro y; try clear_value y)
    | lift_lets
    | (with_reducible first | assumption | refine Keeps.ite ?_ ?_ | refine Keeps.put ?_ ..)
    | (show Kept s0 _ _ _ _ _; dsimp only; with_reducible refine Keeps.of ?_)

theorem Keeps.thermalSample {s : State} (h : s0.Keeps s) (r : Nat) (v : BitVec 16) :
    s0.Keeps (s.thermalSample r v) := by
  unfold State.thermalSample
  repeat' first
    | (intro y; refine (fun hy : s0.Keeps y => ?_) ?_; on_goal 2 => dsimp only [y]; on_goal 1 => clear_value y)
    | (intro y; try clear_value y)
    | lift_lets
    | (with_reducible first
        | assumption | refine Keeps.ite ?_ ?_ | refine Keeps.coolSensor ?_ .. | refine Keeps.put ?_ ..
        | refine Keeps.setLevel ?_ .. | refine Keeps.setRegion ?_ .. | refine Keeps.thermalTrip ?_ ..)

theorem Keeps.comparatorTrip {s : State} (h : s0.Keeps s) (r : Nat) : s0.Keeps (s.comparatorTrip r) := by
  unfold State.comparatorTrip
  repeat' first
    | (intro y; refine (fun hy : s0.Keeps y => ?_) ?_; on_goal 2 => dsimp only [y]; on_goal 1 => clear_value y)
    | (intro y; try clear_value y)
    | lift_lets
    | (with_reducible first
        | assumption | refine Keeps.classM ?_ .. | refine Keeps.event ?_ .. | refine Keeps.put ?_ ..)
    | (show Kept s0 _ _ _ _ _; dsimp only; with_reducible refine Keeps.of ?_)

theorem Keeps.coolWarn {s : State} (h : s0.Keeps s) (f : Field) (code value : Nat) :
    s0.Keeps (s.coolWarn f code value) := by
  unfold State.coolWarn
  repeat' (with_reducible first
    | assumption | refine Keeps.alert ?_ .. | refine Keeps.event ?_ .. | refine Keeps.puts ?_ ..
    | refine Keeps.raise ?_ ..)

theorem Keeps.checkFlow {s : State} (h :
    s0.Keeps s) (flow : Nat) (delta : Int) : s0.Keeps (s.checkFlow flow delta) := by
  unfold State.checkFlow
  repeat' first
    | (intro y; refine (fun hy : s0.Keeps y => ?_) ?_; on_goal 2 => dsimp only [y]; on_goal 1 => clear_value y)
    | (intro y; try clear_value y)
    | lift_lets
    | (with_reducible first
        | assumption | refine Keeps.ite ?_ ?_ | refine Keeps.put ?_ .. | refine Keeps.puts ?_ ..
        | refine Keeps.startWarming ?_ ..)
    | (show Kept s0 _ _ _ _ _; dsimp only; with_reducible refine Keeps.of ?_)
    | split

theorem Keeps.coolantSample {s : State} (h :
    s0.Keeps s) (inlet outlet flow : BitVec 16) : s0.Keeps (s.coolantSample inlet outlet flow) := by
  unfold State.coolantSample
  repeat' first
    | (intro y; refine (fun hy : s0.Keeps y => ?_) ?_; on_goal 2 => dsimp only [y]; on_goal 1 => clear_value y)
    | (intro y; try clear_value y)
    | lift_lets
    | (with_reducible first
        | assumption | refine Keeps.ite ?_ ?_ | refine Keeps.checkFlow ?_ .. | refine Keeps.coolWarn ?_ ..
        | refine Keeps.put ?_ .. | refine Keeps.puts ?_ ..)
    | (show Kept s0 _ _ _ _ _; dsimp only; with_reducible refine Keeps.of ?_)
    | split

theorem Keeps.endCheck {s : State} (h : s0.Keeps s) (st : Nat) (delta : BitVec 16) :
    s0.Keeps (s.endCheck st delta) := by
  unfold State.endCheck
  repeat' first
    | (intro y; refine (fun hy : s0.Keeps y => ?_) ?_; on_goal 2 => dsimp only [y]; on_goal 1 => clear_value y)
    | lift_lets
    | (with_reducible first
        | assumption | refine Keeps.ite ?_ ?_ | refine Keeps.endWarming ?_ .. | refine Keeps.event ?_ ..
        | refine Keeps.put ?_ .. | refine Keeps.raise ?_ ..)

theorem Keeps.checkEval {s : State} (h : s0.Keeps s) (delta : BitVec 16) : s0.Keeps (s.checkEval delta) := by
  unfold State.checkEval
  repeat' first
    | (intro y; refine (fun hy : s0.Keeps y => ?_) ?_; on_goal 2 => dsimp only [y]; on_goal 1 => clear_value y)
    | (intro y; try clear_value y)
    | lift_lets
    | (with_reducible first
        | assumption | refine Keeps.ite ?_ ?_ | refine Keeps.endCheck ?_ .. | refine Keeps.put ?_ ..)

theorem Keeps.checkRestart {s : State} (h : s0.Keeps s) : s0.Keeps s.checkRestart := by
  unfold State.checkRestart
  repeat' first
    | (intro y; try clear_value y)
    | lift_lets
    | (with_reducible first | assumption | refine Keeps.ite ?_ ?_ | refine Keeps.puts ?_ ..)
    | (show Kept s0 _ _ _ _ _; dsimp only; with_reducible refine Keeps.of ?_)

/-! ### Start-up -/

theorem Keeps.stepEnds {s : State} (h : s0.Keeps s) (found : StartupFindings) (i : Nat) (failed : Bool) :
    s0.Keeps (s.stepEnds found i failed) := by
  unfold State.stepEnds
  repeat' first
    | (intro y; refine (fun hy : s0.Keeps y => ?_) ?_; on_goal 2 => dsimp only [y]; on_goal 1 => clear_value y)
    | (intro y; try clear_value y)
    | lift_lets
    | (with_reducible first
        | assumption | refine Keeps.event ?_ .. | refine Keeps.put ?_ .. | refine Keeps.putSat ?_ ..)

theorem Keeps.startFresh {s : State} (h : s0.Keeps s) : s0.Keeps s.startFresh := by
  unfold State.startFresh
  repeat' first
    | (intro y; refine (fun hy : s0.Keeps y => ?_) ?_; on_goal 2 => dsimp only [y]; on_goal 1 => clear_value y)
    | (intro y; try clear_value y)
    | lift_lets
    | (with_reducible first | assumption | refine Keeps.put ?_ .. | refine Keeps.wipe ?_ ..)
    | (show Kept s0 _ _ _ _ _; dsimp only; with_reducible refine Keeps.of ?_)

theorem Keeps.fuseSense {s : State} (h : s0.Keeps s) : s0.Keeps s.fuseSense := by
  unfold State.fuseSense
  repeat' first
    | (intro y; refine (fun hy : s0.Keeps y => ?_) ?_; on_goal 2 => dsimp only [y]; on_goal 1 => clear_value y)
    | (intro y; try clear_value y)
    | lift_lets
    | (with_reducible first | assumption | refine Keeps.bump ?_ .. | refine Keeps.puts ?_ ..)
    | (show Kept s0 _ _ _ _ _; dsimp only; with_reducible refine Keeps.of ?_)

theorem Keeps.restoreLog {s : State} (h : s0.Keeps s) (found : StartupFindings) : s0.Keeps (s.restoreLog found) := by
  have fold (xs : List LogEntry) (t : State) (k : s0.Keeps t) : s0.Keeps (xs.foldr (fun e t => { t with
      log := { e with seq := t.nextSeq } :: t.log.take 4095
      nextSeq := if t.nextSeq = 0xFFFFFFFF then 1 else t.nextSeq + 1 }) t) := by
    induction xs with
    | nil => exact k
    | cons x xs ih => exact ih.of
  unfold State.restoreLog
  have k := h.put .LOG_FLASH_RESTORED 1 0
  exact Keeps.ite h (.ite k (fold _ _ k.of))

theorem Keeps.boot {s : State} (h :
    s0.Keeps s) (found : StartupFindings) (copy : Bool × BitVec 7 × BitVec 512) : s0.Keeps (s.boot found copy) := by
  unfold State.boot
  repeat' first
    | (intro y; refine (fun hy : s0.Keeps y => ?_) ?_; on_goal 2 => dsimp only [y]; on_goal 1 => clear_value y)
    | (intro y; try clear_value y)
    | lift_lets
    | (with_reducible first
        | assumption | refine Keeps.ite ?_ ?_ | refine Keeps.puts ?_ .. | refine Keeps.restoreLog ?_ ..)
    | (show Kept s0 _ _ _ _ _; dsimp only; with_reducible refine Keeps.of ?_)
    | split

theorem Keeps.powerUp {s : State} (h : s0.Keeps s) (found : StartupFindings) : s0.Keeps (s.powerUp found) := by
  unfold State.powerUp
  repeat' first
    | (intro y; refine (fun hy : s0.Keeps y => ?_) ?_; on_goal 2 => dsimp only [y]; on_goal 1 => clear_value y)
    | lift_lets
    | (with_reducible first
        | assumption | refine Keeps.ite ?_ ?_ | refine Keeps.each ?_ fun _ _ _ => ?_ | refine Keeps.latchRegion ?_ ..
        | refine Keeps.loseLock ?_ .. | refine Keeps.put ?_ .. | refine Keeps.puts ?_ ..
        | refine Keeps.shortRegion ?_ ..)

theorem Keeps.fillAll {s : State} (h : s0.Keeps s) : s0.Keeps s.fillAll := by
  unfold State.fillAll
  repeat' first
    | (with_reducible first | assumption | refine Keeps.put ?_ ..)
    | (show Kept s0 _ _ _ _ _; dsimp only; with_reducible first | refine Keeps.memNil ?_ | refine Keeps.of ?_)

theorem Keeps.testFail {s : State} (h : s0.Keeps s) (f : Field) (kind cause p : Nat) :
    s0.Keeps (s.testFail f kind cause p) := by
  unfold State.testFail
  split
  · exact h
  · split
    · rename_i e
      exact (h.addDefect e).bump ..
    · exact h

theorem Keeps.selfTest {s : State} (h : s0.Keeps s) (found : StartupFindings) : s0.Keeps (s.selfTest found) := by
  unfold State.selfTest
  repeat' first
    | (intro y; refine (fun hy : s0.Keeps y => ?_) ?_; on_goal 2 => dsimp only [y]; on_goal 1 => clear_value y)
    | (intro y; try clear_value y)
    | lift_lets
    | (with_reducible first
        | assumption | refine Keeps.ite ?_ ?_ | refine Keeps.each ?_ fun _ _ _ => ?_ | refine Keeps.fillAll ?_ ..
        | refine Keeps.testFail ?_ ..)
    | split

theorem Keeps.stackFail {s : State} (h : s0.Keeps s) (cause st : Nat) : s0.Keeps (s.stackFail cause st) := by
  unfold State.stackFail
  cases e : s.addDefect (defEntry 5 cause st) with
  | none => exact h
  | some t => exact (h.addDefect e).bump ..

theorem Keeps.trainRing {s : State} (h : s0.Keeps s) (found : StartupFindings) :
    s0.Keeps (s.trainRing found) := by
  unfold State.trainRing
  repeat' first
    | (intro y; refine (fun hy : s0.Keeps y => ?_) ?_; on_goal 2 => dsimp only [y]; on_goal 1 => clear_value y)
    | (intro y; try clear_value y)
    | lift_lets
    | (with_reducible first
        | assumption | refine Keeps.each ?_ fun _ _ _ => ?_ | refine Keeps.event ?_ .. | refine Keeps.puts ?_ ..
        | refine Keeps.stackFail ?_ ..)
    | (show Kept s0 _ _ _ _ _; dsimp only; with_reducible refine Keeps.of ?_)

theorem Keeps.opticalStart {s : State} (h : s0.Keeps s) (found : StartupFindings) :
    s0.Keeps (s.opticalStart found) := by
  unfold State.opticalStart
  repeat' first
    | (intro y; refine (fun hy : s0.Keeps y => ?_) ?_; on_goal 2 => dsimp only [y]; on_goal 1 => clear_value y)
    | lift_lets
    | (with_reducible first
        | assumption | refine Keeps.ite ?_ ?_ | refine Keeps.adoptId ?_ .. | refine Keeps.each ?_ fun _ _ _ => ?_
        | refine Keeps.put ?_ .. | refine Keeps.puts ?_ .. | refine Keeps.trainAll ?_ ..)

theorem Keeps.startMemory {s : State} (h : s0.Keeps s) (found : StartupFindings) :
    s0.Keeps (s.startMemory found) := by
  unfold State.startMemory
  repeat' first
    | (intro y; refine (fun hy : s0.Keeps y => ?_) ?_; on_goal 2 => dsimp only [y]; on_goal 1 => clear_value y)
    | lift_lets
    | (with_reducible first
        | assumption | refine Keeps.ite ?_ ?_ | refine Keeps.fillAll ?_ .. | refine Keeps.opticalStart ?_ ..
        | refine Keeps.powerUp ?_ .. | refine Keeps.put ?_ .. | refine Keeps.putSat ?_ .. | refine Keeps.selfTest ?_ ..
        | refine Keeps.stepEnds ?_ .. | refine Keeps.trainRing ?_ ..)

theorem Keeps.startUp {s : State} (h : s0.Keeps s) (found : StartupFindings) : s0.Keeps (s.startUp found) := by
  unfold State.startUp
  repeat' first
    | (intro y; refine (fun hy : s0.Keeps y => ?_) ?_; on_goal 2 => dsimp only [y]; on_goal 1 => clear_value y)
    | lift_lets
    | (with_reducible first
        | assumption | refine Keeps.ite ?_ ?_ | refine Keeps.alert ?_ .. | refine Keeps.boot ?_ ..
        | refine Keeps.fuseSense ?_ .. | refine Keeps.put ?_ .. | refine Keeps.startFresh ?_ ..
        | refine Keeps.startMemory ?_ .. | refine Keeps.stepEnds ?_ ..)
    | (show Kept s0 _ _ _ _ _; dsimp only; with_reducible refine Keeps.of ?_)
    | split

/-! ### Reports -/

theorem Keeps.latchNan {s : State} (h : s0.Keeps s) (r : NanReport) : s0.Keeps (s.latchNan r) := by
  unfold State.latchNan
  repeat' first
    | (intro y; refine (fun hy : s0.Keeps y => ?_) ?_; on_goal 2 => dsimp only [y]; on_goal 1 => clear_value y)
    | (intro y; try clear_value y)
    | lift_lets
    | (with_reducible first
        | assumption | refine Keeps.ite ?_ ?_ | refine Keeps.bump ?_ .. | refine Keeps.event ?_ ..
        | refine Keeps.puts ?_ .. | refine Keeps.raise ?_ ..)
    | (show Kept s0 _ _ _ _ _; dsimp only; with_reducible refine Keeps.of ?_)

end State

end Sys2Proof.Machine
end

