-- ==== Sys2Proof/Laws/Rows.lean ====
section
/-!
SUPPORT. A core-slot command issues its bundle: `exec` of it in one equation, and the guard of its slot.
-/
namespace Sys2Proof.Machine

/-- Every core-slot command answers a next state: its core issues the bundle at the pc with the command's slot in place. -/
theorem exec_bundle (s : State) (i : Instr) (p : PCore) (b : Bundle) (h : bundleRow s i = some (p, b)) :
    exec i s = .next (s.issue p.no b) := by
  cases i
  case nop q slot g => cases slot <;> (obtain ⟨rfl, rfl⟩ := Prod.mk.inj (Option.some.inj h); rfl)
  all_goals first | exact nomatch (id h : none = some (p, b)) | (obtain ⟨rfl, rfl⟩ := Prod.mk.inj (Option.some.inj h); rfl)

theorem exec_ctl (s : State) (i : Instr) (p : PCore) (g : Guard) (op : CtlOp) (h : ctlRow i = some (p, g, op)) :
    exec i s = .next (s.issue p.no (s.withCtl p g op)) :=
  exec_bundle s i p _ (by simp [bundleRow, h])

theorem exec_move (s : State) (i : Instr) (p : PCore) (g : Guard) (op : MoveOp) (h : ctlRow i = none)
    (hm : moveRow i = some (p, g, op)) : exec i s = .next (s.issue p.no (s.withMove p g op)) :=
  exec_bundle s i p _ (by simp [bundleRow, h, hm])

theorem exec_vec (s : State) (i : Instr) (p : PCore) (g : Guard) (op : VecOp) (h : ctlRow i = none)
    (hm : moveRow i = none) (hv : vecRow i = some (p, g, op)) :
    exec i s = .next (s.issue p.no (s.withVec p g op)) :=
  exec_bundle s i p _ (by simp [bundleRow, h, hm, hv])

/-- A slot whose guard is true acts. -/
theorem acting_withCtl {s : State} {p : PCore} {g : Guard} {op : CtlOp} (h : (s.core p.no).guard g = true) :
    (s.actingAt p.no (s.withCtl p g op)).c = op := by
  simp [State.actingAt, Bundle.acting, State.withCtl, h]

theorem acting_withMove {s : State} {p : PCore} {g : Guard} {op : MoveOp} (h : (s.core p.no).guard g = true) :
    (s.actingAt p.no (s.withMove p g op)).m = op := by
  simp [State.actingAt, Bundle.acting, State.withMove, h]

theorem acting_withVec {s : State} {p : PCore} {g : Guard} {op : VecOp} (h : (s.core p.no).guard g = true) :
    (s.actingAt p.no (s.withVec p g op)).v = op := by
  simp [State.actingAt, Bundle.acting, State.withVec, h]

theorem acting_withArr {s : State} {p : PCore} {g : Guard} {op : ArrOp} (h : (s.core p.no).guard g = true) :
    (s.actingAt p.no (s.withArr p g op)).a = op := by
  simp [State.actingAt, Bundle.acting, State.withArr, h]

@[simp] theorem CoreState.setSreg_self (c : CoreState) (d : SReg) (v : Word) :
    (c.setSreg d v).sreg d = if d = 0 then 0 else v := by
  unfold setSreg sreg; split <;> simp

theorem CoreState.setSreg_ne (c : CoreState) {d r : SReg} (v : Word) (h : r ≠ d) : (c.setSreg d v).sreg r = c.sreg r := by
  unfold setSreg sreg
  split
  · rfl
  · split
    · rfl
    · have : d.toNat ≠ r.toNat := fun e => h (BitVec.eq_of_toNat_eq e.symm)
      simp [mget_mset_ne _ _ _ this]

end Sys2Proof.Machine
end

