-- ==== Sys2Proof/Tests/Slice0.lean ====
section
/-!
SUPPORT. Small checks of the model: the operands that `Instr.wellFormed` refuses, results that the spec's own words give
for single commands, and for each statement of Certificates/Slice0/Obligations.lean a concrete state and operands that
meet its hypotheses.
-/
namespace Sys2Proof.Tests
open Sys2Proof Sys2Proof.Machine

-- One theorem at a time: each that waits for the kernel would hold a thread.
set_option Elab.async false

/-! ### Helpers -/

/-- A property of the next state; false where there is none. -/
def after (o : Host.Outcome State Fault Refusal) (f : State → Bool) : Bool :=
  match o with
  | .next t => f t
  | _ => false

def p0 : PCore := ⟨0, 0, 0⟩
/-- Core 0 runs. -/
def on0 : State := State.reset.put .CORE_STATUS_STATE 1 0
/-- The same with other contents of the core. -/
def onWith (f : CoreState → CoreState) : State := on0.setCore 0 (f (on0.core 0))
/-- The module is ready, with the host link up, 36 stacks filled memories, the clock of region 0, and firmware copy A running. -/
def up : State := { State.reset.puts 0 [(.RES_START_STATE_READY, 1), (.RES_START_STATE_STEP, 8),
    (.MEM_RING_MAP_LO_IN_USE, 0xFFFFFFFF), (.MEM_RING_MAP_HI_IN_USE, 15), (.MEM_RING_CFG_STACKS, 36),
    (.MEM_RING_CFG_SIZE_GIB, 1728), (.MEM_RING_CFG_SRAM_FILLED, 1), (.MEM_RING_CFG_RING_FILLED, 1), (.PWR_REGION_CLK, 1)] with
  firmware := some (false, 0, 0) }
def ctx : Ctx := ⟨.mailbox, 7, false⟩

/-! ### Ill-formed operands (R209, R212, R399) -/

theorem test_illFormed_ring : (Instr.hostRingAccess .cxlMem 60 (.read 8) false).wellFormed = false := by decide
theorem test_illFormed_cluster : (Instr.hostClusterAccess false 0 (.read 4)).wellFormed = false := by decide
theorem test_illFormed_bar0 : (Instr.bar0HoleAccess 0x4000000 (.read 4)).wellFormed = false := by decide
theorem test_illFormed_register : (Instr.registerWrite 0x4000000 0).wellFormed = false := by decide
theorem test_illFormed_hosted : (Instr.hostedAreaWrite 0xA0005C 0).wellFormed = false := by decide
theorem test_illFormed_scrub : (Instr.scrubAccess ⟨0, 0⟩ ⟨[72], false⟩).wellFormed = false := by decide
theorem test_illFormed_patrol : (Instr.patrolRead 0 [35]).wellFormed = false := by decide
theorem test_illFormed_mctp : (Instr.mctpCommand .pcieVdm [0]).wellFormed = false := by decide
/-- An offset beyond BAR0 does not reach the module; one of another size in BAR0 reads zeros, with an event (R400). -/
theorem test_beyond_bar0 : exec (.registerWrite 0x4000000 0) up = .next up := rfl
theorem test_odd_size : after (exec (.bar0HoleAccess 0x3E (.read 4)) up)
    (fun t => t.rsp = ⟨.ok, [0, 0, 0, 0]⟩ && t.log.length = 1) = true := by decide +kernel

/-! ### Decoding: the table gives no row any bits -/

theorem test_no_row_has_bits : decodeTableWord 32 0 = none ∧ decodeTableWord 0 1 = none := by decide

/-! ### Results -/

/-- LI takes a signed immediate (Table 3 of "The Core"). -/
theorem test_li : after (exec (.li p0 0 1 0xFFFF) on0) (fun t => (t.core 0).sreg 1 = 0xFFFFFFFF) = true := by
  decide +kernel
/-- SHR shifts by b[4:0] with zero fill (R77). -/
theorem test_shr : after (exec (.shr p0 0 3 1 2) (onWith (fun c => (c.setSreg 1 0x80000000).setSreg 2 33)))
    (fun t => (t.core 0).sreg 3 = 0x40000000) = true := by decide +kernel
/-- s0 discards a write. -/
theorem test_s0 : after (exec (.addi p0 0 0 0 5) on0) (fun t => (t.core 0).sreg 0 = 0) = true := by decide +kernel
/-- STW stores the low byte first (R78). -/
theorem test_stw : after (exec (.stw p0 0 1 0 1) (onWith (fun c => c.setSreg 1 0x11223344)))
    (fun t => memRead t.mem (nearAddr 0 4) 4 = [0x44, 0x33, 0x22, 0x11]) = true := by decide +kernel
/-- A LDW below zero traps with cause 0x08 (R78). -/
theorem test_ldw_trap : after (exec (.ldw p0 0 1 0 0xFFF) on0)
    (fun t => t.get .CORE_TRAP_CAUSE 0 = 8 && t.get .CORE_STATUS_STATE 0 = 3) = true := by decide +kernel
/-- A count of zero skips the body (R84). -/
theorem test_loop_zero : after (exec (.loop p0 0 0 false 0 5) on0) (fun t => t.get .CORE_PC_PC 0 = 6) = true := by
  decide +kernel
/-- 1.0 + 2^-24 ties to even (R95). -/
theorem test_fadd_tie : toFp32 ((ofFp32 0x3F800000).add (ofFp32 0x33800000)) = 0x3F800000 := by decide +kernel
/-- 2.5 gives 2 and -3.5 gives -4 (R170). -/
theorem test_to_int8 : (convert 5 false (ofFp32 0x40200000)).1 = 2 ∧ (convert 5 false (ofFp32 0xC0600000)).1 = 0xFC := by
  decide +kernel
/-- SHA-512 of "abc" (the example of the standard). -/
theorem test_sha512 : (sha512 [0x61, 0x62, 0x63]).take 4 = [0xDD, 0xAF, 0x35, 0xA1] := by decide +kernel
/-- The example under R17: logical core (T17, 22, 5) stands at (209, 41), in region 176. -/
theorem test_home : homeXY 17 22 5 = (209, 41) ∧ regionOf 17 22 = 176 := by decide +kernel
/-- The examples under R212 and R214: a ring address with 36 stacks, and with stack 9 lost. -/
theorem test_ring_address : up.ringLoc 0x12345678 = (9, 0x817678) ∧ up.ringChan 0x12345678 = 150 ∧
    (up.put .MEM_RING_MAP_LO_IN_USE 0xFFFFFDFF).ringLoc 0x12345678 = (16, 2130 * 4096 + 0x678) := by decide +kernel
/-- The example under R129: element (k = 70, n = 40) of 128 × 64 glazed E4M3 weights. -/
def square : ADesc := { ({ no := 0, index := 0, desc := 0, stat := 0, mov := 0, out := 0, pc := 0, skew := false } : ArrayJob).get
  with m := 1, n := 64, k := 128, statFmt := 8, movFmt := 8, blkCode := 1 }
theorem test_stationary_place : square.statOff 40 70 = 6352 ∧ square.statGlazeOff 40 70 = 200 := by decide +kernel
/-- The example under R177: a block whose largest magnitude is 3.8 takes the glaze byte 0x79. -/
theorem test_glaze : (writeBlock 8 false false ([ofFp32 0x40733333, ofFp32 0xBFA66666] ++ List.replicate 14 (.fin false 0 0))).glaze = 0x79 := by
  decide +kernel
/-- The example under R445: 100.2 °C under a throttle start of 95 °C means level 6, left below 99.5 °C. -/
theorem test_level : nextLevel 5 1604 95 = 6 ∧ nextLevel 6 1604 95 = 6 ∧ nextLevel 6 1591 95 = 5 := by decide +kernel
/-- The example under R500: 3.44 ms, 2 faults a day and steps of 143.95 ms give an interval of 120 steps. -/
theorem test_interval : interval 3440 0x20000 201530000 = 120 := by decide +kernel

/-! ### Witnesses: core slots -/

/-- Facts of a state, a core and a bundle that can be computed, and from which `Issues` follows where no word is in
error. -/
def issuesNow (s : State) (p : Nat) (b : Bundle) : Bool :=
  let c := s.core p
  let a := b.acting c
  s.get .CORE_STATUS_STATE p = 1 && s.encodingTrap p b = none && s.valueTrap c (s.pc p) a = none &&
    !(c.beforeStall a).stalls a && !c.waits a && !(a.v.result c.vreg c.sreg (s.on .CORE_CFG_FTZ p) s.free).2 &&
    decide ((c.advance c (s.pc p) a.c).2.1 ≤ 4095)
theorem near_of_bad {s : State} (h : s.bad = []) (p : Nat) : s.NearGood p := by
  intro w _; rw [h]; rfl
theorem issues_of {s : State} {p : Nat} {b : Bundle} (h : issuesNow s p b = true) (hb : s.bad = []) : s.Issues p b := by
  simp only [issuesNow, Bool.and_eq_true, decide_eq_true_eq, Bool.not_eq_true'] at h
  obtain ⟨⟨⟨⟨⟨⟨h1, h2⟩, h3⟩, h4⟩, h5⟩, h6⟩, h7⟩ := h
  exact { running := h1, encoding := h2, value := h3, free := h4, released := h5, nearGood := near_of_bad hb p,
          noNan := h6, inRange := h7 }

/-- SlotFrame: an ADDI of core 0. -/
theorem witness_slotFrame : bundleRow on0 (.addi p0 0 1 0 5) = some (p0, on0.withCtl p0 0 (.addi 1 0 5)) ∧
    on0.Issues p0.no (on0.withCtl p0 0 (.addi 1 0 5)) ∧
    ((on0.withCtl p0 0 (.addi 1 0 5)).acting (on0.core p0.no)).reaches = false :=
  ⟨by decide +kernel, issues_of (by decide +kernel) rfl, by decide +kernel⟩
/-- ScalarResults: ADD, SETP, LDW. -/
theorem witness_scalar : on0.CtlIssues p0 0 (.alu .add 1 2 3) ∧ on0.CtlIssues p0 0 (.setp 0 1 2 3) ∧
    ((on0.withCtl p0 0 (.setp 0 1 2 3)).acting (on0.core p0.no)).v = .nop ∧
    on0.CtlIssues p0 0 (.ldw 1 0 0) ∧ Memory.wf on0.mem = true :=
  ⟨⟨by decide +kernel, issues_of (by decide +kernel) rfl⟩, ⟨by decide +kernel, issues_of (by decide +kernel) rfl⟩,
   by decide +kernel, ⟨by decide +kernel, issues_of (by decide +kernel) rfl⟩, by decide +kernel⟩
theorem alone0 : on0.Alone p0 := by unfold State.Alone; decide +kernel
/-- NearSramAccesses: stores and loads at the last place below 1 MiB, and the two bad addresses next to it. -/
theorem witness_near : on0.Alone p0 ∧
    (onWith (fun c => c.setSreg 1 0xFFFFC)).CtlIssues p0 0 (.stw 2 1 0) ∧
    (onWith (fun c => c.setSreg 1 0xFFE00)).MoveIssues p0 0 (.vst 2 1 0) ∧
    (onWith (fun c => c.setSreg 1 0xFFE00)).MoveIssues p0 0 (.vld 2 1 0) ∧
    0x100000 ≤ ctlAddr ((on0.core 0).setSreg 1 0x100000) 1 0 ∧ ctlAddr ((on0.core 0).setSreg 1 2) 1 0 % 4 ≠ 0 ∧
    0x100000 ≤ moveAddr (on0.core 0) 0 0x7FF ∧ (∀ sc : Fin 4, on0.get .TXN_STATE_STATE sc < 2) ∧
    Memory.wf (onWith (fun c => c.setSreg 1 0xFFE00)).mem = true :=
  ⟨alone0, ⟨by decide +kernel, issues_of (by decide +kernel) rfl⟩, ⟨by decide +kernel, issues_of (by decide +kernel) rfl⟩,
   ⟨by decide +kernel, issues_of (by decide +kernel) rfl⟩, by decide +kernel, by decide +kernel, by decide +kernel,
   by decide +kernel, by decide +kernel⟩
/-- BranchAndLoop: NOP, BR, LOOP with counts 0 and 127, the last bundle of a loop with one and two iterations left, two
loops that end at one bundle, and an active loop around which another ends (R85). -/
def looping (k : Word) : State := (onWith (fun c => { c.setLoop 0 ⟨k, 2, 5⟩ with active := [0] })).put .CORE_PC_PC 5 0
def nested : State :=
  (onWith (fun c => { (c.setLoop 0 ⟨1, 2, 5⟩).setLoop 1 ⟨2, 1, 5⟩ with active := [0, 1] })).put .CORE_PC_PC 5 0
def around : State :=
  (onWith (fun c => { (c.setLoop 0 ⟨3, 2, 9⟩).setLoop 1 ⟨1, 1, 5⟩ with active := [0, 1] })).put .CORE_PC_PC 5 0
theorem witness_branch : on0.Alone p0 ∧ (on0.core 0).active = [] ∧ on0.Issues 0 (on0.withCtl p0 0 .nop) ∧
    on0.CtlIssues p0 0 (.br 4095) ∧ on0.Issues p0.no (on0.withCtl p0 0 (.loop 3 false 0 4094)) ∧
    on0.Issues p0.no (on0.withCtl p0 0 (.loop 3 false 127 1)) :=
  ⟨alone0, by decide +kernel, issues_of (by decide +kernel) rfl, ⟨by decide +kernel, issues_of (by decide +kernel) rfl⟩,
   issues_of (by decide +kernel) rfl, issues_of (by decide +kernel) rfl⟩
theorem witness_loopEnd : (looping 1).Alone p0 ∧ (looping 1).Issues p0.no ((looping 1).withCtl p0 0 .nop) ∧
    (looping 2).Issues p0.no ((looping 2).withCtl p0 0 .nop) ∧ nested.Issues p0.no (nested.withCtl p0 0 .nop) ∧
    (nested.core p0.no).active = [0, 1] ∧ ((nested.core p0.no).loopCtr 0).last = nested.pc p0.no ∧
    ((nested.core p0.no).loopCtr 1).last = nested.pc p0.no ∧ around.Issues p0.no (around.withCtl p0 0 .nop) ∧
    ((around.core p0.no).loopCtr 0).last ≠ around.pc p0.no ∧ ((around.core p0.no).loopCtr 1).last = around.pc p0.no :=
  ⟨by unfold State.Alone; decide +kernel, issues_of (by decide +kernel) rfl, issues_of (by decide +kernel) rfl,
   issues_of (by decide +kernel) rfl, by decide +kernel, by decide +kernel, by decide +kernel,
   issues_of (by decide +kernel) rfl, by decide +kernel, by decide +kernel⟩
/-- An outer loop ends its iteration at its own end though an inner one is still active (R85). -/
theorem test_loop_around : after (exec (.nop p0 .control 0) around)
    (fun t => (t.core 0).active = [0] && t.get .CORE_PC_PC 0 = 6) = true := by decide +kernel
/-- DescriptorTables: the last words of both tables, index 64 of the array table, STRM and ARUN. -/
theorem witness_descriptors : on0.CtlIssues p0 0 (.dwr false 63 7 1) ∧ on0.CtlIssues p0 0 (.dwr true 255 7 1) ∧
    on0.get .CORE_STATUS_STATE p0.no = 1 ∧ on0.MoveIssues p0 0 (.strm 255 3 0 0) ∧ on0.ArrIssues p0 0 (.arun 63 0 0 0) :=
  ⟨⟨by decide +kernel, issues_of (by decide +kernel) rfl⟩, ⟨by decide +kernel, issues_of (by decide +kernel) rfl⟩,
   by decide +kernel, ⟨by decide +kernel, issues_of (by decide +kernel) rfl⟩,
   ⟨by decide +kernel, issues_of (by decide +kernel) rfl⟩⟩

/-! ### A loaded image, for the witnesses -/

/-- Two used cores, barriers 0 to 6 as the step's, barrier 7 with core 0 waiting only, and tree 7. -/
def im0 : Image := { Image.blank (parseHeader []) with
  programs := [⟨⟨0, 0, 0⟩, 0, []⟩, ⟨⟨0, 0, 1⟩, 0, []⟩]
  barriers := (List.range 8).map (fun i => ⟨i, false, ⟨60, 0⟩, 100⟩)
  members := (List.range 8).map (fun i => ⟨i, false, ⟨0, 0, 0⟩, i == 7⟩)
  nodes := (List.range 8).map (fun i => ⟨i, false, ⟨60, 0⟩, 16, 0, 16⟩)
  trees := [⟨7, ⟨0, 0, 0⟩, 100⟩]
  stepPlan := some ⟨2, false, 0, 1, 2, 3, 4, 5, 6, true, [⟨0, 4, true⟩], []⟩ }
/-- The image is loaded and its job runs on cores 0 and 1. -/
def running : State := { ((up.put .IMG_STATE_STATE 2).put .CORE_STATUS_STATE 1 0).put .CORE_STATUS_STATE 1 1 with
  image := some im0, job := true }
def runWith (f : CoreState → CoreState) : State := running.setCore 0 (f (running.core 0))

/-! ### Witnesses: waits, traps, ends -/

/-- NearSramAccesses: a store to the numerics page. -/
def pageStore : State := runWith (fun c => c.setSreg 1 (BitVec.ofNat 32 (running.get .NUM_PAGE_ADDR)))
theorem witness_page : pageStore.Alone p0 ∧ pageStore.get .CORE_STATUS_STATE p0.no = 1 ∧ pageStore.hasPlan = true ∧
    (pageStore.core p0.no).guard 0 = true ∧
    ctlAddr (pageStore.core p0.no) 1 0 < pageStore.get .NUM_PAGE_ADDR + 64 ∧
    pageStore.get .NUM_PAGE_ADDR < ctlAddr (pageStore.core p0.no) 1 0 + 4 :=
  ⟨by unfold State.Alone; decide +kernel, by decide +kernel, by decide +kernel, by decide +kernel, by decide +kernel,
   by decide +kernel⟩

/-- BarriersAndWaits: posts and waits that pass, a BSYNC that has posted, and the ones that stall. -/
def posted1 : State := runWith (fun c => { c with posts := [(0, 1)], releases := [(0, 1)], posted := true })
def open1 : State := runWith (fun c => { c with posts := [(0, 1)] })
theorem witness_barriers : running.Alone p0 ∧ (running.core p0.no).active = [] ∧ running.CtlIssues p0 0 (.bpost false 0) ∧
    running.CtlIssues p0 0 (.bwait false 7) ∧ posted1.CtlIssues p0 0 (.bsync false 0) ∧
    running.Passes p0.no (running.withCtl p0 0 (.bsync false 0)) ∧
    mget 0 (open1.core p0.no).releases 0 < mget 0 (open1.core p0.no).posts 0 ∧
    open1.Passes p0.no (open1.withCtl p0 0 (.bpost false 0)) ∧ open1.Passes p0.no (open1.withCtl p0 0 (.bwait false 0)) :=
  ⟨by unfold State.Alone; decide +kernel, by decide +kernel, ⟨by decide +kernel, issues_of (by decide +kernel) rfl⟩,
   ⟨by decide +kernel, issues_of (by decide +kernel) rfl⟩, ⟨by decide +kernel, issues_of (by decide +kernel) rfl⟩,
   ⟨by decide +kernel, by decide +kernel, by decide +kernel⟩, by decide +kernel,
   ⟨by decide +kernel, by decide +kernel, by decide +kernel⟩, ⟨by decide +kernel, by decide +kernel, by decide +kernel⟩⟩
/-- A stream descriptor and an array descriptor of zeros. -/
def sj : StreamJob := ⟨0, 0, 0, 0, 0, 3, 0, false, false, 0, 0, {}, 0, []⟩
def aj : ArrayJob := ⟨0, 5, 0, 0, 0, 0, 9, false⟩
def busy1 : State := runWith (fun c => { (c.setChan 3 (List.replicate 8 sj)) with arr := { c.arr with queue := List.replicate 4 aj } })
theorem witness_waits : running.Issues p0.no (running.withCtl p0 0 (.waits 15)) ∧
    running.Issues p0.no (running.withCtl p0 0 .waita) ∧ busy1.Alone p0 ∧
    busy1.Passes p0.no (busy1.withCtl p0 0 (.waits 8)) ∧ (busy1.core p0.no).chan 3 ≠ [] ∧
    busy1.Passes p0.no (busy1.withCtl p0 0 .waita) ∧ (busy1.core p0.no).arr.queue ≠ [] ∧
    busy1.Passes p0.no (busy1.withMove p0 0 (.strm 0 3 0 0)) ∧ 8 ≤ ((busy1.core p0.no).chan 3).length ∧
    busy1.Passes p0.no (busy1.withArr p0 0 (.arun 0 0 0 0)) ∧ 4 ≤ (busy1.core p0.no).arr.queue.length :=
  ⟨issues_of (by decide +kernel) rfl, issues_of (by decide +kernel) rfl, by unfold State.Alone; decide +kernel,
   ⟨by decide +kernel, by decide +kernel, by decide +kernel⟩, by decide +kernel,
   ⟨by decide +kernel, by decide +kernel, by decide +kernel⟩, by decide +kernel,
   ⟨by decide +kernel, by decide +kernel, by decide +kernel⟩, by decide +kernel,
   ⟨by decide +kernel, by decide +kernel, by decide +kernel⟩, by decide +kernel⟩
/-- EndStopsCore: with the other core running, and with the other core ended. -/
theorem witness_end : running.CtlIssues p0 0 .halt ∧
    (∃ q ∈ running.usedCores, q ≠ p0.no ∧ q < 27200 ∧ running.get .CORE_STATUS_STATE q = 1) ∧
    let s := running.put .CORE_STATUS_STATE 2 1
    s.CtlIssues p0 0 .halt ∧ s.job = true ∧ (∀ q ∈ s.usedCores, q < 27200 ∧ (q = p0.no ∨ s.get .CORE_STATUS_STATE q = 2) ∧
      (s.core q).chans = [] ∧ (s.core q).arr.queue = [] ∧ (s.core q).arr.bank0.phase = .free ∧
      (s.core q).arr.bank1.phase = .free) :=
  ⟨⟨by decide +kernel, issues_of (by decide +kernel) rfl⟩, by decide +kernel,
   ⟨by decide +kernel, issues_of (by decide +kernel) rfl⟩, by decide +kernel, by decide +kernel⟩
/-- IssueTraps: the conditions of its clauses, each at a boundary. -/
theorem witness_traps : on0.Alone p0 ∧ on0.get .CORE_STATUS_STATE p0.no = 1 ∧ (64 : BitVec 8).toNat = 64 ∧
    (0 : BitVec 2).toNat ∈ ((looping 1).core p0.no).active ∧ (looping 1).Alone p0 ∧
    (1 : BitVec 2).toNat ∉ ((looping 1).core p0.no).active ∧
    (5 : BitVec 12).toNat ≤ ((looping 1).pc p0.no).toNat ∧ ((looping 1).pc p0.no).toNat < (6 : BitVec 12).toNat ∧
    (∃ l ∈ ((looping 1).core p0.no).active, (((looping 1).core p0.no).loopCtr l).last.toNat < (6 : BitVec 12).toNat) ∧
    (∃ l ∈ ((looping 1).core p0.no).active, (((looping 1).core p0.no).loopCtr l).last = (looping 1).pc p0.no) ∧
    running.member p0.no (barNo false 8) = none ∧ running.member p0.no (barNo false 7) = some true ∧
    ((onWith (fun c => c.setSreg 1 63)).core p0.no).sreg 1 = 63 := by
  refine ⟨alone0, ?_, ?_, ?_, by unfold State.Alone; decide +kernel, ?_, ?_, ?_, ?_, ?_, ?_, ?_, ?_⟩ <;> decide +kernel
/-- DoubleWriteTraps: a VLD and a VBCAST of one register, and of two. -/
def twin (vd : VReg) : State :=
  onWith (fun c => { c with istore := [(0, BitVec.ofNat 128 ((0x02 * 2 ^ 22 + vd.toNat * 2 ^ 17) * 2 ^ 32))] })

theorem witness_doubleWrite :
    let b := (twin 3).withVec p0 0 (.bcast 3 0 0)
    let d := (twin 4).withVec p0 0 (.bcast 3 0 0)
    bundleRow (twin 3) (.vbcast p0 0 3 0 0) = some (p0, b) ∧ (twin 3).get .CORE_STATUS_STATE p0.no = 1 ∧
    (twin 3).encodingTrap p0.no b = none ∧ (b.acting ((twin 3).core p0.no)).m.vecDest = some 3 ∧
    (b.acting ((twin 3).core p0.no)).v.dest = some 3 ∧
    bundleRow (twin 4) (.vbcast p0 0 3 0 0) = some (p0, d) ∧ (twin 4).encodingTrap p0.no d = none ∧
    (d.acting ((twin 4).core p0.no)).m.vecDest = some 4 ∧ (d.acting ((twin 4).core p0.no)).c.predDest = none := by
  decide +kernel
/-- PastLastBundleTraps: an ADDI at 4095, and a LOOP of count 0 whose end is 4095. -/
def atEnd : State := on0.put .CORE_PC_PC 4095 0
theorem witness_pastLast :
    let b := atEnd.withCtl p0 0 (.addi 1 0 5)
    let l := on0.withCtl p0 0 (.loop 0 false 0 4095)
    bundleRow atEnd (.addi p0 0 1 0 5) = some (p0, b) ∧ atEnd.Passes p0.no b ∧ (atEnd.pc p0.no).toNat = 4095 ∧
    (atEnd.core p0.no).active = [] ∧ (b.acting (atEnd.core p0.no)).c = .addi 1 0 5 ∧ on0.Passes p0.no l ∧
    (l.acting (on0.core p0.no)).c = .loop 0 false 0 4095 ∧ (on0.core p0.no).active = [] :=
  ⟨by decide +kernel, ⟨by decide +kernel, by decide +kernel, by decide +kernel⟩, by decide +kernel, by decide +kernel,
   by decide +kernel, ⟨by decide +kernel, by decide +kernel, by decide +kernel⟩, by decide +kernel, by decide +kernel⟩

/-! ### Witnesses: vector slot -/

/-- VectorNanTrap: a NaN operand with NAN_MODE 0 and 1, the core's first and a later one. -/
def nan1 : State := onWith (fun c => c.setVreg 1 (List.replicate 128 0x7FC00000))
theorem witness_nan :
    let op : VecOp := .bin .add 2 1 1 0
    nan1.Alone p0 ∧ vecRow (.vadd p0 0 2 1 1 0) = some (p0, 0, op) ∧ (nan1.core p0.no).guard 0 = true ∧
    nan1.Passes p0.no (nan1.withVec p0 0 op) ∧ (nan1.core p0.no).active = [] ∧ (nan1.pc p0.no).toNat < 4095 ∧
    (op.result (nan1.core p0.no).vreg (nan1.core p0.no).sreg (nan1.on .CORE_CFG_FTZ p0.no) nan1.free).2 = true ∧
    nan1.get .CORE_NAN_VALID p0.no = 0 ∧ nan1.get .NUM_CFG_NAN_MODE = 0 ∧
    (nan1.put .CORE_NAN_VALID 1 0).get .CORE_NAN_VALID p0.no ≠ 0 ∧ (nan1.put .NUM_CFG_NAN_MODE 1).get .NUM_CFG_NAN_MODE ≠ 0 :=
  ⟨by unfold State.Alone; decide +kernel, rfl, by decide +kernel,
   ⟨by decide +kernel, by decide +kernel, by decide +kernel⟩, by decide +kernel, by decide +kernel, by decide +kernel,
   by decide +kernel, by decide +kernel, by decide +kernel, by decide +kernel⟩
/-- VectorArithmetic, VectorSelectAndConvert, SpecialFunctions, VectorReductions: one operation of each issues. -/
theorem witness_vector : on0.VecIssues p0 0 (.bin .add 31 1 2 0) ∧ on0.VecIssues p0 0 (.fma 31 1 2 3 1) ∧
    on0.VecIssues p0 0 (.sel 31 1 2 3) ∧ on0.VecIssues p0 0 (.any 7 1) ∧ on0.VecIssues p0 0 (.cmp 31 1 2 3 2) ∧
    on0.VecIssues p0 0 (.cvt 31 1 2 0) ∧ on0.VecIssues p0 0 (.un .exp 31 1 0) ∧ on0.VecIssues p0 0 (.un .rsum 31 1 1) ∧
    on0.on .CORE_CFG_FTZ p0.no = false := by
  refine ⟨⟨?_, issues_of ?_ rfl⟩, ⟨?_, issues_of ?_ rfl⟩, ⟨?_, issues_of ?_ rfl⟩, ⟨?_, issues_of ?_ rfl⟩,
    ⟨?_, issues_of ?_ rfl⟩, ⟨?_, issues_of ?_ rfl⟩, ⟨?_, issues_of ?_ rfl⟩, ⟨?_, issues_of ?_ rfl⟩, ?_⟩ <;> decide +kernel
/-- VMAX ranks -0 below +0 (R95), and VADD of 1.0 and 2.0 is 3.0. -/
theorem test_vmax_zero : after (exec (.vmax p0 0 3 1 2 0) (onWith (fun c => (c.setVreg 1 (List.replicate 128 0x80000000)))))
    (fun t => ((t.core 0).vreg 3).getD 0 1 = 0) = true := by decide +kernel
theorem test_vadd : after (exec (.vadd p0 0 3 1 2 0) (onWith (fun c =>
      (c.setVreg 1 (List.replicate 128 0x3F800000)).setVreg 2 (List.replicate 128 0x40000000))))
    (fun t => ((t.core 0).vreg 3).getD 127 1 = 0x40400000) = true := by decide +kernel
/-- exp(0) = 1 (Table 6 of "The Core"). -/
theorem test_vexp : after (exec (.vexp p0 0 3 1 0) on0) (fun t => ((t.core 0).vreg 3).getD 5 0 = 0x3F800000) = true := by
  decide +kernel

/-! ### Witnesses: array, streams, reports -/

/-- Core 0's array with one descriptor of the given fields at the head of its queue. -/
def arrWith (desc : Nat) (f : ArrayState → ArrayState) : State :=
  runWith (fun c => { c with arr := f { c.arr with queue := [{ aj with desc := BitVec.ofNat 256 desc }] } })
/-- One by one by one INT8 product with an INT32 output at 64 (window offset 1), in stacked SRAM. -/
def one1 : Nat := 2 ^ 20 * 2 + 2 ^ 40 * 4 + 2 ^ 160 + 2 ^ 173 + 2 ^ 186 + 5 * 2 ^ 199 + 5 * 2 ^ 203 + 7 * 2 ^ 207
def arr1 : State := arrWith one1 id
theorem witness_arrayHead : (arr1.arr p0.no).queue = [{ aj with desc := BitVec.ofNat 256 one1 }] ∧
    (arr1.arr p0.no).headOk = false ∧
    (let d := ({ aj with desc := BitVec.ofNat 256 one1, skew := arr1.skewed p0.no } : ArrayJob).get
     d.m = 1 ∧ d.n = 1 ∧ d.k = 1) := by decide +kernel
/-- ArrayHeadChecked: a good head, an M of zero, the all-zero descriptor, and an M above 4,096. -/
def dOf (desc : Nat) : ADesc := ({ aj with desc := BitVec.ofNat 256 desc } : ArrayJob).get
theorem witness_arrayBad : arr1.arrayBad (arr1.arr 0) (dOf one1) = none ∧ (dOf (one1 - 2 ^ 160)).m = 0 ∧
    (dOf 0).m = 0 ∧ 4096 < (dOf (one1 + 4096 * 2 ^ 160)).m ∧ (dOf (one1 + 4096 * 2 ^ 160)).n ≠ 0 ∧
    arr1.arrayBad (arr1.arr 0) (dOf (one1 + 4096 * 2 ^ 160)) = some 3 ∧ (∃ q ∈ arr1.usedCores, arr1.get .CORE_STATUS_STATE q ≠ 2) := by decide +kernel
/-- ArrayLoadAndFlip: the first group of the only pass, and the flip of the loaded shadow. -/
def job1 : ArrayJob := { aj with desc := BitVec.ofNat 256 one1 }
def pass1 : Pass := ⟨job1, 0, 1, [(0, 3)], []⟩
def head1 : State := arrWith one1 (fun a => { a with headOk := true })
def flip1 : State := arrWith one1 (fun a => { a with headOk := true, gated := false, shadow := some pass1 })
theorem witness_arrayLoad : (head1.arr p0.no).queue = [job1] ∧ (head1.arr p0.no).shadow = none ∧
    (head1.arr p0.no).headOk = true ∧ 0 < (dOf one1).passes ∧ 0 < (dOf one1).groups ((dOf one1).pos 0) ∧ head1.bad = [] ∧
    Memory.wf head1.mem = true ∧
    head1.lostStacks = 0 ∧ (dOf one1).multi = 0 ∧ (dOf one1).n ≤ 4096 ∧
    (head1.loadOperand p0.no (dOf one1) true ((dOf one1).pos 0).sub
      (((dOf one1).groupCells ((dOf one1).pos 0) 0).map (fun x => (dOf one1).statOff x.1 x.2))).2.2.1 = false ∧ fmtGlazed (dOf one1).statFmt = false ∧
    (flip1.arr p0.no).shadow = some pass1 ∧ (flip1.arr p0.no).gated = false ∧ (flip1.arr p0.no).inFlight = [] ∧
    (dOf one1).groups ((dOf one1).pos pass1.pass) ≤ pass1.groups ∧ (flip1.arr p0.no).next.phase = .free := by
  decide +kernel
/-- ArrayPassAddsProducts: the pass in flight with its bank open, in the ordinary and in skewed feed. -/
def bankOpen (j : ArrayJob) : Bank := { phase := .open, opener := some j, owner := some j }
def closing (skew : Bool) (chain : Nat) : State :=
  arrWith one1 (fun a => { a with queue := [], inFlight := [{ pass1 with job := { job1 with skew } }],
                                  bank0 := bankOpen { job1 with skew }, chain })
theorem witness_arrayPass : ∀ skew, ((closing skew 0).arr p0.no).inFlight = [{ pass1 with job := { job1 with skew } }] ∧
    ((closing skew 0).arr p0.no).bankOf { job1 with skew } (({ job1 with skew } : ArrayJob).get.pos 0) = some false ∧
    ({ job1 with skew } : ArrayJob).get.multi = 0 ∧ ({ job1 with skew } : ArrayJob).get.dray = false ∧
    ((closing skew 31).arr p0.no).chain = 0 + 31 ∧ ({ job1 with skew } : ArrayJob).get.isInt = true ∧ ({ job1 with skew } : ArrayJob).get.m = 1 ∧
    ((closing skew 30).arr p0.no).chain + 1 < 1 + 31 ∧ 1 + 31 ≤ ((closing skew 31).arr p0.no).chain + 1 ∧
    (closing skew 0).bad = [] ∧ (closing skew 0).lostStacks = 0 ∧ Memory.wf (closing skew 0).mem = true := by decide +kernel
/-- 3 × 5 in the one pass (R137). -/
theorem test_array : after (exec (.cabooseClose p0) ({ closing false 0 with mem := [(stackedAddr 0 0, 5)] } : State))
    (fun t => mget none ((t.arr 0).bank false).sums 0 = some 15) = true := by decide +kernel
/-- ArrayDrainsAndGates: a closed bank, a ramp asked for, its start slot not reached, a tail, and a capture. -/
def drain1 : State := arrWith one1 (fun a =>
  { a with queue := [], tally := [(0, 0, {})], bank0 := { (bankOpen job1) with phase := .closed, sums := [(0, some 15)] } })
def ramp1 : State := arrWith one1 (fun a => { a with rampWanted := some 0 })
def tail1 : State := arrWith one1 (fun a => { a with queue := [], tail := true })
def debug1 : State := { up with shadowBank := { up.shadowBank with enables := 4 } }
theorem witness_arrayDrain : (drain1.arr p0.no).toDrain = some false ∧ ((drain1.arr p0.no).bank false).owner = some job1 ∧
    job1.get.intPath = true ∧ drain1.NoErrors ∧ (drain1.arr p0.no).queue = [] ∧
    (drain1.arr p0.no).tally = [(job1.no, job1.get.tag, {})] ∧
    (∃ q ∈ drain1.usedCores, drain1.get .CORE_STATUS_STATE q ≠ 2) ∧
    job1.get.out + 4 * job1.get.m * job1.get.n ≤ stackedSize :=
  ⟨by decide +kernel, by decide +kernel, by decide +kernel, ⟨rfl, rfl⟩, by decide +kernel, by decide +kernel,
   by decide +kernel, by decide +kernel⟩
theorem witness_arrayGates : (ramp1.arr p0.no).rampWanted = some 0 ∧ ramp1.runFc + 128 * (ramp1.region 0).startSlot ≤ ramp1.fc ∧
    (ramp1.region 0).lastRampFc = none ∧ (∀ q ∈ regionCores 0, q ≠ p0.no → (ramp1.arr q).rampWanted = none) ∧
    ({ ramp1 with runFc := 1 } : State).fc < 1 ∧ (tail1.arr p0.no).tail = true ∧ (tail1.arr p0.no).queue = [] ∧
    (tail1.arr p0.no).inFlight = [] ∧ up.feature 2 = false ∧ up.hostUp = true ∧ up.stopped 0 = false ∧
    debug1.feature 2 = true ∧ (0x80000043 : Word).getLsbD 31 = true ∧ (0x80000043 : Word).toNat % 128 = 67 ∧
    (0x80000044 : Word).toNat % 128 = 68 ∧ debug1.get .CORE_STATUS_STATE (slotCore 0 67) ≠ 1 := by decide +kernel
/-- StreamDescriptors: one with a reserved format, an empty one, a row of 4 bytes within near SRAM, one that reads the ring
by a planned route, and started ones. -/
def streamWith (prim : Nat) (f : StreamJob → StreamJob) : State :=
  runWith (fun c => c.setChan 0 [f { sj with prim := BitVec.ofNat 256 prim }])
/-- Near SRAM of core 0 as its cluster window shows it, and a row of one FP32 from 64 to 68 there. -/
def near0 : Nat := 0x400000000000 + stackedSize + 64
def row1 : Nat := near0 + (near0 + 4) * 2 ^ 48 + 2 ^ 96 + 2 ^ 112 + 2 ^ 124 + 2 ^ 136
def sd (prim : Nat) : SDesc := ({ sj with prim := BitVec.ofNat 256 prim } : StreamJob).desc
theorem witness_stream :
    ((streamWith row1 id).core p0.no).chan 0 = [{ sj with prim := BitVec.ofNat 256 row1 }] ∧ sj.started = false ∧
    (streamWith (row1 + 0xF * 2 ^ 219) id).streamBad p0.no { sj with prim := BitVec.ofNat 256 (row1 + 0xF * 2 ^ 219) } = some 1 ∧
    (streamWith 0 id).streamBad p0.no sj = none ∧ (sd 0).count0 = 0 ∧
    (streamWith row1 id).streamBad p0.no { sj with prim := BitVec.ofNat 256 row1 } = none ∧
    (sd row1).count1 = 1 ∧ (sd row1).count2 = 1 ∧ (sd row1).count3 = 1 ∧ (sd row1).count0 = 1 ∧ (sd row1).srcFmt = 0 ∧
    (sd row1).dstFmt = 0 ∧ (sd row1).skew = false ∧ (sd row1).mcast = false ∧ (sd row1).strided = false ∧
    (∀ i, i < 4 → (streamWith row1 id).direct p0.no ((sd row1).src + i) = true ∧
      (streamWith row1 id).direct p0.no ((sd row1).dst + i) = true ∧ (streamWith row1 id).place ((sd row1).src + i) = .near p0.no (64 + i) ∧
      (streamWith row1 id).place ((sd row1).dst + i) = .near p0.no (68 + i)) ∧
    (streamWith row1 id).bad = [] ∧ (streamWith row1 id).lostStacks = 0 ∧
    Memory.wf (streamWith row1 id).mem = true := by decide +kernel
def ringRow : Nat := 0x1000 + (near0 + 4) * 2 ^ 48 + 2 ^ 96 + 2 ^ 112 + 2 ^ 124 + 2 ^ 136
def ringStream (f : StreamJob → StreamJob) : State := { streamWith ringRow f with
  image := some { im0 with
    sources := [⟨⟨0, 0, 0⟩, (sd ringRow).channel.no, 1, stackBridge (running.ringLoc 0x1000).1, 5, 6⟩] } }
theorem witness_ringRead : (ringStream id).streamBad p0.no { sj with prim := BitVec.ofNat 256 ringRow } = none ∧
    (sd ringRow).empty = false ∧ (ringStream id).ringReads { sj with prim := BitVec.ofNat 256 ringRow } ≠ [] ∧
    ((ringStream id).core p0.no).chan 0 = [{ sj with prim := BitVec.ofNat 256 ringRow }] ∧
    ((ringStream (fun j => { j with started := true, reads := 4 })).core p0.no).chan 0 =
      [{ sj with prim := BitVec.ofNat 256 ringRow, started := true, reads := 4 }] := by decide +kernel
/-- The row arrives (R106, R112), and a started descriptor without writes under way completes. -/
theorem test_stream : after (exec (.streamDescStart p0 0) ({ streamWith row1 id with mem := [(nearAddr 0 65, 7)] } : State))
    (fun t => memByte t.mem (nearAddr 0 69) = 7) = true := by decide +kernel
theorem test_stream_complete : after (exec (.streamDescComplete p0 0) (streamWith row1 (fun j => { j with started := true })))
    (fun t => (t.core 0).chan 0 = [] && t.counts.length = 1) = true := by decide +kernel
/-- ReportsReachTheModule: a count report; NaN reports that find the latch empty, of a later step, of an earlier one. -/
def reports (valid step : Nat) : State := { running.puts 0 [(.NUM_NAN_LOC_VALID, valid), (.NUM_NAN_STEP_STEP, step)] with
  nanStep := step
  counts := [⟨5, {}, false⟩]
  nans := [⟨1, 2, 3, 2, 9, 1, 0, 0, false, 6⟩] }
theorem witness_reports : (reports 0 0).counts[0]? = some ⟨5, {}, false⟩ ∧
    (reports 0 0).nans[0]? = some ⟨1, 2, 3, 2, 9, 1, 0, 0, false, 6⟩ ∧ (reports 0 0).get .NUM_NAN_LOC_VALID = 0 ∧
    (reports 1 7).get .NUM_NAN_LOC_VALID ≠ 0 ∧ 6 < (reports 1 7).nanStep ∧ (reports 1 6).nanStep ≤ 6 := by decide +kernel


/-! ### Witnesses: mesh, memory -/

def im1 : Image := { im0 with routes := [⟨⟨60, 0⟩, 5, 1, 1⟩, ⟨⟨60, 0⟩, 5, 3, 1⟩], forks := [⟨7, ⟨60, 0⟩, 2⟩] }
def flit5 (vc : Vc) : Flit := ⟨vc, .route 5, .ack, true, 0, 0⟩
/-- The westernmost router of the top row with these contents. -/
def meshWith (x : Router) : State := ({ running with image := some im1 } : State).setRouter (RouterRef.grid 60 0).no x
def mesh1 (vc : Vc) (wait : Nat) : State := meshWith { inbuf := [(4 * 2 + vc.no, [flit5 vc])], maintWait := [(1, wait)] }
theorem witness_router : (∀ vc ∈ [(Vc.plan, 0), (Vc.plan, 62), (Vc.maint, 63)], let s := mesh1 vc.1 vc.2
    s.stopped (routerRegion (RouterRef.grid 60 0).no) = false ∧
    joint (RouterRef.grid 60 0).no 1 = .router (RouterRef.grid 61 0).no 3 ∧ (RouterRef.grid 61 0).no ≠ (RouterRef.grid 60 0).no ∧
    s.outDrops (RouterRef.grid 60 0).no 1 vc.1.no = none ∧ (s.router (RouterRef.grid 60 0).no).input 2 vc.1.no = [flit5 vc.1] ∧
    s.eligible (RouterRef.grid 60 0).no 1 vc.1.no = [2] ∧
    (∀ v, v < vc.1.no → s.eligible (RouterRef.grid 60 0).no 1 v = []) ∧
    (∀ j < 7, ∀ v < 4, ∀ g ∈ ((s.router (RouterRef.grid 60 0).no).input j v).head?,
      ∃ b ∈ s.wants (RouterRef.grid 60 0).no g, g.forks = false ∨ s.sendable (RouterRef.grid 60 0).no b v = true)) := by
  decide +kernel
/-- RouterTraffic: an arrival on its way out by a named output. -/
def hop1 : Flit := ⟨.sync, .hop 1, .arrival 2 true, true, 0, 0⟩
theorem witness_hop : let s := meshWith { inbuf := [(16, [hop1])] }
    (s.router 60).input 4 0 = [hop1] ∧ hop1.path = .hop 1 ∧ s.eligible 60 1 0 = [4] ∧ s.outDrops 60 1 0 = none ∧
    (∀ j < 7, ∀ v < 4, ∀ g ∈ ((s.router 60).input j v).head?, ∃ b ∈ s.wants 60 g, g.forks = false) := by decide +kernel
def mesh2 : State := meshWith { used := [(5, 1)], hold := [(5, [⟨.plan, .tree 7, .ack, true, 0, 0⟩])] }
theorem witness_credit : ((mesh2.router (RouterRef.grid 61 0).no).input 3 1).length < (mesh2.router (RouterRef.grid 60 0).no).usedAt 1 1 ∧
    (∃ f ∈ (mesh2.router (RouterRef.grid 60 0).no).held 1 1, f.path = .tree 7) ∧
    mesh2.image.bind (fun im => im.trees.find? (fun t => t.tree = 7)) = some ⟨7, ⟨0, 0, 0⟩, 100⟩ ∧ 100 < 101 ∧
    mget false (mesh2.router (RouterRef.grid 60 0).no).slipped (slotKey 1 1) = false ∧
    (mesh2.region (routerRegion 60)).crossing < 255 ∧ mesh2.holdFull 61 1 = false ∧
    (mesh2.setRouter 61 { hold := [(5, List.replicate holdDepth (flit5 .plan))] }).holdFull 61 1 = true := by decide +kernel
/-- No listed register word has a bit beyond its field's width. -/
def maskedNow (s : State) : Bool := s.regs.all (fun e => e.2 &&& (Field.ofNat (e.1 % 512)).mask == e.2)
theorem masked_of {s : State} (h : maskedNow s = true) : s.Masked := by
  have key : ∀ l : SMap Word, l.all (fun e => e.2 &&& (Field.ofNat (e.1 % 512)).mask == e.2) = true → ∀ (f : Field) (i : Nat),
      mget f.resetWord l (f.key i) &&& f.mask = mget f.resetWord l (f.key i) := by
    intro l hl f i
    induction l with
    | nil => exact f.reset_masked
    | cons e l ih =>
      simp only [List.all_cons, Bool.and_eq_true, beq_iff_eq] at hl
      unfold mget
      split
      · rename_i hk
        have := hl.1
        rw [hk, f.key_mod, Field.num, Field.ofNat_ctorIdx] at this
        exact this
      · exact ih hl.2
  intro f i
  exact key s.regs h f i
theorem masked_mesh2 : mesh2.Masked := masked_of (by decide +kernel)
/-- MeshBarriers: arrivals at the root, of the first input and of the last, and at a router below the root. -/
def arrival2 : Flit := ⟨.sync, .unit 4, .arrival 2 true, true, 0, 0⟩
def inBar (at' : RouterRef) (mask : Nat) (had : List Bool) (x y : Nat) : State :=
  (({ running with
      image := some { im0 with nodes := [⟨2, false, ⟨x, y⟩, mask, 1, 16⟩] }
      arrivals := [(arrivalKey at'.no 2 0, had)] } : State).put .PWR_REGION_CLK 1 (routerRegion at'.no)).setRouter at'.no
    { inbuf := [(16, [arrival2])] }
theorem witness_arrival : (∀ c ∈ [(RouterRef.grid 60 0, 0x11, [], 60), (.grid 60 0, 0x11, [false], 60), (.grid 61 0, 0x10, [], 61)],
      let s := inBar c.1 c.2.1 c.2.2.1 c.2.2.2 0
      s.barRec 2 = some ⟨2, false, ⟨60, 0⟩, 100⟩ ∧ (s.barNode 2 c.1.no).isSome = true ∧ s.job = true ∧
      s.unitFlit c.1.no 2 4 false = some arrival2 ∧ s.stopped (routerRegion c.1.no) = false ∧ c.2.1.testBit 4 = true) ∧
    (RouterRef.grid 60 0).no = 60 ∧ (RouterRef.grid 61 0).no ≠ 60 ∧
    ((inBar (.grid 60 0) 0x11 [] 60 0).barNode 2 60).map NodeRec.gathers = some [0, 4] ∧
    mget [] (inBar (.grid 60 0) 0x11 [] 60 0).arrivals (arrivalKey 60 2 0) = [] ∧
    mget [] (inBar (.grid 60 0) 0x11 [false] 60 0).arrivals (arrivalKey 60 2 0) ≠ [] ∧
    ((inBar (.grid 61 0) 0x10 [] 61 0).barNode 2 (RouterRef.grid 61 0).no).map NodeRec.gathers = some [4] := by
  decide +kernel
/-- Complete generations of the step's barriers; one still open with its watchdog due. -/
def complete : State := { running with barriers := (List.range 8).map (fun i => (i, { complete := 1 })) }
theorem witness_release : complete.gateBar = some 0 ∧ (∀ b ∈ [1, 2, 3, 4, 5, 6, 7], complete.gateBar ≠ some b ∧
    complete.barRemote b = false ∧ (complete.barrier b).released < (complete.barrier b).complete) ∧ complete.drainHolds = false ∧
    (∃ p ∈ complete.image.bind (·.stepPlan), p.fwdEnd = 1 ∧ p.bwdEnd = 2 ∧ p.egressEnd = 3 ∧ p.reduceEnd = 4 ∧
      p.updateEnd = 5 ∧ p.swapEnd = 6 ∧ p.egressValid = true) ∧ complete.job = true ∧ complete.reduceEnd = some 4 ∧
    (running.barrier 1).complete ≤ (running.barrier 1).released ∧ (running.barRec 1).isSome = true ∧
    (running.barMissing 1).1 = false ∧
    (complete.barMissing 1).1 = true := by
  refine ⟨?_, ?_, ?_, ⟨(im0.stepPlan.getD ⟨0, false, 0, 0, 0, 0, 0, 0, 0, false, [], []⟩), ?_, ?_⟩, ?_, ?_, ?_, ?_, ?_, ?_⟩ <;>
    decide +kernel
/-- A system barrier that another module's release reaches by a port, and a release before it leaves for the members. -/
def release7 : Flit := ⟨.sync, .release 7, .release 7 false none, true, 0, 0⟩
def far : State := ({ running with
    image := some { im0 with barriers := [⟨9, true, ⟨60, 0⟩, 100⟩], nodes := [⟨9, true, ⟨60, 0⟩, 16, 6, 16⟩] }
    barriers := [(265, { complete := 1 })] } : State).setRouter 60
  { inbuf := [(24, [⟨.sync, .unit 6, .release 265 true none, true, 0, 0⟩])] }
theorem witness_remote : far.barRemote 265 = true ∧ barNo true 9 = 265 ∧ (far.unitFlit 60 265 6 true).isSome = true ∧
    far.gateBar ≠ some 265 ∧ (far.barrier 265).released < (far.barrier 265).complete ∧
    (running.unitFlit 60 265 6 true) = none := by decide +kernel
theorem witness_ejection : let s := meshWith { inbuf := [(16, [release7])] }
    (s.router 60).input 4 0 = [release7] ∧ s.wants 60 release7 = [4] ∧ s.eligible 60 4 0 = [4] ∧
    s.stopped (routerRegion 60) = false ∧ 0 ∈ s.barMembers 7 ∧
    (∀ j < 7, ∀ v < 4, ∀ g ∈ ((s.router 60).input j v).head?, ∃ b ∈ s.wants 60 g, s.sendable 60 b v = true) := by
  decide +kernel
/-- StackedReads: an open window, none, 32 closed ones, and one that waits for its bank. -/
def c0 : ClusterRef := ⟨0, 0⟩
def stackWith (x : Stacked) : State := { up with stacked := [(0, x)] }
theorem witness_stacked : c0.no = 0 ∧ ((stackWith { windows := [⟨393215, [16], true, true, some []⟩] }).stack 0).windows = [⟨393215, [16], true, true, some []⟩] ∧
    (up.stack 0).windows = [] ∧
    ((stackWith { windows := List.replicate 32 ⟨1, [0], false, false, none⟩ }).stack 0).windows.length = 32 ∧
    lineBank 8 = 0 ∧ ((stackWith { windows := [⟨8, [16, 3], true, false, none⟩] }).stack 0).alone = [] ∧
    [16, 3].headD 0 < 17 ∧ ((stackWith { alone := [(16, 0), (3, 8)] }).stack 0).alone = [(16, 0), (3, 8)] ∧ lineBank 0 = 0 ∧
    (16 + 17 - up.fc % 17) % 17 ≠ (3 + 17 - up.fc % 17) % 17 := by decide +kernel
/-- StackedReads: a line that is uncorrectable for the two ports that ask for it, while a job runs. -/
def badWindow : State := { running with
  stacked := [(0, { windows := [⟨8, [16, 3], true, false, none⟩] })], bad := [(stackedKey 0 128, [1, 2])] }
theorem witness_stackedTrap : (badWindow.stack c0.no).windows = [⟨8, [16, 3], true, false, none⟩] ∧
    (badWindow.stack c0.no).alone = [] ∧ badWindow.job = true ∧
    (badWindow.readPhys (stackedAddr c0.no (8 * 128)) 128).2 = none := by decide +kernel
/-- ScrubAndPatrol: both run, wait, are forced, and do not run. -/
theorem witness_scrub : up.scrubRuns c0.no = true ∧ State.reset.scrubRuns c0.no = false ∧ (∀ a ∈ [0, 71], a < 72) ∧
    (up.unit c0.no).pos + 1 < clusterWords ∧ mget [] up.bad (scrubKey c0.no 0) = [] ∧ up.allocated (scrubKey c0.no 0) = false ∧
    (up.stack c0.no).portsWait (lineBank 0) = false ∧
    ((stackWith { windows := [⟨0, [5], true, false, none⟩] }).stack c0.no).portsWait (lineBank (0 / 16)) = true ∧
    (({ up with units := [(0, { waiting := true })] } : State).unit c0.no).waiting = true ∧
    up.patrolRuns 575 = true ∧ State.reset.patrolRuns 575 = false ∧ up.stackLost (575 / 16) = false ∧
    (up.unit (1600 + 575)).pos + 1 < up.channelLines ∧ (up.unit (1600 + 575)).pos < 2 ^ 26 ∧
    (∀ x ∈ up.hostWait, x.1 ≠ 575) ∧ (∀ a ∈ [34], a < 35) := by decide +kernel
/-- LocationTestAndErrorCopy: two bad positions after a class J fault; the copy of a cluster, of none, of a stopped one. -/
def badLine (loc : MemLoc) : State := { up with faulted := true, bad := [(loc.key, [1, 2])] }
def copying (i : Nat) : State := up.puts 1 [(.MEM_CE_SEL_INDEX, i)] |>.put .MEM_CE_SEL_BUSY 1
theorem witness_location : (∀ loc ∈ [MemLoc.near p0 0, .stacked c0 0, .ring 35 0],
      (badLine loc).faulted = true ∧ 2 ≤ (mget [] (badLine loc).bad loc.key).length ∧
      (badLine loc).cachedLines ((badLine loc).errSpan loc.key).1 ((badLine loc).errSpan loc.key).2 = []) ∧
    (let s : State := { badLine (.ring 0 0) with snoop := [0] }
     let at' := s.errSpan (MemLoc.ring 0 0).key
     s.cachedLines at'.1 at'.2 = [0] ∧ at'.1 / 64 = 0 ∧ at'.2 ≤ 64 - at'.1 % 64) ∧ up.faulted = false := by decide +kernel
theorem up_hostReady : up.HostReady := by unfold State.HostReady; decide +kernel
theorem witness_ceCopy : (0x80000000 : Word).getLsbD 31 = true ∧ up.get .MEM_CE_SEL_BUSY = 0 ∧
    (copying 0).get .MEM_CE_SEL_BUSY ≠ 0 ∧ (copying 0).get .MEM_CE_SEL_KIND 1 = 0 ∧
    (copying 1599).get .MEM_CE_SEL_INDEX 1 = 1599 ∧ (copying 1600).get .MEM_CE_SEL_INDEX 1 = 1600 ∧
    (copying 0).stopped (clusterRegion 0) = false ∧ (copying 1599).stopped (clusterRegion 1599) = true := by decide +kernel
/-- HostRingAccesses: open, beyond the top, asleep, behind the job, and the waits. -/
def asleep : State := up.put .PWR_LADDER_MODULE 3
theorem witness_hostRing : up.NoErrors ∧ up.snoopWait = [] ∧ up.snoopAcks = [] ∧ up.hostUp = true ∧
    up.ringAsleep = false ∧ up.hostWait = [] ∧
    (HostOp.read 64).wellFormed (1728 * 2 ^ 30 - 64) = true ∧ up.hostRingAddr .cxlMem (1728 * 2 ^ 30 - 64) + 64 = up.ringTop ∧
    (HostOp.read 64).wellFormed (1728 * 2 ^ 30) = true ∧ up.hostRingAddr .bar2 0 + 8 ≤ up.ringTop ∧
    asleep.ringAsleep = true ∧ asleep.hostUp = true ∧ running.job = true ∧ running.hostUp = true ∧
    (HostOp.read 8).wellFormed 60 = false ∧ [1, 2].Nodup ∧ up.cqWait = [] ∧ up.quiet = none ∧
    ({ up with snoop := [5], cqWait := [(3, true, [])] } : State).cqWait = [((3 : Fin 4).val, true, [])] := by
  refine ⟨⟨rfl, rfl⟩, ?_⟩; decide +kernel
/-- HostClusterAccesses: an open way, a stopped region, a lost cluster, and a numerics page. -/
def win : Nat := 0x400000000000
def clocked : State := [1, 2, 3, 4, 10, 11, 12, 13, 14, 20].foldl (fun s r => s.put .PWR_REGION_CLK 1 r) up
def lost : State := { clocked with loadedDefects := [clusterEntry 1 0 false] }
def paged : State := { (clocked.put .NUM_PAGE_ADDR 64) with image := some im0 }
def pageAt : Nat := win + stackedSize + 64
theorem witness_hostCluster : (HostOp.write [1, 2, 3, 4]).wellFormed win = true ∧ up.ringTop ≤ win ∧ win < 0x401900000000 ∧
    clocked.hostWay win = .open ∧ (clocked.place win).phys.isSome = true ∧ clocked.hitsPage win (win + 3) = false ∧
    up.hostWay win = .waits 20 ∧ clocked.stopped 20 = false ∧ up.stopped 20 = true ∧
    ({ clocked with stalledQ := [⟨20, false, win, .write [1, 2, 3, 4]⟩] } : State).hostWay win = .open ∧
    lost.hostWay win = .refused ∧ lost.hostUp = true ∧ (HostOp.write [1, 2, 3, 4]).wellFormed pageAt = true ∧
    paged.hostWay pageAt = .open ∧ (paged.place pageAt).phys.isSome = true ∧ paged.hitsPage pageAt (pageAt + 3) = true := by decide +kernel


/-! ### Witnesses: the training step, ports -/

def quiet0 : Quiet := ⟨false, 0, false, false, true, true, false, [], false, false⟩
/-- At the quiet point: applied, with nothing that holds the gate, whose generation is complete. -/
def atGate : State := { running with quiet := some quiet0, barriers := [(0, { complete := 1 })] }
theorem witness_gate : atGate.gateBar = some 0 ∧ atGate.job = true ∧
    ¬ ((atGate.barrier 0).complete ≤ (atGate.barrier 0).released) ∧ quiet0.applied = true ∧ quiet0.stopAt = false ∧
    quiet0.ratioStop = false ∧ atGate.commitWaits = false ∧ atGate.inputRings = [] ∧ atGate.due = false ∧ atGate.areaWaits = false ∧
    quiet0.secureCounted = false ∧ atGate.get .NUM_PAGE_ADDR + 64 ≤ 0x100000 ∧
    ({ atGate with due := true } : State).gateBar = some 0 := by decide +kernel
/-- NumericsApplied: loss scaling off, an overflow with EXP 0, and a clean step; a tag that saturates at its limit. -/
def applying (en exp clean : Nat) (ovf : Bool) : State :=
  { running.puts 0 [(.NUM_LS_EN, en), (.NUM_LS_EXP, exp), (.NUM_LS_CLEAN, clean), (.NUM_LS_CFG_CLEAN_STEPS, 5)] with
    quiet := some { quiet0 with applied := false }, v := ovf, skip := ovf, sinceQuiet := [(4095, { sats := 1 })] }
theorem witness_apply : (∀ a ∈ [applying 0 0 0 false, applying 1 0 0 true, applying 1 24 4 false, applying 1 7 3 false],
      maskedNow a = true ∧ (a.quiet.map (·.first)) = some false ∧ (a.quiet.map (·.applied)) = some false ∧
      a.reportsWait { quiet0 with applied := false } = false) ∧
    (applying 1 0 0 true).v = true ∧ (applying 1 24 4 false).get .NUM_LS_CLEAN + 1 = 5 := by decide +kernel
/-- QuietPointCommits: a profile change that is due, and none. -/
def profileDue : State := { (atGate.put .TXN_STATE_STATE 3 1) with txns := [(1, { items := [(1, 2)] })] }
theorem witness_commit : profileDue.commitsDue = true ∧ profileDue.get .TXN_STATE_STATE 1 = 3 ∧
    profileDue.get .TXN_STATE_STATE 2 = 0 ∧ profileDue.get .TXN_STATE_STATE 3 = 0 ∧ profileDue.applyBar 1 = none ∧
    (profileDue.txn 1).find 1 = some (0, 2) ∧ 2 ≠ profileDue.get .PWR_CAP_PROFILE ∧ profileDue.get .PWR_FEED_STAT_SAG = 0 ∧
    running.commitsDue = false ∧ profileDue.commitDue (profileDue.get .TXN_STATE_STATE 1) = true := by decide +kernel
/-- InputRingsAndRestart: a defined ring at its depth and one beyond it, an undefined one; a restart that may start. -/
def rings : State := { running with image := some im0 }.puts 7 [(.MEM_IN_CFG_VALID, 1), (.MEM_IN_CFG_DEPTH, 4)]
def hostWaits : State := { rings with hostWait := [(3, .bar2, 0, .write [1, 2, 3, 4])] }
theorem witness_rings : rings.get .MEM_IN_CFG_VALID 7 ≠ 0 ∧ rings.get .MEM_IN_CFG_VALID 0 = 0 ∧
    ((4 : Word) - BitVec.ofNat 32 rings.startStep).toInt ≤ rings.get .MEM_IN_CFG_DEPTH 7 ∧
    (rings.get .MEM_IN_CFG_DEPTH 7 : Int) < ((5 : Word) - BitVec.ofNat 32 rings.startStep).toInt ∧
    running.get .RES_STEP_STATE_PHASE = 0 ∧ running.get .NUM_RESTART_BUSY = 0 ∧ running.hasPlan = true ∧ up.hasPlan = false ∧
    (running.put .NUM_RESTART_BUSY 1).get .NUM_RESTART_BUSY ≠ 0 ∧ running.snoop = [] ∧ running.lostStacks = 0 ∧
    rings.hostWait = [] ∧ hostWaits.hostWait ≠ [] ∧ hostWaits.get .MEM_IN_CFG_VALID 7 ≠ 0 ∧ rings.ran = false ∧
    rings.startStep = 0 ∧ running.areaBase + 0x221000 ≤ 2 ^ 46 ∧ (1 : Word).getLsbD 0 = true ∧ (2 : Word).getLsbD 0 = false := by decide +kernel
theorem running_hostReady : running.HostReady ∧ rings.HostReady := by constructor <;> (unfold State.HostReady; decide +kernel)
/-- PortPackets: an active port with a flit to send; packets that its receive table admits, drops, and an acknowledgement. -/
def portFlit (vc : Vc) : Flit := ⟨vc, .route 0, .remote 3 0 8 5 [1, 2, 3, 4], true, 0, 0⟩
def rxe : RxEntry := ⟨win, 0, 1, 1, false, 5, 0, 0⟩
def linked (vc : Vc) (wait : Nat) : State :=
  ({ running with image := some { im0 with regions := [⟨0, 3, 0, 0, 0, []⟩] } }.put .OPT_PORT_STATE_STATE 7 9).setPort 9 { tx := [(vc.no, [portFlit vc])], maintWait := wait, rx := [(3, rxe)] }
def pkt (kind : FibreKind) (route : BitVec 8) (vc : Vc) : FibrePacket := ⟨kind, route, vc, 0, 8, [1, 2, 3, 4], [], true, p0, 3, 0, [], none⟩
def replaying : State := (linked .grad 0).setPort 9 { resend := [pkt .write 3 .grad] }
def relay0 : Relay := ⟨.plan, 0, p0, 3, 6⟩
def relaying : State := (linked .grad 0).setPort 8 { relays := [relay0] }
def ackable : State := (linked .grad 0).setCore 0 ((linked .grad 0).core 0 |>.setChan 3 [sj])
/-- Routes planned for writes of core 0 to ports 8 and 9, from the ports' own attach router. -/
def planned : State := { relaying with image := some { im0 with
  sources := [⟨⟨0, 0, 0⟩, 1, 2, 9, 5, 6⟩, ⟨⟨0, 2, 0⟩, 1, 2, 8, 5, 6⟩] } }
/-- Copies that wait, of a drain and of an answer; a port that owes a credit, and one that asks for a replay. -/
def copying9 (paced : Bool) (wait : Nat) : State :=
  (linked .grad 0).setPort 9 { copies := [(paced, pkt .copy 0 .maint)], copyWait := wait }
def idle9 (asks : Bool) : State := (linked .grad 0).setPort 9 { asks, owing := [(2, if asks then [] else [0])] }
theorem witness_ports : (linked .grad 0).get .OPT_PORT_STATE_STATE 9 = 7 ∧
    mget [] ((linked .grad 0).port 9).tx Vc.grad.no = [portFlit .grad] ∧
    (∀ v, v < Vc.grad.no → mget [] ((linked .grad 0).port 9).tx v = []) ∧
    mget [] ((linked .maint 63).port 9).tx 3 = [portFlit .maint] ∧ ((linked .maint 63).port 9).maintWait = 63 ∧
    mget [] ((linked .maint 63).port 9).tx 0 = [] ∧ running.get .OPT_PORT_STATE_STATE 9 ≠ 7 ∧
    (∀ v ∈ [(Vc.grad, 0), (.maint, 63)], nextGroup [portFlit v.1] = [portFlit v.1] ∧
      ((linked v.1 v.2).port 9).resend = [] ∧ mget 0 ((linked v.1 v.2).port 9).used v.1.no = 0) ∧
    (replaying.port 9).resend = [pkt .write 3 .grad] ∧ replaying.get .OPT_PORT_STATE_STATE 9 = 7 ∧
    ackable.get .OPT_PORT_STATE_STATE 9 = 7 ∧ (ackable.core (pkt .ack 0 .plan).writer.no).chan (pkt .ack 0 .plan).chan = [sj] ∧
    ackable.relayOf (pkt .ack 0 .plan) = none ∧ relaying.relayOf (pkt .ack 0 .plan) = some (8, relay0) ∧
    relaying.get .OPT_PORT_STATE_STATE 9 = 7 ∧ relaying.portRoute (portRouter 9) 8 .plan = none ∧
    (∀ k ∈ [FibreKind.write, .ack, .arrival 3 true, .release 3 false], (pkt k 3 .grad).seq = ((linked .grad 0).port 9).rxSeq ∧
      (mget [] ((linked .grad 0).port 9).owing (pkt k 3 .grad).vc.no).length +
        (((linked .grad 0).port 9).parts.filter (·.vc = (pkt k 3 .grad).vc)).length < 1536) ∧
    (∀ v ∈ [(Vc.grad, 0), (.maint, 63)], ((linked v.1 v.2).port 9).copies = []) ∧
    (∀ paced, ((copying9 paced 63).port 9).copies = [(paced, pkt .copy 0 .maint)] ∧ ((copying9 paced 62).port 9).copyWait < 63 ∧
      ((copying9 paced 63).port 9).tx = [] ∧ (copying9 paced 62).drainsUnpaced = false ∧
      mget 0 ((copying9 paced 63).port 9).used 3 = 0) ∧
    (∀ asks, ((idle9 asks).port 9).tx = [] ∧ ((idle9 asks).port 9).asks = asks) ∧ (idle9 false).creditsDue 9 = [.grad] ∧
    ((linked .grad 0).setPort 9 {}).creditsDue 9 = [] ∧
    (planned.sourceEntry (pkt .ack 0 .plan).writer.no 2 9 Vc.plan.no).isSome = true ∧
    ackable.sourceEntry (pkt .ack 0 .plan).writer.no 2 9 Vc.plan.no = none ∧
    ({ pkt .write 3 .grad with seq := 7 } : FibrePacket).seq ≠ ((linked .grad 0).port 9).rxSeq ∧
    (linked .grad 0).rxBad { rxe with forward := true } (pkt .write 3 .grad) = none ∧
    mget ⟨0, 0, 0, 0, false, 0, 0, 0⟩ ((linked .grad 0).port 9).rx (pkt .write 3 .grad).farRoute.toNat = rxe ∧
    (linked .grad 0).rxBad rxe (pkt .write 3 .grad) = none ∧ (linked .grad 0).rxBad rxe (pkt .write 3 .plan) = some 2 ∧
    (linked .grad 0).get .OPT_PORT_CTRL_RX_DROPS 9 = 0 ∧
    ((linked .grad 0).put .OPT_PORT_CTRL_RX_DROPS 1 9).get .OPT_PORT_CTRL_RX_DROPS 9 ≠ 0 := by decide +kernel
/-- PortTraining: every way in which a pass ends. -/
def light : PortLight := ⟨0, true, false, false, some 7, 1, 2, 1000, false⟩
def training (id enabled : Nat) (x : Option PortRec) : State :=
  (up.puts 9 [(.OPT_PORT_STATE_STATE, 1), (.OPT_PORT_STATE_ENABLED, enabled)] |>.puts 0
    [(.RES_MODULE_ID_ASSIGNED, 1), (.RES_MODULE_ID_MODULE_ID, id)]).setPort 9 { training := true, expect := x }
theorem witness_training : (∀ s ∈ [training 6 0 none, training 7 0 none, training 6 1 (some ⟨9, true, 7, 1, 2⟩),
      training 6 1 (some ⟨9, true, 8, 1, 2⟩)], (s.port 9).training = true ∧ s.trainable 9 = true ∧
      s.get .RES_MODULE_ID_ASSIGNED ≠ 0) ∧ (7 : BitVec 14).toNat ≠ (training 6 0 none).get .RES_MODULE_ID_MODULE_ID ∧
    (7 : BitVec 14).toNat = (training 7 0 none).get .RES_MODULE_ID_MODULE_ID ∧ light.fibreNs ≤ 1000 ∧
    light.darkLanes = 0 ∧ light.locks = true ∧ light.laneError = false ∧ up.get .RES_MODULE_ID_ASSIGNED = 0 := by decide +kernel
/-- PortStates: ports in every state it speaks of; the sixteenth replay; a rate above the limit. -/
def portIn (st en : Nat) : State := up.puts 159 [(.OPT_PORT_STATE_STATE, st), (.OPT_PORT_STATE_ENABLED, en)]
theorem witness_portStates : (∀ st ∈ [1, 2, 3, 5], (portIn st 0).trainable 159 = true) ∧ (portIn 8 0).trainable 159 = false ∧
    (∀ st < 10, (portIn st 0).get .OPT_PORT_STATE_STATE 159 = st ∧ (portIn st 0).portFitted 159 = true ∧
      (portIn st 0).get .OPT_PORT_STATE_ENABLED 159 = 0) ∧ (portIn 7 1).get .OPT_PORT_STATE_ENABLED 159 ≠ 0 ∧
    (portIn 1 0).get .OPT_PORT_CTRL_DISABLE 159 = 0 ∧ ((portIn 9 0).put .OPT_PORT_CTRL_DISABLE 1 159).get .OPT_PORT_CTRL_DISABLE 159 = 1 ∧
    (((portIn 7 1).setPort 159 { failed := 15, logged := true }).port 159).failed + 1 = 16 ∧
    ({ up with shadowBank := { up.shadowBank with halfPorts := true } } : State).portFitted 159 = false ∧
    0 < (up.put .OPT_FEC_LIMIT_LIMIT 5).get .OPT_FEC_LIMIT_LIMIT ∧ (up.put .OPT_FEC_LIMIT_LIMIT 0).get .OPT_FEC_LIMIT_LIMIT = 0 := by
  decide +kernel
theorem port_hostReady : (portIn 1 0).HostReady := by unfold State.HostReady; decide +kernel

/-! ### Witnesses: Eloap -/

/-- CommandsTakeTurns: before its turn, before READY, out of band with OOB_ADMIN 0, and every way of completing. -/
def tb (c : Ctx) : Instr := .txnBegin c 1 0
def notReady : State := up.put .RES_START_STATE_READY 0
def oobCtx : Ctx := ⟨.oobPcie, 7, false⟩
def tailCtx : Ctx := ⟨.ring 3, 7, true⟩
def noOob : State := up.put .FUSE_POLICY_OOB_ADMIN 0
theorem witness_turns : commandOf (tb ctx) = some ctx ∧ up.turn ctx (tb ctx) = true ∧ State.reset.turn ctx (tb ctx) = false ∧
    notReady.turn ctx (tb ctx) = true ∧ notReady.get .RES_START_STATE_READY = 0 ∧ (tb ctx).opcode = 0x10 ∧
    up.turn oobCtx (tb oobCtx) = true ∧ oobCtx.src.oob = true ∧ adminOpcode (tb oobCtx).opcode = true ∧
    noOob.policyBit 0 = false ∧ noOob.turn oobCtx (tb oobCtx) = true ∧ ctx ∉ up.orphans ∧
    ctx ∈ ({ up with orphans := [ctx] } : State).orphans ∧ up.get .HOST_RING_CFG_SIZE 3 ≤ 8 ∧
    (up.put .HOST_CQ_TAIL_INDEX 15 3).get .HOST_CQ_TAIL_INDEX 3 + 1 = up.ringEntries 3 ∧ up.snoop = [] ∧
    up.get .HOST_RING_CFG_HOST_MEM 3 = 0 ∧ (up.put .HOST_RING_CFG_HOST_MEM 1 3).get .HOST_RING_CFG_HOST_MEM 3 ≠ 0 ∧
    up.cqWait = [] ∧ up.cqHeld 3 = false ∧ ({ up with snoop := [up.cqSlot 3 / 64] } : State).cqHeld 3 = true := by
  decide +kernel


/-! ### Witnesses: transactions, images, jobs, pairing, the ladder -/

theorem admits_of {s : State} {c : Ctx} {i : Instr}
    (h : s.turn c i = true ∧ s.get .RES_START_STATE_READY ≠ 0 ∧ c.src.oob = false) : s.Admits c i :=
  ⟨h.1, .inl h.2.1, fun e => by rw [h.2.2] at e; exact absurd e (by decide)⟩
/-- Transactions: every scope, open and not, with the last free place and without one, and each way a commit goes. -/
def opened (sc : Nat) (items : List (Word × BitVec 64)) : State :=
  { running with txns := [(sc, { items, regions := if sc = 0 then 1 else 0, timeout := 10 })], job := false }.puts sc
    [(.TXN_STATE_STATE, 1)] |>.puts 0 [(.CORE_STATUS_STATE, 2)] |>.puts 1 [(.CORE_STATUS_STATE, 2)]
def heldCmd (s : State) : State := { s with accepted := [(ctx, leBytes 2 0x12)] }
def stepping (s : State) : State := s.put .RES_STEP_STATE_PHASE 1
def manyItems : List (Word × BitVec 64) := (List.range 4096).map (fun k => (BitVec.ofNat 32 k, 0))
theorem witness_begin : (∀ sc : Fin 4, running.Admits ctx (.txnBegin ctx sc 0) ∧ running.Admits ctx (.txnBegin ctx sc 1) ∧
    (opened sc []).Admits ctx (.txnWrite ctx 0x20000003 5) ∧ (opened sc []).Admits ctx (.txnCommit ctx sc false) ∧
    (opened sc []).Admits ctx (.txnRollback ctx sc)) :=
  fun sc => ⟨admits_of (by revert sc; decide +kernel), admits_of (by revert sc; decide +kernel),
    admits_of (by revert sc; decide +kernel), admits_of (by revert sc; decide +kernel), admits_of (by revert sc; decide +kernel)⟩
theorem witness_write : keyScope 0x20000003 = 2 ∧ 4 ≤ keyScope 0x40000000 ∧ keyScope 0x30000001 = 3 ∧
    (opened 2 [(0x20000003, 1)]).get .TXN_STATE_STATE 2 = 1 ∧
    ((opened 2 [(0x20000003, 1)]).txn 2).items.findIdx? (·.1 = 0x20000003) = some 0 ∧
    ((opened 2 []).txn 2).items.findIdx? (·.1 = 0x20000003) = none := by decide +kernel
theorem witness_full : ((opened 2 manyItems).txn 2).items.length = 4096 := by decide +kernel
def linkedTo (s : State) (id : Nat) : State :=
  s.puts 3 [(.OPT_PORT_STATE_STATE, 4), (.OPT_PORT_PEER_VALID, 1), (.OPT_PORT_PEER_MODULE_ID, id)] |>.puts 0
    [(.RES_MODULE_ID_ASSIGNED, 1), (.RES_MODULE_ID_MODULE_ID, 6)]
theorem witness_txnCommit : (opened 2 []).get .IMG_STATE_STATE = 2 ∧ ((opened 2 []).put .IMG_STATE_STATE 0).get .IMG_STATE_STATE ≠ 2 ∧
    (opened 0 []).commitBar 0 true = some 6 ∧ (stepping (opened 3 [])).commitBar 3 false = some 6 ∧
    ((opened 2 []).txn 2).startFc + 1400000000 * ((opened 2 []).txn 2).timeout ≤ ({ opened 2 [] with fc := 14000000000 } : State).fc ∧
    (opened 2 []).fc < ((opened 2 []).txn 2).startFc + 1400000000 * ((opened 2 []).txn 2).timeout ∧
    ((opened 3 []).firstOf ctx.src).isSome = false ∧ (heldCmd (opened 3 [])).accepted.length = 1 ∧
    ((heldCmd (opened 3 [])).firstOf ctx.src).isSome = true ∧ (opened 0 []).commitBar 0 false = none ∧ (opened 0 []).commitBad 0 = some (2, 0) ∧
    ((opened 0 []).put .FUSE_REQ_CTRL_BUSY 1).commitBar 0 false = none ∧
    (opened 2 [(0x20000003, 5)]).commitBar 2 false = none ∧ (opened 2 [(0x20000003, 5)]).commitBad 2 = none ∧
    (stepping (opened 1 [(0x10000001, 2)])).commitBar 1 true = none ∧ (stepping (opened 1 [(0x10000001, 2)])).commitBad 1 = none ∧
    (opened 1 [(0x10000001, 2)]).applyBar 1 = none ∧ ((opened 1 [(0x10000001, 2)]).txn 1).find 1 = some (0, 2) ∧
    ((opened 1 [(0x10000001, 2)]).puts 9 [(.THERM_REGION_VALID, 1), (.THERM_REGION_TJ, 1680)]).applyBar 1 = some (0, some 9) ∧
    (opened 3 [(0x30000001, 7)]).commitBar 3 false = none ∧ (opened 3 [(0x30000001, 7)]).commitBad 3 = none ∧
    ((opened 3 [(0x30000001, 7)]).txn 3).find 1 = some (0, 7) ∧ (opened 3 [(0x30000001, 7)]).pairing = none ∧
    (opened 3 [(0x30000001, 7)]).pairBar 7 = some 6 ∧ (linkedTo (opened 3 [(0x30000001, 7)]) 7).pairBar 7 = none := by decide +kernel
def errorOf {α : Type} (r : Except Reject α) : Option Reject := match r with
  | .ok _ => none
  | .error e => some e
def covered : State := { (up.puts 0 [(.HOST_RING_CFG_EN, 1)]) with mem := memWrite [] (4096 + 0x700) ([1] ++ (List.replicate 15 0 ++ [1])) }
/-- ImageLoading: a bad place, a ladder state, a busy fuse request, a job, a staged page of zeros (rejected), and a load that
waits for clocks, ends well, and fails its second digest. -/
def im3 : Image := { im0 with digest := digest [], length := 0x700, regions := [⟨0, 3, 0, 0, 0, [0, 0, 0, 0]⟩] }
def loadingWith (s : State) (im : Image) : State := { s with loading := some ⟨some ctx, 0, im⟩ }
theorem witness_loadImage : (∀ s ∈ [up, asleep, running, up.put .FUSE_REQ_CTRL_BUSY 1],
      s.turn ctx (.loadImage ctx 4096) = true ∧ s.get .RES_START_STATE_READY ≠ 0) ∧ ctx.src.oob = false ∧
    4096 < up.ringTop ∧ up.get .PWR_LADDER_MODULE = 0 ∧ asleep.get .PWR_LADDER_MODULE ≠ 0 ∧ running.noJob = false ∧
    running.ringAsleep = false ∧ up.noJob = true ∧ up.topCovers (up.peekTop 4096) = false ∧ up.loadBar 4096 = none ∧
    errorOf (up.unload.inspect 0 4096).2 = some (1, 0, 0) ∧
    (covered.topCovers (covered.peekTop 4096)) = true ∧ covered.get .FUSE_REQ_CTRL_BUSY = 0 := by decide +kernel
theorem witness_loadDone : (loadingWith up im3).loading = some ⟨some ctx, 0, im3⟩ ∧
    (up.raiseRegions im3).clocksRun im3 = true ∧ (State.reset.put .PWR_REGION_SHORT 1 0 |>.raiseRegions im3).clocksRun im3 = false ∧
    up.NoErrors ∧ up.snoop = [] ∧ up.snoopWait = [] ∧ im3.preloads = [] ∧ 0 + im3.length ≤ 2 ^ 46 ∧
    digest (memRead up.mem (0 + 0x700) (im3.length - 0x700)) = im3.digest ∧ digest [] ≠ { im3 with digest := 0 }.digest ∧ up.loading = none := by
  refine ⟨rfl, ?_, ?_, ⟨rfl, rfl⟩, ?_, ?_, ?_, ?_, ?_, ?_, ?_⟩ <;> decide +kernel
/-- RunHaltSecureNow: RUN with and without a step plan, and what bars it; HALT; SECURE_NOW idle, deferred, started, hastened. -/
def stopped1 : State := ({ running with job := false, image := some { im0 with stepPlan := none } } : State).puts 0
  [(.CORE_STATUS_STATE, 0), (.RES_COOL_CHECK_STATE, 2)] |>.puts 1 [(.CORE_STATUS_STATE, 0)]
def stopped2 : State := { stopped1 with image := some im0 }
def paired : State := linkedTo (running.puts 0 [(.RES_PAIR_IN_EFFECT, 1), (.RES_PAIR_PARTNER_ID, 7), (.RES_STEP_STATE_PHASE, 1),
  (.RES_STEP_STATE_STABLE, 1)]) 7
def drain0 : Drain := ⟨0, false, false, false, false, false, 0, 0, false, 0, false⟩
/-- The step after that of a drain. -/
def nextStep (s : State) (d : Drain) : State := ({ s with drain := some d }).puts 0 [(.RES_STEP_LO_COUNT, 1)]
/-- A pending partner's commit is in its exchange. -/
def exchanging (s : State) : State := { s.put .TXN_STATE_STATE 3 3 with pairing := some ⟨some oobCtx, 7, true⟩ }
theorem witness_run : (∀ s ∈ [stopped1, stopped2], s.turn ctx (.run ctx) = true ∧ s.get .RES_START_STATE_READY ≠ 0 ∧
      s.runBar = none ∧ s.usedCores ≠ [] ∧ (∀ p ∈ s.usedCores, p < 27200) ∧ s.bad = [] ∧ s.lostStacks = 0 ∧ s.snoop = [] ∧
      s.snoopWait = []) ∧ stopped1.hasPlan = false ∧ stopped2.hasPlan = true ∧ stopped2.get .NUM_PAGE_ADDR + 64 ≤ 0x100000 ∧
    ({ stopped1 with scanDriven := true } : State).scanDriven = true ∧ stopped1.scanDriven = false ∧
    (stopped1.put .RES_COOL_CHECK_STATE 1).get .RES_COOL_CHECK_STATE ≠ 2 ∧ up.get .IMG_STATE_STATE ≠ 2 ∧
    (stopped1.put .NUM_RESTART_BUSY 1).get .NUM_RESTART_BUSY ≠ 0 ∧ running.turn ctx (.halt ctx) = true ∧
    paired.turn ctx (.secureNow ctx) = true ∧ paired.job = true ∧ paired.get .RES_PAIR_IN_EFFECT ≠ 0 ∧
    paired.get .RES_STEP_STATE_PHASE ≠ 0 ∧ paired.get .RES_STEP_STATE_STABLE ≠ 0 ∧ paired.drain = none ∧
    paired.lastDrain = none ∧ paired.partnerPorts = [3] ∧ (paired.put .RES_STEP_STATE_STABLE 0).get .RES_STEP_STATE_STABLE = 0 ∧
    ({ paired with drain := some drain0 } : State).drain = some drain0 ∧ drain0.step.toNat = paired.stepCount ∧
    drain0.readDone = false ∧ (nextStep paired drain0).stepCount = 1 ∧ (nextStep paired drain0).get .RES_STEP_STATE_STABLE ≠ 0 ∧
    (nextStep paired drain0).drainOf (nextStep paired drain0).stepCount = false ∧
    (nextStep paired drain0).lastDrain = none ∧ ({ paired with drain := some drain0 } : State).drainOf paired.stepCount = true ∧
    running.get .TXN_STATE_STATE 3 < 2 ∧ 2 ≤ (exchanging running).stopJob.get .TXN_STATE_STATE 3 ∧
    (exchanging running).turn ctx (.halt ctx) = true ∧ (exchanging running).job = true ∧
    running.get .RES_PAIR_IN_EFFECT = 0 := by decide +kernel
/-- PairingExchange: itself, no port, a port that is up; replies of every kind; an exchange received and refused. -/
def tags7 (units : Nat) (site : BitVec 16) : PairTags := ⟨7, 1, 1, 2, site, units⟩
def ownSite (shared : Bool) : State := { (linkedTo up 7).puts 0 [(.RES_FEED_TAGS_FEED_A_TAG, 3), (.RES_FEED_TAGS_FEED_B_TAG, 4),
  (.RES_SITE_TAG_SITE_TAG, 9), (.MNT_HOST_UNITS_UNITS, 4)] with
  pairing := some ⟨some ctx, 7, false⟩, shadowBank := { up.shadowBank with pairShared := shared, serial := 5 } }
theorem witness_pairing : (linkedTo up 7).turn ctx (.pair ctx 7) = true ∧ (linkedTo up 7).portsTo 7 = [3] ∧
    (linkedTo up 7).portsTo 8 = [] ∧ (linkedTo up 7).get .RES_MODULE_ID_ASSIGNED ≠ 0 ∧
    (linkedTo up 7).get .RES_MODULE_ID_MODULE_ID = 6 ∧ up.get .RES_MODULE_ID_ASSIGNED = 0 ∧ up.pairing = none ∧
    (ownSite false).pairing = some ⟨some ctx, 7, false⟩ ∧ (ownSite false).get .TXN_STATE_STATE 3 < 2 ∧
    sharesFeed (ownSite false).ownTags (tags7 0 9) = false ∧ sharesFeed (ownSite false).ownTags { tags7 0 9 with feedB := 3 } = true ∧
    slotBytes 1 < 4096 + (ownSite false).ownTags.uniqueUnits * 4096 ∧
    4096 + (ownSite false).ownTags.uniqueUnits * 4096 ≤ slotBytes 2 ∧ (8 : BitVec 14) ≠ (ownSite false).ownTags.moduleId ∧
    (ownSite false).portUp 3 = true ∧ (ownSite false).get .OPT_PORT_PEER_VALID 3 ≠ 0 ∧
    (ownSite false).get .OPT_PORT_PEER_MODULE_ID 3 = (tags7 1 9).moduleId.toNat ∧ (ownSite false).get .MNT_HOST_SRC_VALID = 0 ∧
    4096 + (tags7 1 9).uniqueUnits * 4096 ≤ slotBytes ((ownSite false).get .MNT_HOST_UNITS_UNITS) ∧
    ¬ 4096 + (tags7 2 9).uniqueUnits * 4096 ≤ slotBytes ((ownSite false).get .MNT_HOST_UNITS_UNITS) := by decide +kernel
/-- LadderMoves: bad operands, a running job, a stuck region, an admitted one; the moves up, down and to Vigil. -/
def laddering (target : Nat) (isSet : Bool) (set : RegionSet) : State :=
  { (stopped1.put .PWR_REGION_SHORT 1 9) with laddering := some ⟨ctx, target, isSet, set, 0⟩ }
theorem witness_ladder : stopped1.turn ctx (.ladder ctx 5 false 0) = true ∧ running.turn ctx (.ladder ctx 1 false 0) = true ∧
    running.noJob = false ∧ stopped1.noJob = true ∧ (laddering 1 true 1).regionStuck 9 = true ∧
    (laddering 1 true 1).regionStuck 0 = false ∧ (BitVec.twoPow 400 9).getLsbD 9 = true ∧
    stopped1.ladderDetail 4 false 0 = none ∧ (stopped1.put .PWR_LADDER_MODULE 3).ladderDetail 1 true 2 = some 3 ∧
    (∀ k < 5, (laddering k false 0).coolChecking = false ∧ (laddering k false 0).get .PWR_LADDER_MODULE ≤ 4) ∧
    (∀ r < 400, (laddering 0 false 0).imageLadder r ≤ 4) ∧ up.laddering = none ∧
    stopped1.get .PWR_LADDER_MODULE = 0 ∧ ((laddering 0 false 0).put .PWR_LADDER_MODULE 4).get .PWR_LADDER_MODULE = 4 ∧
    (0 : Fin 36).val ∈ (laddering 0 false 0).stacksInUse ∧ ((laddering 1 true 1).put .PWR_REGION_TRIPPED 1 0).get .PWR_REGION_SHORT 0 = 0 ∧
    ((laddering 1 true 1).put .PWR_REGION_TRIPPED 1 0).get .PWR_REGION_TRIPPED 0 ≠ 0 ∧ (stopped1.firstOf ctx.src).isSome = false ∧
    ((heldCmd stopped1).firstOf ctx.src).isSome = true ∧ ({ (laddering 2 false 0).put .RES_COOL_CHECK_STATE 1 with cool := { checkOn := true } } : State).coolChecking = true := by
  decide +kernel


/-! ### Witnesses: maintenance, the host interface -/

/-- MaintenanceActivities: bad parameters, a full queue, an empty one; each activity due. -/
def act (code : Nat) (params : List Byte) : Activity := ⟨4, code, params, true, 16, 0⟩
def acting (code : Nat) (params : List Byte) : State := { stopped1 with activities := [act code params] }
def span0 : List Byte := [0, 0, 1, 0] ++ List.replicate 44 0
theorem witness_maint : stopped1.turn ctx (.maintStart ctx 0 span0) = true ∧ maintParams 0 span0 = true ∧
    maintParams 0 (List.replicate 48 0) = false ∧ running.maintAllowed 2 (List.replicate 48 0) = false ∧
    maintParams 2 (List.replicate 48 0) = true ∧ stopped1.maintAllowed 0 span0 = true ∧
    ({ stopped1 with activities := List.replicate 16 ⟨4, 1, [], false, 16, 0⟩ } : State).activities.length -
      ({ stopped1 with activities := List.replicate 16 ⟨4, 1, [], false, 16, 0⟩ } : State).runningNow.length = 16 ∧
    stopped1.activities = [] ∧ stopped1.drain = none ∧ stopped1.replies = [] ∧ (35 : Fin 36).val ∈ stopped1.stacksInUse ∧
    (∀ k < 8, (acting k span0).activities = [act k span0] ∧ (act k span0).started = true ∧ (act k span0).result = 16 ∧
      (acting k span0).dueActivity k = some (act k span0) ∧ stopped1.dueActivity k = none) ∧
    0 ∈ spanRegions span0 0 ∧ stopped1.regionStuck 0 = false ∧ pfield span0 0 1 = 0 ∧
    (stopped1.put .PWR_LADDER_MODULE 3).ringAsleep = true ∧ stopped1.ringAsleep = false ∧
    ({ stopped1 with flash := { stopped1.flash with nextId := some 5 } } : State).flash.nextId = some 5 := by decide +kernel
/-- FUSESENSE meets a shadow equal to the bank, and one that is not. -/
theorem puts_banks (s : State) (i : Nat) (l : List (Field × Nat)) :
    (s.puts i l).fuses = s.fuses ∧ (s.puts i l).shadowBank = s.shadowBank := by
  induction l generalizing s with
  | nil => exact ⟨rfl, rfl⟩
  | cons x l ih => exact ih (s.put x.1 x.2 i)
theorem up_banks : up.fuses = ⟨.factory, .factory⟩ ∧ up.shadowBank = .factory :=
  ⟨(puts_banks State.reset 0 _).1, (puts_banks State.reset 0 _).2⟩
/-- The bank with the firmware count raised by one. -/
def counted : FuseBank := { FuseBank.factory with fwCount := 1 }
theorem witness_sense : up.fuses.read = { up.shadowBank with lifecycle := BitVec.ofNat 2 up.pendingLifecycle } ∧
    ({ up with fuses := ⟨counted, counted⟩ } : State).fuses.read ≠
      { up.shadowBank with lifecycle := BitVec.ofNat 2 up.pendingLifecycle } := by
  have h : BitVec.ofNat 2 up.pendingLifecycle = FuseBank.factory.lifecycle := by decide +kernel
  rw [h, up_banks.1, up_banks.2, FusePair.read_same]
  refine ⟨rfl, fun k => ?_⟩
  have := congrArg FuseBank.fwCount k
  rw [show ({ up with fuses := ⟨counted, counted⟩ } : State).fuses.read = counted from FusePair.read_same _] at this
  exact absurd this (by decide)
/-- DrainsAndDefectUpdates: with a partner and without; a copy that matches; each operation's entries. -/
def pairedOff (code : Nat) (params : List Byte) : State :=
  { (linkedTo ((acting code params).puts 0 [(.RES_PAIR_IN_EFFECT, 1), (.RES_PAIR_PARTNER_ID, 7)]) 7) with
    tables := [⟨3, 16, 0, 1, 0, 0⟩], shadowBank := { up.shadowBank with serial := 5 } }
def copy0 : CopyInfo := ⟨true, 9, true, false, false, false, 6, 5, 0, [(16, 1)], 0⟩
def restore9 : List Byte := [1, 0, 0, 0, 0, 0, 0, 0, 9] ++ List.replicate 39 0
theorem witness_drains : (pairedOff 6 restore9).partnerPorts = [3] ∧ (pairedOff 6 restore9).get .RES_PAIR_IN_EFFECT ≠ 0 ∧
    (acting 6 span0).get .RES_PAIR_IN_EFFECT = 0 ∧ (pairedOff 6 span0).drain = none ∧ (pairedOff 6 span0).replies = [] ∧
    ({ pairedOff 6 span0 with replies := [drain0] } : State).replies ≠ [] ∧ pfield span0 0 1 = 0 ∧
    pfield restore9 0 1 = 1 ∧ pfield (2 :: span0.drop 1) 0 1 = 2 ∧ pfield restore9 8 16 = 9 ∧
    (pairedOff 6 restore9).copyMatches copy0 9 = true ∧ (pairedOff 6 restore9).copyMatches copy0 8 = false ∧
    copy0.ranges = (pairedOff 6 restore9).uniqueRanges.map unitRange ∧ (pairedOff 6 restore9).uniqueBytes = 4096 ∧
    (pairedOff 6 restore9).uniqueRanges = [(65536, 4096)] ∧ (pairedOff 6 restore9).bad = [] ∧
    (pairedOff 6 restore9).lostStacks = 0 ∧ (pairedOff 6 restore9).snoop = [] := by decide +kernel
def withDefect (mode : Byte) (d : Word) (soft : List Word) : State :=
  { (acting 7 ([mode, 0, 0, 0] ++ leBytes 4 d.toNat ++ List.replicate 40 0)) with flash := { up.flash with softDefects := soft } }
theorem witness_defects : (∀ k ∈ [(1, 0), (4, 9), (5, 35), (6, 159)], let d := defEntry k.1 2 k.2
      BitVec.ofNat 32 (pfield ([0, 0, 0, 0] ++ leBytes 4 d.toNat ++ List.replicate 40 0) 4 8) = d ∧
      (withDefect 0 d []).defectMap = [] ∧ regionBarred (withDefect 0 d []).defectMap (defRegion d) = false ∧
      clusterLost (withDefect 0 d []).defectMap (defCluster d) = false ∧ badCores (withDefect 0 d []).defectMap (defCluster d) = []) ∧
    ((withDefect 0 (defEntry 5 2 35) [defEntry 5 1 35]).addDefect (defEntry 5 2 35)).isNone = true ∧
    sameDefect (defEntry 5 1 35) (defEntry 5 2 35) = true ∧ defKind (defEntry 4 2 9) = 4 ∧ defKind (defEntry 6 2 159) = 6 ∧
    (withDefect 1 (defEntry 5 2 35) [defEntry 5 1 35]).fuses.read.defects = [] := by decide +kernel
/-- HostQueues: a mailbox that is free, with a good descriptor and a bad one; doorbells at their bounds; rings on and off. -/
def mailed (op : Nat) : State := up.put .HOST_MBX_CMD_WORD op 0
def ringOn : State := up.puts 3 [(.HOST_RING_CFG_EN, 1), (.HOST_SQ_TAIL_INDEX, 1)]
theorem witness_queues : up.get .HOST_MBX_CTRL_BUSY = 0 ∧ up.accepted = [] ∧ up.inProgress = [] ∧ up.orphans = [] ∧
    (match decodeDescriptor (descCtx .mailbox (mailed 0x20).mailDescriptor) (mailed 0x20).mailDescriptor with
      | .ok _ => true
      | .error _ => false) = true ∧
    (match decodeDescriptor (descCtx .mailbox (mailed 255).mailDescriptor) (mailed 255).mailDescriptor with
      | .ok _ => 0
      | .error e => e) = 1 ∧
    ringOn.get .HOST_RING_CFG_EN 3 ≠ 0 ∧ ringOn.ringEntries 3 = 16 ∧ (15 : Word).toNat % 4096 < ringOn.ringEntries 3 ∧
    (0 + 16 - 1) % 16 = 15 ∧ (ringOn.get .HOST_SQ_HEAD_INDEX 3 + 16 - 1 + 16 - 1) % 16 = 14 ∧ up.get .HOST_RING_CFG_EN 3 = 0 ∧
    ((up.put .HOST_SQ_BASE_HI_ADDR 0xFFFF 3).put .HOST_RING_CFG_SIZE 8 3).ringPlaced 3 = false ∧
    ((up.puts 3 [(.HOST_SQ_BASE_LO_ADDR, 0x10000), (.HOST_CQ_BASE_LO_ADDR, 0x20000)]).put .HOST_RING_CFG_SIZE 8 3).ringPlaced 3 = true ∧
    ringOn.get .HOST_SQ_HEAD_INDEX 3 ≠ ringOn.get .HOST_SQ_TAIL_INDEX 3 ∧ ringOn.cqRoom 3 = true ∧ ringOn.ringAsleep = false ∧
    ringOn.hostUp = true ∧ ringOn.get .HOST_RING_CFG_SIZE 3 ≤ 8 ∧
    ringOn.fetchTurn = 0 ∧ (∀ q : Fin 4, q.val < 3 → ringOn.get .HOST_RING_CFG_EN q = 0) ∧
    (({ ringOn with bad := [(ringKey 0 0, [1, 2])] } : State).readPhys 0 64).2 = none ∧
    (match decodeDescriptor (descCtx (.ring 3) (0x20 :: List.replicate 63 0)) (0x20 :: List.replicate 63 0) with
      | .ok _ => true
      | .error _ => false) = true := by decide +kernel
/-- OutOfBandServices: free and busy endpoints; the firmware and its absence; lifecycles; the alert line. -/
def oobTxn : State := up.puts 1 [(.TXN_STATE_STATE, 1), (.TXN_STATE_REQUESTER, 1)]
theorem witness_oob : up.sourceUp .oobSmbus = true ∧ State.reset.sourceUp .oobSmbus = false ∧ up.oobBusy &&& 2 = 0 ∧
    ({ up with oobBusy := 3 } : State).oobBusy &&& 1 ≠ 0 ∧ (List.replicate 64 (0 : Byte)).length = 64 ∧
    oobTxn.get .TXN_STATE_REQUESTER 1 = 1 ∧ oobTxn.get .TXN_STATE_STATE 1 = 1 ∧ up.answers = true ∧ State.reset.answers = false ∧
    up.firmware = some (false, 0, 0) ∧ State.reset.firmware = none ∧ up.shadowBank.lifecycle = 2 ∧
    ({ up with shadowBank := { up.shadowBank with lifecycle := 3 } } : State).shadowBank.lifecycle = 3 ∧ State.reset.hostUp = false ∧
    (List.replicate 63 (0 : Byte)).length ≠ 64 ∧ up.firmwareGood [] = false ∧ up.flash.fwA = none ∧
    (up.put .RES_MGMT_ALERT 1).get .RES_MGMT_ALERT ≠ 0 ∧ up.get .RES_MGMT_ALERT = 0 ∧
    (up.put .THERM_REGION_VALID 1 5).hottest.isSome = true ∧ up.smbusAddr = 0x52 := by decide +kernel
/-- The identity key unwraps under the secret that wrapped it. -/
theorem witness_identity : up.flash.identity.under = up.fuses.read.secret := by
  rw [up_banks.1, FusePair.read_same]; rfl
/-- RegisterAccesses: the log commands' operands; holes of BAR0 and a stopped region's window; writes that wait. -/
def posted : State := { up with stalledQ := [⟨1, true, 0x7F0000000000, .write [0, 0, 0, 0]⟩] }
/-- A write of an offset that names no core and no debug window. -/
theorem plain_of {s : State} {off v : Nat} (h : off < 0x100000 ∨ (0x200000 ≤ off ∧ off < 0x1000000))
    (hn : off ∉ [0x40, 0x400218, 0x700150, 0x800010, 0x800020, 0xA00044, 0xA00050, 0xA00054, 0xA00058, 0xA0005C, 0xB00000,
      0xB00008, 0xB00118]) (hr : off < 0x100 ∨ 0x200 ≤ off) (ha : off < 0x800000 ∨ 0x900000 ≤ off)
    (hp : off < 0x90101C ∨ 0xA00000 ≤ off) (hm : 0x40 ≤ off) (hl : off ≠ 0x400200) (hv : off ≠ 0x600010) (hw : off ≠ 0xA00024)
    (hs : off ≠ 0xA00040) (hj : off ≠ 0x700000) (hb : off ≠ 0xB00108) (hc : off ≠ 0xB0010C) : s.PlainWrite off v where
  offset := hn
  ring := by intro r w e k; omega
  message := by omega
  arrays := ⟨by intro r; omega, by intro n; omega⟩
  mail := by omega
  locked := by omega
  value := by omega
  sustain := by omega
  idle := by omega
  noStep := by omega
  debug := by
    intro r k
    have : debugRegion off = none := by
      unfold debugRegion debugBase
      rw [if_neg]
      simp only [Bool.and_eq_true, decide_eq_true_eq]
      omega
    rw [this] at k; cases k
/-- RegisterAccesses: a plain write of an RW register (THERM_SEL), and of a W1C one (HOST_IRQ_STATUS), and one of a hole. -/
theorem witness_plain : up.PlainWrite 0x300020 3 ∧ up.PlainWrite 0x84 1 ∧ up.PlainWrite 0x5000 1 ∧ fieldsAt 0x300020 ≠ [] ∧
    fieldsAt 0x5000 = [] ∧ up.holds 0x300020 = none ∧ up.Masked ∧ up.HostReady :=
  ⟨plain_of (by omega) (by decide) (by omega) (by omega) (by omega) (by omega) (by omega) (by omega) (by omega) (by omega)
     (by omega) (by omega) (by omega),
   plain_of (by omega) (by decide) (by omega) (by omega) (by omega) (by omega) (by omega) (by omega) (by omega) (by omega)
     (by omega) (by omega) (by omega),
   plain_of (by omega) (by decide) (by omega) (by omega) (by omega) (by omega) (by omega) (by omega) (by omega) (by omega)
     (by omega) (by omega) (by omega),
   by decide +kernel, by decide +kernel, by decide +kernel, masked_of (by decide +kernel), up_hostReady⟩
theorem witness_registers : up.turn ctx (.stateQuery ctx) = true ∧ up.turn ctx (.logRead ctx 0 4096 0 false) = true ∧
    up.turn oobCtx (.logRead oobCtx 0 4 0 true) = true ∧ oobCtx.src.oob = true ∧ up.policyBit 0 = true ∧
    0 + 32 * 4096 ≤ up.ringTop ∧ up.ringTop < (up.ringTop - 32) + 32 * 2 ∧
    ((0, up.imageTop) :: up.enabledSpans).any (spansMeet (0, 32 * 4096)) = false ∧
    ((0, ringOn.imageTop) :: ringOn.enabledSpans).any (spansMeet (0, 32 * 4096)) = true ∧
    (Instr.bar0HoleAccess 0xB0C00 (.read 4)).wellFormed = true ∧ up.regRead 0xB0C00 = none ∧ up.holds 0xB0C00 = none ∧
    accessWords 0xB0C00 2 = [] ∧ (Instr.bar0HoleAccess 0xB0C00 (.read 2)).wellFormed = true ∧ up.holds 0x1008000 = some 1 ∧ accessWords 62 4 = [] ∧
    (62 < 0x4000000) ∧
    posted.stalledQ.any Stalled.posted = true ∧ posted.hostUp = true ∧ (0x10000 : Word).toNat % 65536 = 0 ∧
    ({ up with shadowBank := { up.shadowBank with lockPolicy := true } } : State).shadowBank.lockPolicy = true ∧
    up.shadowBank.lockPolicy = false := by decide +kernel


/-! ### Witnesses: a patch and a fuse request, signed with a key made for this test -/

/-- The modulus of the test key. -/
def modulus : List Byte :=
  beBytes 48 0xd8b02376c52ee4698d726b96d8ef63280327aa679b747d2a33268a35a69823b1f0fdf2e8c9031c382e1c8f26254f03ee ++
  beBytes 48 0xe7eb1d6e8424176cfcca698d31650aa998942dcb3c4195edccefae91a420df1914a40cca8d5024e9a770c53aa6d78c0f ++
  beBytes 48 0x00e1910f75eb9108e6ddc79cfd3b15fbf6b81dc32886bb4e013037a91c3087ce57d20251ce8fd52ad32891858e73168c ++
  beBytes 48 0xac3ed3d7a48e47db4b6400a8c4f6b09865fdef659b2c796923466f384ca2feec889381ab1f82325f1836405ef3b28d68 ++
  beBytes 48 0x60dd3329bd63a66e9348ba2da01414c80a1a68abcb912f1559e9cb239ffc41480fd9fdf10cbcfe781f684118f8fb5e19 ++
  beBytes 48 0xe885dd61b21a8cc33ca1b73e55b6613b42a522ecc6fbe960035b8a0a70b8cbc49348d34890673d6574ce281de2a5a1c1 ++
  beBytes 48 0xb81e3f1ff71864809d64677817dafa19cbd60797835585ada4781c1e4305235e99b24234d72a9dd6fe686bd047e26274 ++
  beBytes 48 0x5697d5a790aff2de0c36aae8c95053c6df01e2d8fb7831ac2e68494329f6a311eac16b36e3cb9b9829e051d6e93457bf ++
  beBytes 48 0x1e267cceff2fd21589496cffa0150494a7f4f837e3f7dd2f0581c8cb3d8c3c5c84e933a0886c982cbe3be3040c3ecdfc ++
  beBytes 48 0x082ad89377b16d463bf119ec073e6b89df94e40ea5112ae4c0bdf21707b2ddae7a3ffb24d4c15ed6f974578368e531df ++
  beBytes 32 0xde78e5c38c10812637fef07695e295accb6357c9992e1ac1e5162030fc6f24db
/-- SHA-512 of the modulus and the exponent, which slot 1 holds. -/
def keyHash : List Byte :=
  beBytes 48 0x0b8e1909ab849f159df274736cfd1a4605c2efb67bf7e4a0e50dc8301181f904539d284ba98a2b3ee265fe0c95e48f52 ++
  beBytes 16 0xc3236edf2c8f2de81698abb8fcce0567
/-- The signature and the DIGEST of the patch. -/
def patchSig : List Byte :=
  beBytes 48 0x660efd8a5f98ec82d3771f117cdb64841e667e72b7a32d3446d1f587c0747cefea32e47590d3fc14ac2e653ef823482f ++
  beBytes 48 0x83ead81bc72b675ffa5d324cc0ab41a067875b12ee9b0b5008f049aff12822d93928ed4021a97e85d95408a1a544554f ++
  beBytes 48 0x5a39626812218a7b02f6ea39cfc8e58c2a1ac79e19ebec02919707a5758b4ab0b9e75a0718cf41a02f6491c00787959b ++
  beBytes 48 0xa14b30cb9dd36febf038e05ef40686455a5af9f87e363037c04c6a1d91bab0071ca8b64d970f74952ca30b32c7bb1fc1 ++
  beBytes 48 0xc2b48766158093f0039e1c12a48ccaa935edeb5694f98ce457160c9c92f895216fd594c56cd01f4c89d18d08e2585ea4 ++
  beBytes 48 0x104314c09f2f39493b5aef32559b868b7b6ccf9929081b2572f9086e173b3e2c6c32c104eb699e6f168e80e08c97d73d ++
  beBytes 48 0x033ed68b231363c7ff0a9ff8469e6e37210c8e1bf1b02cf26877c081b5f74e453909ec94a48598cfec7a73d3433db821 ++
  beBytes 48 0x3d3dff6982c0a722b2050c087913e9bac1305c8f49e50e305de609fa11c326c2efa38c4a56589e4abaa03deecf1443b6 ++
  beBytes 48 0xe4e64b29e5a8b039c4c251c0fca2455a5a457ea5dd0e77c6a3ffebabeb63eaa654eb0bc3f1d570524439772d98aa6820 ++
  beBytes 48 0xfb0477bd43798c85179cbcefcf034c98d124084b5567ad36f567af142989115382001a6b56a5ba80b38920bf989aa8f5 ++
  beBytes 32 0x2e906791c618b9681d5da417b448d32eb4c0dfd95632c0b4715f8be71c046386
def patchHash : List Byte :=
  beBytes 48 0xc324358318717f9627106c44c4a96983a487cba9848ab17aac16e4ed42ea2f9a7fe0cc5810225206f10137670d052473 ++
  beBytes 16 0xf82b7bfcd4260c7c0cdbcc568f7da7e0
/-- The signature and the DIGEST of the fuse request. -/
def fuseSig : List Byte :=
  beBytes 48 0x5ce64377406b89f0c7523d508ba2fbf3be5178e4f799d548c22481265db86a94e186f957ada5a7864ba8eba05865700f ++
  beBytes 48 0xc99e59ca906a71350daccb63d9b74bb0e8bb652ca55019a665e706cdc7d3e7ace1f1c6867321083441890e8f5ccf5404 ++
  beBytes 48 0xccece4fdda7c935b0baf6bfab1ba2ccb72ec777485d174c853a09f21ea64d4551e7c5239429fb91251d2eaa0f101beca ++
  beBytes 48 0x40b54234fc2a96bbfb2010d70e186603695fa203c3734cd69e6318251956223d6d58ac97fb2b2529163f608c2dc3e8b2 ++
  beBytes 48 0xd04ce5dbae472e50243fba9fbac68adf3957b9595dbd08e8212b97c6ae53401578c7b39f818f530dc7191c9397da6282 ++
  beBytes 48 0xb293b080a3143a95078344a3494115edf3ae17bca9dbe4234659515f4b1d0623d3600e338ee3722b494fb06914f9b0d7 ++
  beBytes 48 0x6877e40771275fe52ce769293b9d8a873a0ee374142743f78ef2f9100258903268f5def57359637fb657d0376da4a3d5 ++
  beBytes 48 0xaae8d9cc1752725571aebd4ef0b9df452d6d689c244b292b03e8dd64e8dfc6ce36d7aaac4fd250fbdee8feca87ffa286 ++
  beBytes 48 0x2c0ced21d708950a9342051d6bdf5c8ab7bd53ff02211fe36549d898d707c7b57d72868fbd568376178fc6f5aaad1cf1 ++
  beBytes 48 0xc93e4c5e701359e66a643b50c69c9de87ea63fdac66164d78f99504aac67fb6c0ce28cacaf8eaadbd6a7b9aa8943218e ++
  beBytes 32 0x21091b8238d98969207458fb0e261a945e135292a10aeac700611db9ac84433e
def fuseHash : List Byte :=
  beBytes 48 0x84140d75a95176ff7372410773a48cd20c1916a7a1ee285dff4d92e7109464cf60a5e287a862d6c65f71cd5b661f98c6 ++
  beBytes 16 0xe0caf4c9c70ca3a7b1fcfe83691e1119
/-- The signature and the DIGEST of a firmware package. -/
def firmwareSig : List Byte :=
  beBytes 48 0xa8abbef88ae0fb60979482f4e5c5182bd4b2196c1d040190b1c4cb0763069ed74de974ca0519ab486b2bc43fa9234ba6 ++
  beBytes 48 0x3763b0fbb8e58f8eb41fc5ad2aad8ba95b9a65d550699db5bdd7dde7d90332699df7bafad830b0fd8f922ccf92625171 ++
  beBytes 48 0x7d909afdc0f0e9eaf8a94084cb5ed91c3bc2bbfd8d683e4b4747b21bab05d1734ec231c3df1447b5d9711e01af7aba94 ++
  beBytes 48 0x7eb3b0e19ffd955129f00a1092980490a91c2737ea067118a520107ed8b8d1f2cb5ece03c9bd8dfa071945ffd1f73fdf ++
  beBytes 48 0x1a183e52fc808320e5e217df4d7ed4539299fbcf9a51cae498c2f0d3c50262e8ba80ffb80a7bd690c96b6bcfda2dbe6f ++
  beBytes 48 0x7f404747f0865c84f9bc814c69cdcb011776eeb338dcd2c4a7d4ebcb4684482fe30fb93335bb1f907348bd5bfdd4e490 ++
  beBytes 48 0x77065919676565340d7774a7e4e3786f1e222f86354d5e92a5af931a87c6d1b129cd85debe816f86d5249a024cd636e6 ++
  beBytes 48 0x828b4357b403fb0ae6c529fab57970b727920dd06f712508849cb9a6b89bcc6032e809f30a2db59b1600bed07eb7b18e ++
  beBytes 48 0x46d4dd186c2066881188583859cd80683ca4ff0c54492c6f03ed20e08f20b28dffc544ce302e2fe77c6d0295e3be95ef ++
  beBytes 48 0x19df298b30a08cf47a41d2d5ef019d0bce485c25717eed0afbe3ad2d01ad5ddaa5d9feff6789c0d8eac3e457cbbd9290 ++
  beBytes 32 0xa4f16f171560f9bf4ce661e56ce9390a67af86b56c49242ccaa0ccf230ebd0c3
def firmwareHash : List Byte :=
  beBytes 48 0x0b6cbac838dfe7f47ea1bd0df00ec282fdf45510c92161072ccfb84035390c4da743d9c3b954eaa1b0f86fc9861b23cc ++
  beBytes 16 0x6c8667ab232c11c686432ebb5c8c3f27
/-- A section of n records (R366). -/
def secBytes (t n : Nat) (body : List Byte) : List Byte :=
  leBytes 4 t ++ (leBytes 4 (16 + body.length) ++ (leBytes 8 n ++ body))
/-- A patch that gives region 0 the record it has. -/
def patchBody : List Byte := secBytes 1 2 (List.replicate 64 0 ++ leBytes 16 0x600)
/-- A request that raises the firmware count to 5. -/
def fuseBody : List Byte := secBytes 1 1 (leBytes 80 0x503)
/-- Header, signature and key (R364, R456). -/
def staged (magic kind serial : Nat) (hash sig body : List Byte) : List Byte :=
  leBytes 4 magic ++ (leBytes 4 1 ++ (leBytes 4 0x40 ++ ([0x0F, BitVec.ofNat 8 kind, 1, 0] ++
    (leBytes 8 (0x700 + body.length) ++ (leBytes 8 1 ++ (leBytes 32 serial ++ (hash ++ (List.replicate 128 0 ++
    (sig ++ (modulus ++ (leBytes 512 65537 ++ body)))))))))))
def keyed (bs : List Byte) : State := { opened 0 [(1, 0)] with
  shadowBank := { up.shadowBank with slot1 := some (BitVec.ofNat 512 (leNat keyHash)), serial := 5 }
  mem := memWrite [] 0 bs
  image := some { Image.blank (parseHeader []) with
    regions := [⟨0, 3, 0, 0, 0, [0, 0, 0, 0]⟩], programs := [⟨⟨0, 0, 0⟩, 0, [0]⟩] } }
/-- Transactions: a region patch is accepted and applies. -/
theorem witness_patch : let s := keyed (staged 0x444E4C50 1 0 patchHash patchSig patchBody)
    s.commitBar 0 false = none ∧ s.commitBad 0 = none ∧ s.get .FUSE_REQ_CTRL_BUSY = 0 ∧ (s.txn 0).find 1 = some (0, 0) ∧
    (match s.judgePatch 0 (s.txn 0).regions with
      | (u, .ok (_, new, _)) => (u.raiseRegions new).clocksRun new
      | (_, .error _) => false) = true := by decide +kernel
/-- StartupFusesAndTest: a fuse request whose checks all pass. -/
theorem witness_fuseRequest : (match ((keyed (staged 0x51464C50 0 5 fuseHash fuseSig fuseBody)).fuseRead 0).2 with
    | .ok ops => ops = [⟨3, 5, List.replicate 64 0⟩]
    | .error _ => false) = true := by decide +kernel
/-- StartupFusesAndTest, OutOfBandServices: a firmware package that verifies, and one that does not. -/
def package (body : List Byte) : List Byte :=
  leBytes 4 0x57464C50 ++ (leBytes 4 1 ++ (leBytes 4 0x40 ++ (leBytes 4 0x0F ++ (leBytes 8 0x710 ++ (leBytes 40 0 ++
    (firmwareHash ++ (List.replicate 128 0 ++ (firmwareSig ++ (modulus ++ (leBytes 512 65537 ++ body))))))))))
def vendor : FuseBank := { FuseBank.factory with slot0 := some (BitVec.ofNat 512 (leNat keyHash)) }
def flashed (body : List Byte) : State := { State.reset with
  power := { State.reset.power with goodFeeds := true }, fuses := ⟨vendor, vendor⟩, shadowBank := vendor
  flash := { State.reset.flash with fwA := some (package body) } }
theorem witness_firmware : (flashed (List.replicate 16 0)).firmwareGood (package (List.replicate 16 0)) = true ∧
    (flashed (List.replicate 16 1)).firmwareGood (package (List.replicate 16 1)) = false ∧
    (flashed []).flash.fwA = some (package []) ∧ (flashed []).flash.fwB = none ∧ (flashed []).shadowBank.lifecycle ≠ 0 ∧
    (flashed []).power.goodFeeds = true ∧ (flashed []).power.inReset = true ∧
    ({ flashed [] with firmware := some (false, 0, 0) } : State).answers = true := by decide +kernel


/-! ### Witnesses: power, heat, start-up, securing state -/

/-- FeedsAndBus: readings at the ends of each range, feeds due and not, the bus above and below each voltage. -/
def feedAt (volts : Int) (c : FeedCtr) (st : Nat) : State :=
  { up.puts 0 [(.PWR_FEED_A_VOLTS, (BitVec.ofInt 16 volts).toNat), (.PWR_FEED_STAT_A_STATE, st)] with power := { up.power with feedA := c } }
def powered (f : PowerState → PowerState) : State := { up with power := f up.power }
theorem witness_feeds : (feedAt (-101) {} 0).feedVolts .a < -100 ∧ (feedAt (-101) {} 0).feedDue .a = some 2 ∧
    (feedAt (-100) { high := 2 } 0).feedDue .a = some 3 ∧ (feedAt (-100) { low := 10 } 0).feedDue .a = some 1 ∧
    (feedAt 5400 {} 0).feedDue .a = none ∧ (feedAt 5400 {} 0).get (feedRegs .a).state = 0 ∧
    (feedAt 4000 {} 1).get (feedRegs .a).state ≠ 0 ∧ (feedAt 4000 {} 1).feedVolts .a = 4000 ∧
    ((feedAt 5800 { latched := true } 1).feedCtr .a).latched = true ∧ ((feedAt 4000 {} 1).feedCtr .a).latched = false ∧
    9 ≤ ((feedAt 3999 { range := 9 } 0).feedCtr .a).range ∧ (feedAt 3999 {} 0).get (feedRegs .a).range = 0 := by decide +kernel
theorem witness_bus : State.reset.power.inReset = true ∧ State.reset.power.goodFeeds = false ∧
    (powered (fun p => { p with inReset := true, goodFeeds := true })).power.goodFeeds = true ∧
    (feedAt (-101) {} 1).feedDue .a = some 2 ∧ (feedAt (-101) {} 1).get (feedRegs .a).state ≠ 0 ∧
    (up.put .PWR_HOLDUP_FITTED 1).get .PWR_HOLDUP_FITTED ≠ 0 ∧ (up.put .PWR_HOLDUP_FITTED 0).get .PWR_HOLDUP_FITTED = 0 ∧
    (up.put .PWR_HOLDUP_JOULES 1).get .PWR_HOLDUP_JOULES ≠ 0 ∧ up.get .PWR_HOLDUP_JOULES = 0 ∧ (powered (fun p => { p with inReset := false })).power.inReset = false ∧
    (up.put .PWR_FEED_STAT_SAG 1).get .PWR_FEED_STAT_SAG ≠ 0 ∧ up.get .PWR_FEED_STAT_SAG = 0 ∧
    (up.put .PWR_HOLDUP_ARMED 1).get .PWR_HOLDUP_ARMED ≠ 0 ∧ (up.put .PWR_HOLDUP_ARMED 0).get .PWR_HOLDUP_ARMED = 0 ∧
    (up.put .PWR_HOLDUP_ACTIVE 1).get .PWR_HOLDUP_ACTIVE ≠ 0 ∧ up.get .PWR_HOLDUP_ACTIVE = 0 ∧
    (let s := (feedAt 5400 {} 0); let t : State := { s with power := { s.power with inReset := true, bus := 4700 } }
     t.power.tripLatched = false ∧ t.feedConnected .a = true) ∧
    (let s := (powered (fun p => { p with bus := 4700 })).put .PWR_HOLDUP_ARMED 1
     s.get .PWR_HOLDUP_ARMED ≠ 0 ∧ s.get .PWR_HOLDUP_ACTIVE = 0 ∧ 4700 ≤ s.power.bus) ∧ up.get .PWR_CAP_LEVEL ≤ 15 := by decide +kernel
/-- HeatAndClocks: a region with and without its clock, shorted, unlocked; the sensors before and after the trip. -/
def heated (hot level : Nat) : State := (up.puts 0 [(.THERM_REGION_VALID, 1), (.THERM_REGION_LEVEL, level)]).setRegion 0
  { lockLost := true, hot }
theorem witness_heat : up.get .PWR_LADDER_MODULE ≤ 4 ∧ up.get .PWR_REGION_SHORT 0 = 0 ∧ up.get .PWR_REGION_STATE 0 ≠ 4 ∧
    (up.put .PWR_REGION_SHORT 1 399).get .PWR_REGION_SHORT 399 ≠ 0 ∧ (up.put .PWR_REGION_STATE 4 399).get .PWR_REGION_STATE 399 = 4 ∧
    up.get .PWR_REGION_CLK 0 ≠ 0 ∧ up.get .PWR_REGION_CLK 399 = 0 ∧ ((heated 0 0).region 0).lockLost = true ∧
    (up.region 0).lockLost = false ∧ up.power.tripLatched = false ∧ up.get .THERM_REGION_VALID 0 = 0 ∧
    (heated 1 12).get .THERM_REGION_VALID 0 ≠ 0 ∧ (heated 1 12).get .THERM_REGION_LEVEL 0 = 12 ∧
    1 ≤ ((heated 1 0).region 0).hot ∧ (heated 1 0).get .PWR_REGION_TRIPPED 0 = 0 ∧ ((95 * 16 : Nat) : Int) ≤ (1520#16).toInt ∧
    (powered (fun p => { p with tripLatched := true })).power.tripLatched = true := by decide +kernel
/-- CoolantWarningsAndCheck: the counts one before each threshold; an evaluation that is due; a restart. -/
def cooled (st repeats : Nat) (c : CoolState) : State :=
  { up.puts 0 [(.RES_COOL_CHECK_STATE, st), (.RES_COOL_CHECK_REPEATS, repeats)] with cool := c }
theorem witness_coolant : (cooled 1 0 { checkOn := true, flowFor := 3000 }).get .RES_COOL_CHECK_STATE = 1 ∧
    (cooled 1 6 { checkOn := true, flowFor := 9000 }).get .RES_COOL_CHECK_REPEATS = 6 ∧
    (cooled 4 0 { lowFlow := 500 }).get .RES_COOL_CHECK_STATE = 4 ∧ (cooled 2 0 {}).get .RES_COOL_CHECK_STATE = 2 ∧
    (cooled 1 0 { high := 4, bad := 99, checkOn := true }).get .THERM_FLOW_OUTLET_WARN = 0 ∧
    (cooled 1 0 { high := 4, bad := 99, checkOn := true }).get .THERM_FLOW_RANGE_WARN = 0 ∧
    (4 : BitVec 16).toInt = 4 ∧ (0xFFFC : BitVec 16).toInt = -4 := by decide +kernel
/-- One sample in the 10 s, whose difference is the mean. -/
theorem witness_eval (d : Int) :
    let c := (cooled 1 0 { checkOn := true, flowFor := 3000, deltas := [d] }).cool
    (c.deltas.drop (c.flowFor - 3000)).take 1000 = [d] ∧ [d].sum < (d + 1) * 1 ∧ (d - 1) * 1 < [d].sum := by
  refine ⟨?_, ?_, ?_⟩ <;> simp [cooled]
/-- StartupFusesAndTest: fuses that are BLANK and not, firmware found and not, an unaligned request, one that fails, one
under way. -/
def starting (life : BitVec 2) : State := { State.reset with
  power := { State.reset.power with goodFeeds := true }
  fuses := ⟨{ FuseBank.factory with lifecycle := life }, { FuseBank.factory with lifecycle := life }⟩ }
def busyFuses (ops : List FuseOp) : State := { up.put .FUSE_REQ_CTRL_BUSY 1 with fuseOps := ops }
theorem witness_startup : (starting 2).power.goodFeeds = true ∧ (starting 2).power.inReset = true ∧
    (starting 0).fuses.read.lifecycle = 0 ∧ (starting 2).fuses.read.lifecycle ≠ 0 ∧ (starting 2).flash.fwA = none ∧
    (starting 2).flash.fwB = none ∧ (starting 2).fuses.read.fwCount ≤ 0 ∧ (starting 2).fuses.read.slot0.isSome = true ∧ State.reset.power.goodFeeds = false ∧
    (1 : Word).getLsbD 0 = true ∧ up.get .FUSE_REQ_CTRL_BUSY = 0 ∧
    (match (up.fuseRead 0).2 with
      | .ok _ => (0, 0)
      | .error e => e) = (1, 0) ∧ (up.put .FUSE_REQ_LO_ADDR 4096).get .FUSE_REQ_LO_ADDR % 4096 = 0 ∧
    (busyFuses [⟨3, 127, []⟩]).get .FUSE_REQ_CTRL_BUSY ≠ 0 ∧ (busyFuses [⟨3, 127, []⟩]).fuses.read.fwCount.toNat < 127 ∧
    ({ busyFuses [⟨2, 2, []⟩] with fuses := (starting 1).fuses } : State).fuses.read.lifecycle = 1 ∧
    0 < (busyFuses [⟨3, 127, []⟩]).fuseOps.length ∧ up.feature 1 = false ∧
    ({ up with shadowBank := { up.shadowBank with enables := 2 } } : State).feature 1 = true ∧ up.firmware.isSome = true ∧
    State.reset.firmware = none := by decide +kernel
/-- DrainLife: a drain that is due in its slot, a deferred one at the quiet point, one being read, one with an error in a
UNIQUE range, one that was read. -/
def pairedRun : State := linkedTo (running.puts 0 [(.RES_PAIR_IN_EFFECT, 1), (.RES_PAIR_PARTNER_ID, 7), (.RES_STEP_STATE_STABLE, 1)]) 7
def slotOpen : State := { pairedRun with scheduled := true, barriers := [(0, { inStep := 1 })] }
def draining (read : Bool) : State := { pairedRun with drain := some { drain0 with readDone := read } }
theorem witness_drain : slotOpen.scheduled = true ∧ slotOpen.replies = [] ∧ ({ slotOpen with replies := [drain0] } : State).replies = drain0 :: [] ∧ slotOpen.job = true ∧ slotOpen.get .RES_STEP_STATE_STABLE ≠ 0 ∧
    slotOpen.drain = none ∧ slotOpen.slotReached = true ∧ slotOpen.partnerPorts = [3] ∧ slotOpen.get .RES_PAIR_IN_EFFECT ≠ 0 ∧
    ({ slotOpen with barriers := [] } : State).slotReached = false ∧
    ({ atGate with due := true } : State).commitWaits = false ∧ atGate.quiet = some quiet0 ∧ atGate.areaWaits = false ∧
    (draining false).nextRead = some drain0 ∧ (draining true).nextRead = none ∧
    (∀ d ∈ (draining true).drains, d.readDone = true) ∧ (draining false).activities = [] ∧ (draining false).drain = some drain0 ∧ (draining false).bad = [] ∧
    (draining false).lostStacks = 0 ∧ (draining true).activities = [] ∧ (draining true).replies = [] ∧
    { draining false with tables := [⟨3, 0, 0, 1, 0, 0⟩] }.uniqueRanges = [(0, 4096)] ∧ (draining false).snoopWait = [] ∧
    ({ draining false with tables := [⟨3, 0, 0, 1, 0, 0⟩], bad := [(2 ^ 42, [1, 2])] } : State).inUnique (2 ^ 42) = true := by
  decide +kernel
/-- HostedCopies: an area with room for a copy and its data; slots empty, with the older copy first and second. -/
def hosting (l : SMap CopyInfo) : State := { (up.puts 0 [(.MNT_HOST_SRC_VALID, 1), (.MNT_HOST_SRC_MODULE_ID, 6),
    (.MNT_HOST_UNITS_UNITS, 4)]) with hosted := l }
theorem witness_hosted : (hosting []).get .MNT_HOST_SRC_VALID ≠ 0 ∧ (hosting []).get .MNT_HOST_SRC_MODULE_ID = copy0.sourceId.toNat ∧
    (hosting []).ringAsleep = false ∧ 4096 + (List.replicate 4096 (0 : Byte)).length ≤ ((hosting []).copySlot 0).2 ∧
    (hosting []).hostedCopy 0 = none ∧ (hosting [(0, copy0)]).hostedCopy 0 = some copy0 ∧
    (hosting [(0, { copy0 with counter := 2 }), (1, copy0)]).hostedCopy 1 = some copy0 ∧ (hosting []).snoop = [] ∧
    (hosting []).snoopWait = [] ∧ up.get .MNT_HOST_SRC_VALID = 0 ∧ (0x8000 : Word).getLsbD 15 = true ∧
    (copy0.ranges.map (fun r => r.2 * 4096)).sum = 4096 ∧ ((hosting []).copySlot 0).2 < 4096 + 3 * 4096 ∧
    ({ hosting [] with regs := asleep.regs } : State).ringAsleep = true ∧
    ((hosting []).put .MNT_HOST_BASE_LO_ADDR 4096).hostedPlaced = true ∧
    ((hosting []).put .MNT_HOST_BASE_LO_ADDR 1).hostedPlaced = false ∧
    ((hosting []).put .MNT_HOST_BASE_LO_ADDR 4096).hostedSpan ≠ (hosting []).hostedSpan := by decide +kernel
/-- SensingAndTags: the pin used and not, motion at and below the threshold, a verified pairing, the last second of an hour. -/
def sensing (x : SenseState) : State := { running.puts 0 [(.MNT_MOTION_CFG_THRESH, 50), (.MNT_MOTION_CFG_SUSTAIN, 2)] with sense := x }
def verified : State := pairedRun.put .RES_PAIR_VERIFIED 1
theorem witness_sensing : (sensing {}).sense.pinUsed = false ∧ (sensing { pinUsed := true }).sense.pinUsed = true ∧
    (sensing { pin := true }).sense.pin = true ∧ (sensing { pin := true }).get .RES_MGMT_SN_HELD = 0 ∧
    ((sensing { pin := true }).put .RES_MGMT_SN_HELD 1).get .RES_MGMT_SN_HELD ≠ 0 ∧
    (sensing { pinUsed := true, pinFc := 1 }).fc < 1 + 140000 ∧
    140000 ≤ ({ sensing { pinUsed := true } with fc := 140000 } : State).fc ∧
    (linkedTo (verified.puts 0 [(.MNT_HOST_SRC_VALID, 1), (.MNT_HOST_SRC_MODULE_ID, 7)]) 7).portsTo 7 = [3] ∧ (sensing {}).get .MNT_MOTION_CFG_THRESH = 50 ∧
    (sensing { above := 1 }).get .MNT_MOTION_CFG_SUSTAIN ≤ (sensing { above := 1 }).sense.above + 1 ∧
    ¬ (sensing {}).get .MNT_MOTION_CFG_SUSTAIN ≤ (sensing {}).sense.above + 1 ∧ (sensing { episode := true, quiet := 999 }).sense.quiet = 999 ∧
    (let s := pairedRun.puts 0 [(.RES_STEP_STATE_STABLE, 0), (.RES_STEP_STATE_PHASE, 1)]
     s.job = true ∧ s.get .RES_PAIR_IN_EFFECT ≠ 0 ∧ s.get .RES_STEP_STATE_PHASE ≠ 0 ∧ s.get .RES_STEP_STATE_STABLE = 0) ∧
    verified.get .RES_PAIR_IN_EFFECT ≠ 0 ∧ verified.get .RES_PAIR_VERIFIED ≠ 0 ∧ verified.partnerPorts ≠ [] ∧
    4 ≤ verified.get .RES_START_STATE_STEP ∧ State.reset.get .RES_START_STATE_STEP < 4 ∧
    (5 : BitVec 4).toNat ≠ verified.get .RES_FEED_TAGS_FEED_A_TAG ∧ up.historySecs < 3599 ∧
    3599 ≤ ({ up with historySecs := 3599 } : State).historySecs := by decide +kernel
theorem verified_hostReady : verified.HostReady := by unfold State.HostReady; decide +kernel

/-! ### Witnesses: every command -/

/-- StepKeepsInvariant, StepRaisesFusesOnly, CommandsLeaveQueueAndClock: states that meet the invariant, and a step from
each that answers a next state. -/
theorem witness_step : let c : Instr := .faultHistoryUpdate
    ({ running with pending := [c] } : State).Inv ∧
    (∃ t, step { running with pending := [c] } = .next t) ∧ (∃ t, exec c running = .next t) ∧
    (∃ t, step State.reset = .next t) :=
  ⟨⟨by decide +kernel, masked_of (by decide +kernel)⟩, ⟨_, rfl⟩, ⟨_, rfl⟩, ⟨_, rfl⟩⟩

end Sys2Proof.Tests
end

section
/-!
What a trap leaves (R115): the stop of the job with its commits, discarded work and events (R384, R484) changes no core's
registers and tables and nothing a trap records, and memory only where a commit waits for that stop.
-/
namespace Sys2Proof.Machine

namespace State

variable {s0 s t : State}

/-! ### Operations outside the cores -/

/-- The fields of a core that its trap sets for good. -/
def trapFields : List Field := [.CORE_TRAP_CAUSE, .CORE_TRAP_SLOT, .CORE_TRAP_PC_PC, .CORE_STATUS_STATE]

/-- From s to t the cores and their trap fields stay. -/
structure LeavesCores (s t : State) : Prop where
  cores : t.cores = s.cores
  word : ∀ f ∈ trapFields, ∀ i, t.word f i = s.word f i

/-- From s to t memory and the states of the transactions stay too. -/
structure LeavesMem (s t : State) : Prop extends s.LeavesCores t where
  mem : t.mem = s.mem
  txn : ∀ sc, t.get .TXN_STATE_STATE sc = s.get .TXN_STATE_STATE sc

theorem LeavesCores.refl (s : State) : s.LeavesCores s := ⟨rfl, fun _ _ _ => rfl⟩

theorem LeavesMem.refl (s : State) : s.LeavesMem s := ⟨.refl s, rfl, fun _ => rfl⟩

theorem LeavesCores.trans {a b c : State} (h : a.LeavesCores b) (k : b.LeavesCores c) : a.LeavesCores c :=
  ⟨k.cores.trans h.cores, fun f hf i => (k.word f hf i).trans (h.word f hf i)⟩

theorem LeavesMem.trans {a b c : State} (h : a.LeavesMem b) (k : b.LeavesMem c) : a.LeavesMem c :=
  ⟨h.toLeavesCores.trans k.toLeavesCores, k.mem.trans h.mem, fun sc => (k.txn sc).trans (h.txn sc)⟩

/-- A step that reaches neither the cores nor the registers. -/
theorem LeavesCores.other (h : s0.LeavesCores s) (hc : t.cores = s.cores) (hr : t.regs = s.regs) : s0.LeavesCores t :=
  h.trans ⟨hc, fun _ _ _ => by rw [State.word, State.word, hr]⟩

/-- A step that reaches neither the cores, nor the registers, nor memory. -/
theorem LeavesMem.other (h : s0.LeavesMem s) (hc : t.cores = s.cores) (hr : t.regs = s.regs) (hm : t.mem = s.mem) :
    s0.LeavesMem t :=
  h.trans ⟨(LeavesCores.refl s).other hc hr, hm, fun _ => by rw [State.get, State.get, State.word, State.word, hr]⟩

theorem LeavesCores.ite {c : Prop} [Decidable c] (h : s0.LeavesCores s) (k : s0.LeavesCores t) :
    s0.LeavesCores (if c then s else t) := by
  split <;> assumption

theorem LeavesMem.ite {c : Prop} [Decidable c] (h : s0.LeavesMem s) (k : s0.LeavesMem t) :
    s0.LeavesMem (if c then s else t) := by
  split <;> assumption

theorem LeavesCores.foldl {α : Type} {f : State → α → State} {xs : List α} (h : s0.LeavesCores s)
    (k : ∀ y x, s0.LeavesCores y → s0.LeavesCores (f y x)) : s0.LeavesCores (xs.foldl f s) :=
  List.foldlRecOn xs f h fun y hy x _ => k y x hy

/-! ### Register fields, interrupts and the log -/

theorem LeavesCores.put (h : s0.LeavesCores s) {f : Field} (hf : f ∉ trapFields) {v i : Nat} : s0.LeavesCores (s.put f v i) :=
  h.trans ⟨rfl, fun _ hg j => s.word_putWord_field (ne_of_mem_of_not_mem hg hf).symm _ i j⟩

theorem LeavesCores.puts (h : s0.LeavesCores s) {i : Nat} {fs : List (Field × Nat)}
    (hf : ∀ f ∈ fs.map Prod.fst, f ∉ trapFields) : s0.LeavesCores (s.puts i fs) :=
  List.foldlRecOn fs _ h fun _ hy _ hx => hy.put (hf _ (List.mem_map_of_mem hx))

theorem LeavesMem.putWord (h : s0.LeavesMem s) {f : Field} (hf : f ∉ .TXN_STATE_STATE :: trapFields) {v : Word} {i : Nat} :
    s0.LeavesMem (s.putWord f v i) := by
  rw [List.mem_cons, not_or] at hf
  exact h.trans ⟨⟨rfl, fun _ hg j => s.word_putWord_field (ne_of_mem_of_not_mem hg hf.2).symm _ i j⟩, rfl,
    fun sc => s.get_putWord_field hf.1 _ i sc⟩

theorem LeavesMem.put (h : s0.LeavesMem s) {f : Field} (hf : f ∉ .TXN_STATE_STATE :: trapFields) {v i : Nat} :
    s0.LeavesMem (s.put f v i) := h.putWord hf

theorem LeavesMem.puts (h : s0.LeavesMem s) {i : Nat} {fs : List (Field × Nat)}
    (hf : ∀ f ∈ fs.map Prod.fst, f ∉ .TXN_STATE_STATE :: trapFields) : s0.LeavesMem (s.puts i fs) :=
  List.foldlRecOn fs _ h fun _ hy _ hx => hy.put (hf _ (List.mem_map_of_mem hx))

theorem LeavesMem.raise (h : s0.LeavesMem s) {src : Nat} : s0.LeavesMem (s.raise src) := by
  have hsend {x : State} (hx : s0.LeavesMem x) : s0.LeavesMem (x.msixSend src) :=
    .ite (hx.other rfl rfl rfl) (hx.other rfl rfl rfl)
  exact .ite h (.ite (h.putWord (by decide)) (hsend (h.putWord (by decide))))

theorem LeavesMem.event (h : s0.LeavesMem s) {code cls loc detail value : Nat} :
    s0.LeavesMem (s.event code cls loc detail value) := by
  unfold State.event
  extract_lets e unread s1 s2
  have h1 : s0.LeavesMem s1 := by
    dsimp only [s1]
    cases unread
    · exact h
    · exact h.put (by decide)
  have h2 : s0.LeavesMem s2 := h1.other rfl rfl rfl
  exact .ite h2.raise h2

theorem LeavesMem.alert (h : s0.LeavesMem s) : s0.LeavesMem s.alert := .ite (h.put (by decide)) h

theorem LeavesCores.thenMem (h : s0.LeavesCores s) (k : s.LeavesMem t) : s0.LeavesCores t := h.trans k.toLeavesCores

theorem LeavesCores.event (h : s0.LeavesCores s) {code cls loc detail value : Nat} :
    s0.LeavesCores (s.event code cls loc detail value) := h.thenMem (LeavesMem.refl s).event

/-! ### Memory and its errors -/

theorem LeavesCores.correct (h : s0.LeavesCores s) {k pos : Nat} : s0.LeavesCores (s.correct k pos) := by
  unfold State.correct
  split
  extract_lets e first held ovf e' s1 s2
  have h1 : s0.LeavesCores s1 := (h.other rfl rfl : s0.LeavesCores (s.setUnit _ e')).put (by decide)
  have h2 : s0.LeavesCores s2 := .ite h1.event h1
  exact .ite h2.event h2

theorem LeavesCores.uncorrectable (h : s0.LeavesCores s) {k : Nat} : s0.LeavesCores (s.uncorrectable k) := by
  unfold State.uncorrectable
  split
  extract_lets e s1 s2
  have h1 : s0.LeavesCores s1 := (h.other rfl rfl : s0.LeavesCores (s.setUnit _ _)).put (by decide)
  have h2 : s0.LeavesCores s2 := h1.other rfl rfl
  exact h2.thenMem (LeavesMem.refl s2).event.raise.alert

theorem LeavesCores.meet (h : s0.LeavesCores s) {k : Nat} : s0.LeavesCores (s.meet k).1 := by
  have hfree (n : Nat) : s0.LeavesCores { s with free := n } := h.other rfl rfl
  unfold State.meet
  split
  · exact h.uncorrectable
  · split
    · exact h
    · exact h.correct
    · exact h.uncorrectable
    · dsimp only [State.fresh]
      split
      · exact (hfree _).uncorrectable
      · split
        · exact (hfree _).correct
        · exact hfree _

theorem LeavesCores.closeWindows (h : s0.LeavesCores s) {a n : Nat} : s0.LeavesCores (s.closeWindows a n) :=
  .ite h (h.other rfl rfl)

theorem LeavesCores.storeNow (h : s0.LeavesCores s) {a : Nat} {bs : List Byte} : s0.LeavesCores (s.storeNow a bs) := by
  have good {x : State} (hx : s0.LeavesCores x) (a : Nat) (bs : List Byte) : s0.LeavesCores (x.storeGood a bs) := by
    unfold State.storeGood
    refine LeavesCores.closeWindows ?_
    exact hx.other rfl rfl
  exact .ite (good h _ _) (h.foldl fun _ _ hy => .ite hy.uncorrectable (good hy _ _))

theorem LeavesCores.store (h : s0.LeavesCores s) {a : Nat} {bs : List Byte} : s0.LeavesCores (s.store a bs) :=
  .ite h.storeNow (h.foldl fun _ _ hy => .ite (hy.other rfl rfl) hy.storeNow)

theorem LeavesCores.mergeReads (h : s0.LeavesCores s) {ks : List Nat} : s0.LeavesCores (s.mergeReads ks).1 := by
  refine List.foldlRecOn (motive := fun y : State × List Nat => s0.LeavesCores y.1) ks _ h fun y hy k _ => ?_
  have hm := hy.meet (k := k)
  dsimp only
  split
  · exact hm
  · exact hm
  · exact hm.other rfl rfl

theorem LeavesCores.writePhys (h : s0.LeavesCores s) {a : Nat} {bs : List Byte} : s0.LeavesCores (s.writePhys a bs).1 := by
  have hr := h.mergeReads (ks := s.metByWrite a bs.length)
  unfold State.writePhys
  dsimp only
  split
  · exact hr.store
  · exact hr.foldl fun _ _ hy => .ite hy hy.store

/-! ### Transactions -/

theorem LeavesCores.tagChanged (h : s0.LeavesCores s) {t n : Nat} : s0.LeavesCores (s.tagChanged t n) :=
  .ite h (.ite h.writePhys (.ite (.ite h.store h.store) (h.other rfl rfl)))

theorem LeavesCores.applyNumItem (h : s0.LeavesCores s) {k : Word} {v : Nat} : s0.LeavesCores (s.applyNumItem k v) := by
  have ht (x : TagState) : s0.LeavesCores (s.setTag (keyIndex k) x) := h.other rfl rfl
  unfold State.applyNumItem
  dsimp only
  split
  case h_1 | h_2 | h_3 | h_4 | h_5 | h_6 | h_7 | h_8 => exact h.put (by decide)
  case h_9 | h_13 => exact ht _
  case h_10 | h_11 | h_12 => exact (ht _).tagChanged
  case h_14 => exact h

theorem LeavesCores.setProfile (h : s0.LeavesCores s) {p : Nat} : s0.LeavesCores (s.setProfile p) := by
  unfold State.setProfile
  extract_lets s1 s2 g
  have h1 : s0.LeavesCores s1 := h.put (by decide)
  have hcap {w : Nat} : s0.LeavesCores (s1.setCap w) := .ite ((h1.put (by decide)).put (by decide)) (h1.put (by decide))
  have h2 : s0.LeavesCores s2 := .ite h1 hcap
  unfold State.setScrub
  exact ((((h2.put (by decide)).put (by decide)).put (by decide)).put (by decide)).put (by decide)

theorem LeavesCores.endTxn (h : s0.LeavesCores s) {sc outcome code item : Nat} :
    s0.LeavesCores (s.endTxn sc outcome code item) := by
  have h1 : s0.LeavesCores { s with txns := mset {} s.txns sc {} } := h.other rfl rfl
  exact (h1.puts (by simp [trapFields])).event

theorem LeavesCores.beginPairing (h : s0.LeavesCores s) {c : Option Ctx} {m : Nat} {commit : Bool} :
    s0.LeavesCores (s.beginPairing c m commit) := .ite (h.other rfl rfl) (h.other rfl rfl)

theorem LeavesCores.applyTxn (h : s0.LeavesCores s) {sc : Nat} : s0.LeavesCores (s.applyTxn sc) := by
  unfold State.applyTxn
  split
  · -- barred at apply (R385)
    refine LeavesCores.endTxn ?_
    split
    · exact h.puts (by simp [trapFields])
    · exact h
  · extract_lets t profile power partner
    split
    · -- power
      have h1 : s0.LeavesCores profile := by
        dsimp only [profile]
        split
        · exact .ite h h.setProfile
        · exact h
      have h2 : s0.LeavesCores power := by
        dsimp only [power]
        split
        · exact h1.put (by decide)
        · exact h1
      exact h2.endTxn
    · -- numerics
      exact (h.foldl fun _ _ hy => hy.applyNumItem).endTxn
    · -- partner
      have h1 : s0.LeavesCores partner := by
        dsimp only [partner]
        split
        · exact h
        · split
          · exact h.put (by decide)
          · exact h
      split
      · exact h1.endTxn
      · split
        · exact (h1.put (by decide)).event.endTxn
        · exact (h1.put (by decide)).beginPairing
    · exact h

theorem LeavesCores.applyPending (h : s0.LeavesCores s) : s0.LeavesCores s.applyPending :=
  h.foldl fun _ _ hy => .ite (.ite (hy.applyTxn.thenMem (LeavesMem.refl _).raise) hy.applyTxn) hy

/-! ### The stop of the job -/

/-- No commit waits for the stop of the job (R384). -/
def NoCommit (s : State) : Prop := ∀ sc : Fin 4, s.get .TXN_STATE_STATE sc < 2

/-- With no commit waiting, the stop applies none. -/
theorem applyPending_of_noCommit (h : s.NoCommit) : s.applyPending = s := by
  have h1 : ¬ 2 ≤ s.get .TXN_STATE_STATE 1 := Nat.not_le.mpr (h 1)
  have h2 : ¬ 2 ≤ s.get .TXN_STATE_STATE 2 := Nat.not_le.mpr (h 2)
  have h3 : ¬ 2 ≤ s.get .TXN_STATE_STATE 3 := Nat.not_le.mpr (h 3)
  simp [State.applyPending, applyWhere, each, h1, h2, h3]

/-- What the stop of the job leaves from s to t: of a core all but its queues of stream and array work, what its trap
recorded, the state "trapped", and, where no commit waits, memory. -/
structure Stops (s t : State) : Prop where
  core : ∀ p, ∃ q x, t.core p = { s.core p with chans := q, arr := x }
  word : ∀ f ∈ [Field.CORE_TRAP_CAUSE, .CORE_TRAP_SLOT, .CORE_TRAP_PC_PC], ∀ i, t.word f i = s.word f i
  trapped : ∀ p, s.get .CORE_STATUS_STATE p = 3 → t.get .CORE_STATUS_STATE p = 3
  mem : s.NoCommit → t.NoCommit ∧ t.mem = s.mem

theorem Stops.refl (s : State) : s.Stops s := ⟨fun _ => ⟨_, _, rfl⟩, fun _ _ _ => rfl, fun _ => id, fun h => ⟨h, rfl⟩⟩

theorem Stops.trans {a b c : State} (h : a.Stops b) (k : b.Stops c) : a.Stops c where
  core p := by
    obtain ⟨q, x, e⟩ := h.core p
    obtain ⟨q', x', e'⟩ := k.core p
    exact ⟨q', x', by rw [e', e]⟩
  word f hf i := (k.word f hf i).trans (h.word f hf i)
  trapped p hp := k.trapped p (h.trapped p hp)
  mem hn := ⟨(k.mem (h.mem hn).1).1, (k.mem (h.mem hn).1).2.trans (h.mem hn).2⟩

theorem LeavesCores.core (h : s.LeavesCores t) (p : Nat) : t.core p = s.core p := by rw [State.core, State.core, h.cores]

/-- Operations outside the cores keep what the stop leaves, if they keep memory where no commit waits. -/
theorem LeavesCores.stops (h : s.LeavesCores t) (hm : s.NoCommit → t.NoCommit ∧ t.mem = s.mem) : s.Stops t where
  core p := ⟨_, _, h.core p⟩
  word f hf i := h.word f (List.mem_append_left [Field.CORE_STATUS_STATE] hf) i
  trapped p hp := by rw [get_eq, h.word _ (by decide), ← get_eq, hp]
  mem := hm

theorem LeavesMem.stops (h : s.LeavesMem t) : s.Stops t :=
  h.toLeavesCores.stops fun hn => ⟨fun sc => (h.txn sc).trans_lt (hn sc), h.mem⟩

theorem Stops.thenMem (h : s0.Stops s) (k : s.LeavesMem t) : s0.Stops t := h.trans k.stops

theorem Stops.each {xs : List Nat} {f : State → Nat → State} (h : s0.Stops s) (k : ∀ y x, s0.Stops y → s0.Stops (f y x)) :
    s0.Stops (s.each xs f) := List.foldlRecOn xs f h fun y hy x _ => k y x hy

/-- Another queue of work of a core. -/
theorem Stops.setCore (h : s0.Stops s) {p : Nat} {q : SMap (List StreamJob)} {x : ArrayState} :
    s0.Stops (s.setCore p { s.core p with chans := q, arr := x }) := by
  refine h.trans ⟨fun r => ?_, fun _ _ _ => rfl, fun _ => id, fun hn => ⟨hn, rfl⟩⟩
  by_cases hr : p = r
  · subst hr
    exact ⟨q, x, core_setCore_self ..⟩
  · exact ⟨_, _, core_setCore_ne _ _ _ hr⟩

/-- A running core stops. -/
theorem Stops.halt (h : s0.Stops s) {p : Nat} (hp : s.get .CORE_STATUS_STATE p = 1) :
    s0.Stops (s.put .CORE_STATUS_STATE 0 p) := by
  refine h.trans ⟨fun _ => ⟨_, _, rfl⟩, fun f hf i => ?_, fun q hq => ?_, fun hn => ⟨fun sc => ?_, rfl⟩⟩
  · exact s.word_putWord_field (by rintro rfl; revert hf; decide) _ p i
  · have hpq : p ≠ q := by rintro rfl; omega
    rw [put_eq, get_putWord_idx _ _ _ hpq, hq]
  · rw [put_eq, get_putWord_field _ (by decide)]
    exact hn sc

theorem Stops.stopCores (h : s0.Stops s) : s0.Stops s.stopCores := by
  refine h.each fun y p hy => ?_
  extract_lets c z
  have hz : s0.Stops z := (hy.setCore (q := (y.core p).chans)).thenMem ((LeavesMem.refl _).puts (by decide))
  split
  · rename_i hp
    exact hz.halt hp
  · exact hz

theorem Stops.discardWork (h : s0.Stops s) : s0.Stops s.discardWork := h.each fun _ _ hy => hy.setCore

theorem Stops.applyPending (h : s0.Stops s) : s0.Stops s.applyPending :=
  h.trans ((LeavesCores.refl s).applyPending.stops fun hn => by rw [applyPending_of_noCommit hn]; exact ⟨hn, rfl⟩)

theorem Stops.stopJob (h : s0.Stops s) : s0.Stops s.stopJob := by
  have hend (x : State) : x.LeavesMem x.endJob := by
    have h1 : x.LeavesMem ((x.put .RES_STEP_STATE_PHASE 0).put .RES_STEP_STATE_STABLE 0) :=
      ((LeavesMem.refl x).put (by decide)).put (by decide)
    exact h1.other rfl rfl rfl
  exact (h.stopCores.thenMem (hend _)).applyPending

theorem LeavesMem.dropDeferred (h : s0.LeavesMem s) : s0.LeavesMem s.dropDeferred := by
  have h1 : s0.LeavesMem { s with deferred := false, due := false } := h.other rfl rfl rfl
  exact .ite ((h1.put (by decide)).put (by decide)).event h

/-- The class J fault of a trap leaves what the stop of the job leaves. -/
theorem stops_classJ (s : State) (cause region : Nat) : s.Stops (s.classJ cause region) := by
  have hcount : s.LeavesMem (s.addFault.bump .RES_FAULT_COUNT_JOB) :=
    ((LeavesMem.refl s).other rfl rfl rfl : s.LeavesMem s.addFault).put (by decide)
  unfold State.classJ
  split
  · extract_lets stable counted s1 s2 s3 s4
    have h1 : s.LeavesMem s1 := hcount.other rfl rfl rfl
    have h2 : s.LeavesMem s2 := h1.puts (by simp [trapFields])
    have h3 : s.LeavesMem s3 := .ite (h2.put (by decide)) h2
    have h4 : s.LeavesMem s4 := h3.event
    exact h4.stops.discardWork.stopJob.thenMem (LeavesMem.refl _).dropDeferred.raise.alert
  · split
    · exact hcount.stops
    · exact .refl s

/-! ### The trap of a core -/

/-- Core p has trapped between s and t: what the trap records, and what it leaves. -/
structure Traps (s t : State) (p cause slot pc : Nat) : Prop where
  cause : t.get .CORE_TRAP_CAUSE p = cause
  slot : t.get .CORE_TRAP_SLOT p = slot
  pc : t.get .CORE_TRAP_PC_PC p = pc
  state : t.get .CORE_STATUS_STATE p = 3
  sregs : (t.core p).sregs = (s.core p).sregs
  vregs : (t.core p).vregs = (s.core p).vregs
  mem : s.NoCommit → t.mem = s.mem

theorem cores_puts (s : State) (i : Nat) (fs : List (Field × Nat)) : (s.puts i fs).cores = s.cores :=
  List.foldlRecOn (motive := fun x : State => x.cores = s.cores) fs _ rfl fun _ hx _ _ => hx

theorem mem_puts (s : State) (i : Nat) (fs : List (Field × Nat)) : (s.puts i fs).mem = s.mem :=
  List.foldlRecOn (motive := fun x : State => x.mem = s.mem) fs _ rfl fun _ hx _ _ => hx

theorem get_puts_of_notMem (s : State) {f : Field} {i : Nat} {fs : List (Field × Nat)} (hf : f ∉ fs.map Prod.fst) (j : Nat) :
    (s.puts i fs).get f j = s.get f j :=
  List.foldlRecOn (motive := fun x : State => x.get f j = s.get f j) fs _ rfl fun x hx _ hm =>
    (x.get_putWord_field (ne_of_mem_of_not_mem (List.mem_map_of_mem hm) hf) _ _ _).trans hx

/-- Of fields put at once, each once, each holds its value where that fits. -/
theorem get_puts_of_mem (s : State) {f : Field} {v i : Nat} {fs : List (Field × Nat)} (hv : v < 2 ^ f.info.width)
    (hn : (fs.map Prod.fst).Nodup) (hm : (f, v) ∈ fs) : (s.puts i fs).get f i = v := by
  induction fs generalizing s with
  | nil => cases hm
  | cons x fs ih =>
    rw [List.map_cons, List.nodup_cons] at hn
    change ((s.put x.1 x.2 i).puts i fs).get f i = v
    rcases List.mem_cons.mp hm with rfl | hm
    · rw [get_puts_of_notMem _ hn.1, get_put_self, Nat.mod_eq_of_lt hv]
    · exact ih _ hn.2 hm

/-- The trap of a core records its cause, slot and pc, and leaves the core's registers. -/
theorem traps_trap (s : State) {p cause slot info pc : Nat} (hc : cause < 256) (hs : slot < 4) (hp : pc < 4096) :
    s.Traps (s.trap p cause slot info pc) p cause slot pc := by
  unfold State.trap
  extract_lets x
  have hk := stops_classJ x 1 (coreRegion p)
  obtain ⟨q, y, hcore⟩ := hk.core p
  have hword {f : Field} (hf : f ∈ [Field.CORE_TRAP_CAUSE, .CORE_TRAP_SLOT, .CORE_TRAP_PC_PC]) :
      (x.classJ 1 (coreRegion p)).get f p = x.get f p := congrArg BitVec.toNat (hk.word f hf p)
  have hx : x.core p = s.core p := by rw [State.core, State.core, cores_puts]
  rw [hx] at hcore
  refine ⟨(hword (by decide)).trans ?_, (hword (by decide)).trans ?_, (hword (by decide)).trans ?_, hk.trapped p ?_,
    (congrArg CoreState.sregs hcore :), (congrArg CoreState.vregs hcore :), fun hn => ?_⟩
  · exact get_puts_of_mem _ hc (by simp) (by simp)
  · exact get_puts_of_mem _ hs (by simp) (by simp)
  · exact get_puts_of_mem _ hp (by simp) (by simp)
  · exact get_puts_of_mem _ (by decide) (by simp) (by simp)
  · have hnx : x.NoCommit := fun sc => by
      rw [get_puts_of_notMem _ (by simp)]
      exact hn sc
    exact (hk.mem hnx).2.trans (mem_puts ..)

end State
end Sys2Proof.Machine
end

section
/-!
The two ways in which an issue ends in a trap without an error of memory: a check on values that fails (R74, R78, R92,
R327), and a next address past bundle 4095 (R80).
-/
namespace Sys2Proof.Machine

namespace State

/-- The state in which the checks on values are made, with the core's fc and its stalled fc counted (R75, R116). -/
def interlocked (s : State) (p : Nat) (b : Bundle) (c : CoreState) : State :=
  (s.count .CORE_STALLS_COUNT (s.issueAt p b - (s.core p).fc) p).setCore p c

section interlocked
variable (s : State) (p : Nat) (b : Bundle) (c : CoreState)

@[simp] theorem core_interlocked : (s.interlocked p b c).core p = c := core_setCore_self ..

theorem get_interlocked {f : Field} (hf : f ≠ .CORE_STALLS_COUNT) (i : Nat) : (s.interlocked p b c).get f i = s.get f i :=
  get_putWord_field s hf.symm _ p i

@[simp] theorem pc_interlocked : (s.interlocked p b c).pc p = s.pc p := by
  rw [State.pc, State.pc, get_interlocked s p b c (by decide)]

/-- The checks on values see nothing of the interlock. -/
theorem valueTrap_interlocked {d e : CoreState} (hs : d.sregs = e.sregs) (hl : d.loops = e.loops) (ha : d.active = e.active)
    (pc : BitVec 12) (a : Bundle) : (s.interlocked p b c).valueTrap d pc a = s.valueTrap e pc a :=
  valueTrap_congr s _ e d pc a (get_interlocked s p b c (by decide) 0) rfl hs hl ha

end interlocked

variable {s : State} {p : Nat} {b : Bundle}

/-- A check on values that fails traps the core at its pc. -/
theorem issue_of_valueTrap {cause slot info : Nat} (hrun : s.get .CORE_STATUS_STATE p = 1) (henc : s.encodingTrap p b = none)
    (hval : s.valueTrap (s.core p) (s.pc p) (s.actingAt p b) = some (cause, slot, info)) :
    s.issue p b = (s.interlocked p b ((s.core p).atFc (s.issueAt p b))).trap p cause slot info (s.pc p).toNat := by
  have hrun' : ¬ (s.get .CORE_STATUS_STATE p != 1) = true := by simp [hrun]
  have hval' := (s.valueTrap_interlocked p b ((s.core p).atFc (s.issueAt p b)) rfl rfl rfl _ _).trans hval
  unfold State.issue
  rw [if_neg hrun']
  simp only [henc]
  dsimp only [interlocked, issueAt, actingAt] at hval' ⊢
  rw [hval']

theorem readCore_stalls (s : State) (p : Nat) (b : Bundle) :
    (s.readCore p b).stalls (s.actingAt p b) = ((s.core p).beforeStall (s.actingAt p b)).stalls (s.actingAt p b) := by
  rw [readCore, CoreState.beforeStall_fc]
  rfl

theorem readCore_waits (s : State) (p : Nat) (b : Bundle) :
    (s.readCore p b).waits (s.actingAt p b) = (s.core p).waits (s.actingAt p b) := by
  unfold readCore CoreState.beforeStall
  split <;> rfl

/-- A BSYNC that has posted posts no more (R89). -/
theorem syncPost_of_posted {s : State} {p : Nat} {a : Bundle} (h : ∀ x y, a.c = .bsync x y → (s.core p).posted = true) :
    s.syncPost p a = s := by
  unfold syncPost
  split
  · rename_i x y e
    rw [if_pos (h x y e)]
  · rfl

/-- A bundle whose checks and stalls are behind it, and that has no post to make first, takes effect. -/
theorem issue_eq_issueNow (h : s.Passes p b) (hfree : ((s.core p).beforeStall (s.actingAt p b)).stalls (s.actingAt p b) = false)
    (hwaits : (s.core p).waits (s.actingAt p b) = false)
    (hposted : ∀ x y, (s.actingAt p b).c = .bsync x y → (s.core p).posted = true) :
    s.issue p b = (s.interlocked p b (s.readCore p b)).issueNow p (s.actingAt p b) (s.issueAt p b) := by
  obtain ⟨hrun, henc, hval⟩ := h
  have hrun' : ¬ (s.get .CORE_STATUS_STATE p != 1) = true := by simp [hrun]
  have hval' := (s.valueTrap_interlocked p b ((s.core p).atFc (s.issueAt p b)) rfl rfl rfl _ _).trans hval
  have hfree' : ¬ (s.readCore p b).stalls (s.actingAt p b) = true := by simp [readCore_stalls, hfree]
  have hwaits' : ¬ (s.readCore p b).waits (s.actingAt p b) = true := by simp [readCore_waits, hwaits]
  have hsync : (s.interlocked p b (s.readCore p b)).syncPost p (s.actingAt p b) = s.interlocked p b (s.readCore p b) :=
    syncPost_of_posted fun x y e => by
      rw [core_interlocked, readCore, CoreState.beforeStall_fc]
      simp [CoreState.beforeStall, e, hposted x y e, CoreState.atFc]
  unfold State.issue
  rw [if_neg hrun']
  simp only [henc]
  dsimp only [interlocked, issueAt, actingAt, readCore] at hval' hfree' hwaits' hsync ⊢
  simp only [hval', core_setCore_self, setCore_setCore, hsync, if_neg hfree', if_neg hwaits']

/-! ### Past the last bundle (R80) -/

theorem regs_injectAt (s : State) (r i : Nat) (fs : List Flit) : (s.injectAt r i fs).regs = s.regs :=
  List.foldlRecOn (motive := fun x : State => x.regs = s.regs) fs _ rfl fun _ hx _ _ => hx

/-- A post touches one register field alone (R252, R329). -/
theorem get_post (s : State) (p bar : Nat) {f : Field} (hf : f ≠ .CORE_FLAGS_OVF16) (i : Nat) :
    (s.post p bar).get f i = s.get f i := by
  unfold State.post
  extract_lets c s1 atRed v s2 a
  rw [State.get, State.word, regs_injectAt]
  dsimp only [s2]
  split
  · exact get_putWord_field s1 hf.symm _ p i
  · rfl

theorem effects_loops (r : CoreState) (a : Bundle) (pc : BitVec 12) (ld : Word) (line : List Word) (res : List Word × Bool)
    (keep : Bool) :
    (a.a.effect r (a.v.effect r (a.m.effect r (a.c.effect r r ld) pc line) res keep) pc).loops = r.loops ∧
      (a.a.effect r (a.v.effect r (a.m.effect r (a.c.effect r r ld) pc line) res keep) pc).active = r.active := by
  rw [(ArrOp.effect_loops ..).1, (VecOp.effect_loops ..).1, (MoveOp.effect_loops ..).1, (CtlOp.effect_loops ..).1,
    (ArrOp.effect_loops ..).2, (VecOp.effect_loops ..).2, (MoveOp.effect_loops ..).2, (CtlOp.effect_loops ..).2]
  exact ⟨rfl, rfl⟩

/-- A bundle that takes effect without an error or a NaN, and whose next address is past bundle 4095, traps. -/
theorem issueNow_pastLast {s : State} {p : Nat} {a : Bundle} (t : Nat) (hp : p < 27200) (hg : s.NearGood p)
    (hval : s.valueTrap (s.core p) (s.pc p) a = none) (hrun : s.get .CORE_STATUS_STATE p = 1) (hend : a.c ≠ .halt)
    (hnan : (a.v.result (s.core p).vreg (s.core p).sreg (s.on .CORE_CFG_FTZ p) s.free).2 = false)
    (hnext : 4095 < ((s.core p).advance (s.core p) (s.pc p) a.c).2.1) :
    ∃ x : State, s.issueNow p a t = x.trap p 4 0 0 4095 := by
  unfold issueNow
  extract_lets pc r
  rw [slotReads_near s p a hp hg hval _ rfl]
  dsimp -zeta only
  extract_lets ftz res keep c c' s1 s2 s3 s4 s5 c5
  have hl : c.loops = r.loops ∧ c.active = r.active := effects_loops ..
  have hn : 4095 < (c.advance r pc a.c).2.1 := by rwa [CoreState.advance_congr c r r r pc a.c hl.1 hl.2 rfl]
  have hstores : s.slotStores p r a = (s.setMem (s.storeMem p a), none) := slotStores_near s p a hp hg hval _ rfl rfl
  have h3 : s3.get .CORE_STATUS_STATE p = 1 := by
    dsimp only [s3, s2, s1, setPc, count]
    rw [put_eq, get_putWord_field _ (by decide), put_eq, get_putWord_field _ (by decide),
      get_puts_of_notMem _ (by decide), get_setCore, hstores]
    exact hrun
  have h5 : s5.get .CORE_STATUS_STATE p = 1 := by
    have h4 : s4.get .CORE_STATUS_STATE p = 1 := by
      dsimp only [s4]
      split
      · rw [get_post _ _ _ (by decide), h3]
      · exact h3
    dsimp only [s5]
    rw [if_neg (by rw [hnan]; decide)]
    exact h4
  refine ⟨s5, ?_⟩
  rw [hstores]
  dsimp only
  rw [if_neg (by simp [h5]), if_neg hend, if_pos hn]

end State

/-- Outside every loop the bundle after one with no control flow of its own is the next one (R79). -/
theorem CoreState.advance_next {c r : CoreState} {pc : BitVec 12} {op : CtlOp} (ha : c.active = []) (hbr : ∀ x, op ≠ .br x)
    (hloop : ∀ x y z w, op ≠ .loop x y z w) : (c.advance r pc op).2.1 = pc.toNat + 1 := by
  have hend : (c.loopEnd pc.toNat 5).2 = pc.toNat + 1 := by simp [loopEnd, ha]
  unfold advance
  split
  · rename_i x
    exact absurd rfl (hbr x)
  · rename_i x y z w
    exact absurd rfl (hloop x y z w)
  · exact hend

/-- A LOOP of count 0 goes on after its end (R84). -/
theorem CoreState.advance_skip (c r : CoreState) (pc : BitVec 12) (ln : BitVec 2) (last : BitVec 12) :
    (c.advance r pc (.loop ln false 0 last)).2.1 = last.toNat + 1 := rfl

theorem State.NearGood.interlocked {s : State} {p : Nat} {b : Bundle} {c : CoreState} (h : s.NearGood p) :
    (s.interlocked p b c).NearGood p := h

/-- A bundle that is past its checks and stalls without an error or a NaN, and whose next address is past bundle 4095,
traps. -/
theorem State.issue_pastLast {s : State} {p : Nat} {b : Bundle} (hp : p < 27200) (h : s.Passes p b) (hg : s.NearGood p)
    (hfree : ((s.core p).beforeStall (s.actingAt p b)).stalls (s.actingAt p b) = false)
    (hwaits : (s.core p).waits (s.actingAt p b) = false)
    (hposted : ∀ x y, (s.actingAt p b).c = .bsync x y → (s.core p).posted = true)
    (hnan : (s.vecResult p (s.actingAt p b).v).2 = false) (hend : (s.actingAt p b).c ≠ .halt)
    (hnext : 4095 < s.nextPc p b) : ∃ x : State, s.issue p b = x.trap p 4 0 0 4095 := by
  rw [issue_eq_issueNow h hfree hwaits hposted]
  obtain ⟨hrun, henc, hval⟩ := h
  obtain ⟨hs, -, hv, hl, -⟩ := readCore_parts s p b
  have ha : (s.readCore p b).active = (s.core p).active := (CoreState.beforeStall_parts _ _).2.2.2.2
  refine issueNow_pastLast _ hp hg.interlocked ?_ ?_ hend ?_ ?_
  · rw [core_interlocked, pc_interlocked, valueTrap_interlocked s p b _ hs hl ha]
    exact hval
  · rw [get_interlocked s p b _ (by decide)]
    exact hrun
  · rw [core_interlocked, CoreState.vreg_congr hv, CoreState.sreg_congr hs]
    have hftz : (s.interlocked p b (s.readCore p b)).on .CORE_CFG_FTZ p = s.on .CORE_CFG_FTZ p := by
      rw [on_eq, on_eq, get_interlocked s p b _ (by decide)]
    rw [hftz]
    exact hnan
  · rw [core_interlocked, pc_interlocked, CoreState.advance_congr _ (s.core p) _ (s.core p) _ _ hl ha hs]
    exact hnext

/-- Settles O17: at either of the two next addresses past bundle 4095 the issue ends in the trap of R80. -/
theorem pastLastBundleTraps : Obligations.PastLastBundleTraps := by
  unfold Obligations.PastLastBundleTraps
  intro i s p b hrow hpass hg c a hfree hwaits hposted hnan hlast
  have hnext : s.nextPc p.no b = 4096 ∧ a.c ≠ .halt := by
    rcases hlast with ⟨hpc, hact, hbr, hloop, hend⟩ | ⟨⟨ln, hc⟩, -⟩
    · have hadv : s.nextPc p.no b = (s.pc p.no).toNat + 1 := CoreState.advance_next hact hbr hloop
      exact ⟨by rw [hadv, hpc], hend⟩
    · have hc' : (s.actingAt p.no b).c = .loop ln false 0 4095 := hc
      exact ⟨by rw [State.nextPc, hc', CoreState.advance_skip]; rfl, by rw [hc]; nofun⟩
  obtain ⟨x, hx⟩ := State.issue_pastLast (PCore.no_lt p) hpass hg hfree hwaits hposted hnan hnext.2 (by rw [hnext.1]; decide)
  have ht := x.traps_trap (p := p.no) (cause := 4) (slot := 0) (info := 0) (pc := 4095) (by decide) (by decide) (by decide)
  exact ⟨_, by rw [exec_bundle s i p b hrow, hx], ht.cause, ht.pc, ht.state⟩

end Sys2Proof.Machine
end

section
/-!
Words as bytes in near SRAM and lanes in vector registers (R71, R78, R92): what a range read answers, byte by byte, and
the two directions between little-endian bytes and words.
-/
namespace Sys2Proof.Machine

/-! ### Ranges of a sparse map -/

/-- A walk passes a key below all those of the map. -/
theorem mspread_skip {α : Type} (d : α) {k : Nat} (n : Nat) {m : SMap α} (h : ∀ e ∈ m, k < e.1) :
    mspread d k (n + 1) m = d :: mspread d (k + 1) n m := by
  cases m with
  | nil => rfl
  | cons e m =>
    have hk : e.1 ≠ k := (h e List.mem_cons_self).ne'
    rw [mspread, if_neg hk]

/-- A walk over a map with rising keys meets every key's value. -/
theorem mspread_getD {α : Type} (d : α) (n : Nat) : ∀ (k : Nat) (m : SMap α), m.Pairwise (fun a b => a.1 < b.1) →
    (∀ e ∈ m, k ≤ e.1) → ∀ i < n, (mspread d k n m).getD i d = mget d m (k + i) := by
  induction n with
  | zero => intro k m _ _ i hi; omega
  | succ n ih =>
    intro k m hm hk i hi
    by_cases hhead : ∀ e ∈ m, k < e.1
    · -- the map starts above k
      rw [mspread_skip d n hhead]
      cases i with
      | zero =>
        have habs : m.any (fun e => e.1 = k) = false := by
          rw [List.any_eq_false]
          intro e he
          simp [(hhead e he).ne']
        exact (mget_absent d m k habs).symm
      | succ i =>
        rw [List.getD_cons_succ, ih (k + 1) m hm hhead i (by omega), Nat.add_right_comm, Nat.add_assoc]
    · -- its first key is k
      cases m with
      | nil => exact absurd (by simp) hhead
      | cons e m =>
        obtain ⟨j, v⟩ := e
        rw [List.pairwise_cons] at hm
        have hj : j = k := by
          by_contra hne
          have hkj : k < j := Nat.lt_of_le_of_ne (hk _ List.mem_cons_self) (Ne.symm hne)
          exact hhead (List.forall_mem_cons.mpr ⟨hkj, fun e he => hkj.trans (hm.1 e he)⟩)
        subst hj
        cases i with
        | zero => simp [mspread, mget]
        | succ i =>
          have hrest := ih (j + 1) m hm.2 (fun e he => hm.1 e he) i (by omega)
          simpa [mspread, mget, Nat.add_assoc, Nat.add_comm 1 i] using hrest

/-- A range read of a map in its canonical form answers every key's value. -/
theorem mgetRange_getD {α : Type} [DecidableEq α] {d : α} {m : SMap α} (h : mwf d m = true) (k n : Nat) {i : Nat} (hi : i < n) :
    (mgetRange d m k n).getD i d = mget d m (k + i) := by
  have hw := ((mwf_iff d m).mp h).1
  rw [mgetRange, mspread_getD d n k _ (hw.filter _) (by simp; omega) i hi,
    mget_filter d m (fun x => decide (k ≤ x) && decide (x < k + n))]
  simp [hi]

theorem memRead_getD {m : List Host.Cell} (h : Memory.wf m = true) (a n : Nat) {i : Nat} (hi : i < n) :
    (memRead m a n).getD i 0 = memByte m (a + i) := mgetRange_getD h a n hi

theorem mspread_mcells {α : Type} [DecidableEq α] (d : α) (vs : List α) : ∀ k : Nat,
    mspread d k vs.length (mcells d k vs) = vs := by
  induction vs with
  | nil => intro k; rfl
  | cons v vs ih =>
    intro k
    rw [mcells]
    split
    · rename_i hv
      rw [List.length_cons, mspread_skip d _ fun e he => (mcells_keys d (k + 1) vs e he).1, ih, hv]
    · simp [mspread, ih]

/-- A range holds the values written to it. -/
theorem mgetRange_msetRange_same {α : Type} [DecidableEq α] (d : α) (m : SMap α) (k : Nat) (vs : List α) :
    mgetRange d (msetRange d m k vs) k vs.length = vs := by
  have hcells : (mcells d k vs).filter (fun e => decide (k ≤ e.1) && decide (e.1 < k + vs.length)) = mcells d k vs :=
    List.filter_eq_self.mpr fun e he => by simpa using mcells_keys d k vs e he
  have hbelow : m.filter (fun e => (decide (k ≤ e.1) && decide (e.1 < k + vs.length)) && decide (e.1 < k)) = [] :=
    List.filter_eq_nil_iff.mpr fun e _ => by simp; omega
  have habove : m.filter (fun e => (decide (k ≤ e.1) && decide (e.1 < k + vs.length)) && decide (k + vs.length ≤ e.1)) = [] :=
    List.filter_eq_nil_iff.mpr fun e _ => by simp
  rw [mgetRange, msetRange, List.filter_append, List.filter_append, hcells, List.filter_filter, List.filter_filter, hbelow,
    habove, List.nil_append, List.append_nil, mspread_mcells]

/-- A range apart from the one written holds what it held. -/
theorem mgetRange_msetRange_disjoint {α : Type} [DecidableEq α] (d : α) (m : SMap α) (k : Nat) (vs : List α) {j n : Nat}
    (h : j + n ≤ k ∨ k + vs.length ≤ j) : mgetRange d (msetRange d m k vs) j n = mgetRange d m j n := by
  have hcells : (mcells d k vs).filter (fun e => decide (j ≤ e.1) && decide (e.1 < j + n)) = [] :=
    List.filter_eq_nil_iff.mpr fun e he => by
      have := mcells_keys d k vs e he
      simp; omega
  rw [mgetRange, mgetRange, msetRange, List.filter_append, List.filter_append, hcells, List.nil_append, List.filter_filter,
    List.filter_filter]
  congr 1
  rcases h with h | h
  · have habove : m.filter (fun e => (decide (j ≤ e.1) && decide (e.1 < j + n)) && decide (k + vs.length ≤ e.1)) = [] :=
      List.filter_eq_nil_iff.mpr fun e _ => by simp; omega
    rw [habove, List.append_nil]
    exact List.filter_congr fun e _ => by rw [Bool.eq_iff_iff]; simp; omega
  · have hbelow : m.filter (fun e => (decide (j ≤ e.1) && decide (e.1 < j + n)) && decide (e.1 < k)) = [] :=
      List.filter_eq_nil_iff.mpr fun e _ => by simp; omega
    rw [hbelow, List.nil_append]
    exact List.filter_congr fun e _ => by rw [Bool.eq_iff_iff]; simp; omega

/-! ### Vector registers -/

theorem CoreState.vreg_setVreg_same (c : CoreState) (v : VReg) {xs : List Word} (h : xs.length = 128) :
    (c.setVreg v xs).vreg v = xs := by
  have hrange := mgetRange_msetRange_same 0 c.vregs (v.toNat * 128) xs
  rw [h] at hrange
  rw [setVreg, vreg, List.take_of_length_le h.le, hrange]

theorem CoreState.vreg_setVreg_ne (c : CoreState) {v r : VReg} (h : r ≠ v) (xs : List Word) :
    (c.setVreg v xs).vreg r = c.vreg r := by
  have hne : r.toNat ≠ v.toNat := fun e => h (BitVec.eq_of_toNat_eq e)
  have hlen : (xs.take 128).length ≤ 128 := List.length_take_le _ _
  exact mgetRange_msetRange_disjoint 0 c.vregs _ _ (by omega)

/-! ### Words and bytes -/

/-- Byte i of a word, little-endian. -/
theorem leBytes_getD (n v : Nat) {i : Nat} (hi : i < n) : (leBytes n v).getD i 0 = BitVec.ofNat 8 (v / 256 ^ i) := by
  induction n generalizing v i with
  | zero => omega
  | succ n ih =>
    cases i with
    | zero => simp [leBytes]
    | succ i => rw [leBytes, List.getD_cons_succ, ih _ (by omega), Nat.div_div_eq_div_mul, ← Nat.pow_succ']

theorem leBytes_word_getD (w : Word) {i : Nat} (hi : i < 4) : (leBytes 4 w.toNat).getD i 0 = w.extractLsb' (i * 8) 8 := by
  rw [leBytes_getD 4 _ hi, BitVec.extractLsb', Nat.shiftRight_eq_div_pow, Nat.mul_comm, Nat.pow_mul]

/-- Byte j of a list of words: byte j mod 4 of word j / 4. -/
theorem bytesOf_getD (ws : List Word) {j : Nat} (hj : j < 4 * ws.length) :
    (bytesOf ws).getD j 0 = (ws.getD (j / 4) 0).extractLsb' (j % 4 * 8) 8 := by
  induction ws generalizing j with
  | nil => simp at hj
  | cons w ws ih =>
    rw [List.length_cons] at hj
    rw [bytesOf, List.flatMap_cons, ← bytesOf]
    by_cases h4 : j < 4
    · rw [List.getD_append _ _ _ _ (by simpa using h4), leBytes_word_getD w h4, Nat.div_eq_of_lt h4, Nat.mod_eq_of_lt h4]
      rfl
    · obtain ⟨i, rfl⟩ : ∃ i, j = i + 4 := ⟨j - 4, by omega⟩
      rw [List.getD_append_right _ _ _ _ (by simp), leBytes_length, Nat.add_sub_cancel, ih (by omega),
        Nat.add_div_right _ (by decide), Nat.add_mod_right]
      rfl

/-- Word i of a list of bytes: its four bytes, the first one lowest. -/
theorem wordsOf_getD (n : Nat) : ∀ (bs : List Byte), bs.length = 4 * n → (wordsOf bs).length = n ∧ ∀ i < n,
    (wordsOf bs).getD i 0 = bs.getD (4 * i + 3) 0 ++ bs.getD (4 * i + 2) 0 ++ bs.getD (4 * i + 1) 0 ++ bs.getD (4 * i) 0 := by
  induction n with
  | zero =>
    intro bs h
    obtain rfl := List.length_eq_zero_iff.mp h
    exact ⟨rfl, fun i hi => by omega⟩
  | succ n ih =>
    intro bs h
    match bs, h with
    | a :: b :: c :: d :: r, h =>
      obtain ⟨hlen, hget⟩ := ih r (by simp only [List.length_cons] at h; omega)
      refine ⟨by rw [wordsOf, List.length_cons, hlen], fun i hi => ?_⟩
      cases i with
      | zero => rfl
      | succ i => exact hget i (by omega)

end Sys2Proof.Machine
end

section
/-!
LDW, STW, VLD and VST in a bundle whose other slots hold NOPs: the bytes and lanes they move, and their traps.
-/
namespace Sys2Proof.Machine

/-! ### A bundle with one slot in use -/

section alone
variable {s : State} {p : PCore} {g : Guard}

theorem State.Alone.withCtl (h : s.Alone p) (op : CtlOp) : s.withCtl p g op = { cg := g, c := op } := by
  rw [State.withCtl, show s.bundleAt p.no = {} from h]

theorem State.Alone.withMove (h : s.Alone p) (op : MoveOp) : s.withMove p g op = { mg := g, m := op } := by
  rw [State.withMove, show s.bundleAt p.no = {} from h]

theorem State.Alone.acting_ctl (h : s.Alone p) (hg : (s.core p.no).guard g = true) (op : CtlOp) :
    s.actingAt p.no (s.withCtl p g op) = { cg := g, c := op } := by
  simp [State.actingAt, h.withCtl, Bundle.acting, hg]

theorem State.Alone.acting_move (h : s.Alone p) (hg : (s.core p.no).guard g = true) (op : MoveOp) :
    s.actingAt p.no (s.withMove p g op) = { mg := g, m := op } := by
  simp [State.actingAt, h.withMove, Bundle.acting, hg]

end alone

/-! ### What they move -/

/-- VST's bytes, byte j of the 512: byte j mod 4 of lane j / 4. -/
theorem State.memByte_vst (s : State) (p : Nat) (vs : VReg) (a : SReg) (imm : BitVec 11) (y : Nat) :
    let x := nearAddr p (moveAddr (s.core p) a imm)
    memByte (s.vstMem p (.vst vs a imm)) y = if x ≤ y ∧ y < x + 512
      then (((s.core p).vreg vs).getD ((y - x) / 4) 0).extractLsb' ((y - x) % 4 * 8) 8 else memByte s.mem y := by
  intro x
  have hlen : (bytesOf ((s.core p).vreg vs)).length = 512 := by rw [bytesOf_length, CoreState.vreg_length]
  rw [State.vstMem, memByte_memWrite, hlen]
  refine if_ctx_congr Iff.rfl (fun h => ?_) fun _ => rfl
  exact bytesOf_getD _ (by rw [CoreState.vreg_length]; omega)

/-- STW's bytes. -/
theorem memByte_stw (m : List Host.Cell) (x : Nat) (w : Word) (y : Nat) :
    memByte (memWrite m x (leBytes 4 w.toNat)) y =
      if x ≤ y ∧ y < x + 4 then w.extractLsb' ((y - x) * 8) 8 else memByte m y := by
  rw [memByte_memWrite, leBytes_length]
  exact if_ctx_congr Iff.rfl (fun h => leBytes_word_getD w (by omega)) fun _ => rfl

/-- VLD's lanes: lane i from bytes 4i to 4i + 3. -/
theorem State.vldLine_getD (s : State) (p : Nat) (hwf : Memory.wf s.mem = true) (vd : VReg) (a : SReg) (imm : BitVec 11) :
    let x := nearAddr p (moveAddr (s.core p) a imm)
    (s.vldLine p (.vld vd a imm)).length = 128 ∧ ∀ i < 128, (s.vldLine p (.vld vd a imm)).getD i 0 =
      memByte s.mem (x + 4 * i + 3) ++ memByte s.mem (x + 4 * i + 2) ++ memByte s.mem (x + 4 * i + 1) ++
        memByte s.mem (x + 4 * i) := by
  intro x
  obtain ⟨hlen, hget⟩ := wordsOf_getD 128 (memRead s.mem x 512) (mgetRange_length ..)
  refine ⟨hlen, fun i hi => ?_⟩
  have hbyte (k : Nat) (hk : k < 4) : (memRead s.mem x 512).getD (4 * i + k) 0 = memByte s.mem (x + 4 * i + k) := by
    rw [memRead_getD hwf _ _ (by omega), Nat.add_assoc]
  have h0 := hbyte 0 (by decide)
  have h1 := hbyte 1 (by decide)
  have h2 := hbyte 2 (by decide)
  have h3 := hbyte 3 (by decide)
  rw [State.vldLine, hget i hi, h3, h2, h1]
  rw [Nat.add_zero, Nat.add_zero] at h0
  rw [h0]

section alone
variable {s : State} {p : PCore} {g : Guard}

theorem State.Alone.exec_stw {src a : SReg} {imm : BitVec 12} (h : s.Alone p) (hi : s.CtlIssues p g (.stw src a imm)) :
    let x := nearAddr p.no (ctlAddr (s.core p.no) a imm)
    ∃ t, exec (.stw p g src a imm) s = .next t ∧ ∀ y, memByte t.mem y =
      if x ≤ y ∧ y < x + 4 then ((s.core p.no).sreg src).extractLsb' ((y - x) * 8) 8 else memByte s.mem y := by
  obtain ⟨hguard, hissues⟩ := hi
  have hact := h.acting_ctl hguard (.stw src a imm)
  refine ⟨_, exec_ctl s _ p g _ rfl, fun y => ?_⟩
  rw [State.issue_mem (PCore.no_lt p) hissues (by rw [hact]; rfl), hact]
  exact memByte_stw ..

theorem State.Alone.exec_vst {vs : VReg} {a : SReg} {imm : BitVec 11} (h : s.Alone p) (hi : s.MoveIssues p g (.vst vs a imm)) :
    let x := nearAddr p.no (moveAddr (s.core p.no) a imm)
    ∃ t, exec (.vst p g vs a imm) s = .next t ∧ ∀ y, memByte t.mem y = if x ≤ y ∧ y < x + 512
      then (((s.core p.no).vreg vs).getD ((y - x) / 4) 0).extractLsb' ((y - x) % 4 * 8) 8 else memByte s.mem y := by
  obtain ⟨hguard, hissues⟩ := hi
  have hact := h.acting_move hguard (.vst vs a imm)
  refine ⟨_, exec_move s _ p g _ rfl rfl, fun y => ?_⟩
  rw [State.issue_mem (PCore.no_lt p) hissues (by rw [hact]; rfl), hact]
  exact s.memByte_vst ..

/-- VLD writes the lanes it read to its register alone, and leaves memory. -/
theorem State.Alone.exec_vld {vd : VReg} {a : SReg} {imm : BitVec 11} (h : s.Alone p) (hi : s.MoveIssues p g (.vld vd a imm)) :
    ∃ t, exec (.vld p g vd a imm) s = .next t ∧ t.mem = s.mem ∧
      (t.core p.no).vreg = ((s.core p.no).setVreg vd (s.vldLine p.no (.vld vd a imm))).vreg := by
  obtain ⟨hguard, hissues⟩ := hi
  have hact := h.acting_move hguard (.vld vd a imm)
  have hreach : (s.actingAt p.no (s.withMove p g (.vld vd a imm))).reaches = false := by rw [hact]; rfl
  refine ⟨_, exec_move s _ p g _ rfl rfl, ?_, ?_⟩
  · rw [State.issue_mem (PCore.no_lt p) hissues hreach, hact]
    rfl
  · rw [State.issue_core (PCore.no_lt p) hissues hreach]
    refine CoreState.vreg_congr ?_
    rw [State.coreAfter_vregs, hact]
    rfl

end alone

/-! ### Their traps -/

/-- A check on values that fails answers a state in which the core has trapped. -/
theorem State.traps_of_valueTrap {s : State} {i : Instr} {p : PCore} {b : Bundle} {cause slot info : Nat}
    (hrow : bundleRow s i = some (p, b)) (hrun : s.get .CORE_STATUS_STATE p.no = 1) (henc : s.encodingTrap p.no b = none)
    (hval : s.valueTrap (s.core p.no) (s.pc p.no) (s.actingAt p.no b) = some (cause, slot, info)) (hc : cause < 256)
    (hs : slot < 4) : ∃ t, exec i s = .next t ∧ s.Traps t p.no cause slot (s.pc p.no).toNat := by
  have h := traps_trap (s.interlocked p.no b ((s.core p.no).atFc (s.issueAt p.no b))) (p := p.no) (info := info) hc hs
    (s.pc p.no).isLt
  have hn (k : s.NoCommit) : (s.interlocked p.no b ((s.core p.no).atFc (s.issueAt p.no b))).NoCommit := fun sc => by
    rw [get_interlocked _ _ _ _ (by decide)]
    exact k sc
  refine ⟨_, by rw [exec_bundle s i p b hrow, issue_of_valueTrap hrun henc hval], ?_⟩
  exact {
    cause := h.cause
    slot := h.slot
    pc := h.pc
    state := h.state
    sregs := by rw [h.sregs, core_interlocked]; rfl
    vregs := by rw [h.vregs, core_interlocked]; rfl
    mem := fun k => h.mem (hn k) }

theorem State.encodingTrap_ctl (s : State) (p : Nat) (g : Guard) (op : CtlOp) :
    s.encodingTrap p { cg := g, c := op } = s.ctlEncoding p op := by
  simp [encodingTrap, MoveOp.encoding, VecOp.encoding, VecOp.reserved, ArrOp.encoding]

theorem State.encodingTrap_move (s : State) (p : Nat) (g : Guard) (op : MoveOp) :
    s.encodingTrap p { mg := g, m := op } = op.encoding := by
  simp [encodingTrap, ctlEncoding, VecOp.encoding, VecOp.reserved, ArrOp.encoding]

theorem State.valueTrap_ctl (s : State) (c : CoreState) (pc : BitVec 12) (g : Guard) (op : CtlOp) :
    s.valueTrap c pc { cg := g, c := op } = s.ctlValue c pc op := by
  simp [valueTrap, Bundle.doubleWrite, VecOp.writes, VecOp.dest, moveValue, arrValue]

theorem State.valueTrap_move (s : State) (c : CoreState) (pc : BitVec 12) (g : Guard) (op : MoveOp) :
    s.valueTrap c pc { mg := g, m := op } = s.moveValue c op := by
  simp [valueTrap, Bundle.doubleWrite, VecOp.writes, VecOp.dest, ctlValue, arrValue]

section alone
variable {s : State} {p : PCore} {g : Guard} {i : Instr}

/-- A control slot in use alone traps where its check on values fails. -/
theorem State.Alone.traps_ctl {op : CtlOp} (h : s.Alone p) (hrun : s.get .CORE_STATUS_STATE p.no = 1)
    (hg : (s.core p.no).guard g = true) (hrow : ctlRow i = some (p, g, op)) (henc : s.ctlEncoding p.no op = none)
    (hval : s.ctlValue (s.core p.no) (s.pc p.no) op = some (8, 0, 0)) :
    ∃ t, exec i s = .next t ∧ s.Traps t p.no 8 0 (s.pc p.no).toNat := by
  refine traps_of_valueTrap (b := s.withCtl p g op) (info := 0) (by rw [bundleRow, hrow]; rfl) hrun ?_ ?_ (by decide) (by decide)
  · rw [h.withCtl, encodingTrap_ctl, henc]
  · rw [h.acting_ctl hg, valueTrap_ctl, hval]

/-- The same of the move slot. -/
theorem State.Alone.traps_move {op : MoveOp} (h : s.Alone p) (hrun : s.get .CORE_STATUS_STATE p.no = 1)
    (hg : (s.core p.no).guard g = true) (hctl : ctlRow i = none) (hrow : moveRow i = some (p, g, op))
    (henc : op.encoding = none) (hval : s.moveValue (s.core p.no) op = some (8, 1, 0)) :
    ∃ t, exec i s = .next t ∧ s.Traps t p.no 8 1 (s.pc p.no).toNat := by
  refine traps_of_valueTrap (b := s.withMove p g op) (info := 0) (by rw [bundleRow, hctl, hrow]; rfl) hrun ?_ ?_ (by decide)
    (by decide)
  · rw [h.withMove, encodingTrap_move, henc]
  · rw [h.acting_move hg, valueTrap_move, hval]

end alone

section bad
variable {s : State} {c : CoreState} {a : SReg}

/-- The check of an address: a multiple of its size, and below 1 MiB (R78, R92). -/
theorem nearCheck_bad {x k : Nat} (h : x % k ≠ 0 ∨ 0x100000 ≤ x) : (decide (x % k = 0) && decide (x < nearSize)) = false := by
  rcases h with h | h
  · simp [h]
  · simp [nearSize, Nat.not_lt.mpr h]

theorem State.ctlValue_ldw_bad {imm : BitVec 12} (h : ctlAddr c a imm % 4 ≠ 0 ∨ 0x100000 ≤ ctlAddr c a imm) (pc : BitVec 12)
    (d : SReg) : s.ctlValue c pc (.ldw d a imm) = some (8, 0, 0) := by
  simp [ctlValue, nearCheck_bad h]

theorem State.ctlValue_stw_bad {imm : BitVec 12}
    (h : (ctlAddr c a imm % 4 ≠ 0 ∨ 0x100000 ≤ ctlAddr c a imm) ∨ s.pageHit (ctlAddr c a imm) 4 = true) (pc : BitVec 12)
    (src : SReg) : s.ctlValue c pc (.stw src a imm) = some (8, 0, 0) := by
  rcases h with h | h
  · simp [ctlValue, nearCheck_bad h]
  · simp [ctlValue, h]

theorem State.moveValue_vld_bad {imm : BitVec 11} (h : moveAddr c a imm % 512 ≠ 0 ∨ 0x100000 ≤ moveAddr c a imm) (vd : VReg) :
    s.moveValue c (.vld vd a imm) = some (8, 1, 0) := by
  simp [moveValue, nearCheck_bad h]

theorem State.moveValue_vst_bad {imm : BitVec 11}
    (h : (moveAddr c a imm % 512 ≠ 0 ∨ 0x100000 ≤ moveAddr c a imm) ∨ s.pageHit (moveAddr c a imm) 512 = true) (vs : VReg) :
    s.moveValue c (.vst vs a imm) = some (8, 1, 0) := by
  rcases h with h | h
  · simp [moveValue, nearCheck_bad h]
  · simp [moveValue, h]

theorem State.pageHit_of {off n : Nat} (hplan : s.hasPlan = true) (hlo : off < s.get .NUM_PAGE_ADDR + 64)
    (hhi : s.get .NUM_PAGE_ADDR < off + n) : s.pageHit off n = true := by
  simp [pageHit, hplan, hlo, hhi]

end bad

/-- Settles O10: the bytes and lanes by the laws of an issue, the traps by the failing check on values. -/
theorem nearSramAccesses : Obligations.NearSramAccesses := by
  unfold Obligations.NearSramAccesses
  refine ⟨fun s p g a halone => ⟨fun src imm => halone.exec_stw, fun vs imm => halone.exec_vst, ?_⟩, ?_⟩
  · intro vd imm hwf hissues x
    obtain ⟨hlen, hline⟩ := s.vldLine_getD p.no hwf vd a imm
    obtain ⟨t, ht, hmem, hvreg⟩ := halone.exec_vld hissues
    refine ⟨t, ht, fun i hi => ?_, fun y => by rw [hmem], fun r hr => ?_⟩
    · rw [hvreg, CoreState.vreg_setVreg_same _ _ hlen]
      exact hline i hi
    · rw [hvreg, CoreState.vreg_setVreg_ne _ hr]
  · intro s p g a halone hrun hguard c traps
    have of {i : Instr} {slot : Nat} : (∃ t, exec i s = .next t ∧ s.Traps t p.no 8 slot (s.pc p.no).toNat) → traps i slot :=
      fun ⟨t, ht, h⟩ => ⟨t, ht, h.cause, h.slot, h.pc, h.state, h.sregs, h.vregs, fun hn y => by rw [h.mem hn]⟩
    have ldw (imm : BitVec 12) (d : SReg) (h : s.ctlValue c (s.pc p.no) (.ldw d a imm) = some (8, 0, 0)) :
        traps (.ldw p g d a imm) 0 := of (halone.traps_ctl hrun hguard rfl rfl h)
    have stw (imm : BitVec 12) (src : SReg) (h : s.ctlValue c (s.pc p.no) (.stw src a imm) = some (8, 0, 0)) :
        traps (.stw p g src a imm) 0 := of (halone.traps_ctl hrun hguard rfl rfl h)
    have vld (imm : BitVec 11) (vd : VReg) (h : s.moveValue c (.vld vd a imm) = some (8, 1, 0)) :
        traps (.vld p g vd a imm) 1 := of (halone.traps_move hrun hguard rfl rfl rfl h)
    have vst (imm : BitVec 11) (vs : VReg) (h : s.moveValue c (.vst vs a imm) = some (8, 1, 0)) :
        traps (.vst p g vs a imm) 1 := of (halone.traps_move hrun hguard rfl rfl rfl h)
    refine ⟨fun imm h => ⟨fun d => ldw imm d (State.ctlValue_ldw_bad h _ d), fun src => stw imm src ?_⟩,
      fun imm h => ⟨fun vd => vld imm vd (State.moveValue_vld_bad h vd), fun vs => vst imm vs ?_⟩, ?_⟩
    · exact State.ctlValue_stw_bad (.inl h) _ src
    · exact State.moveValue_vst_bad (.inl h) vs
    · intro touches
      exact ⟨fun imm ⟨hplan, hlo, hhi⟩ src =>
          stw imm src (State.ctlValue_stw_bad (.inr (State.pageHit_of hplan hlo hhi)) _ src),
        fun imm ⟨hplan, hlo, hhi⟩ vs =>
          vst imm vs (State.moveValue_vst_bad (.inr (State.pageHit_of hplan hlo hhi)) vs)⟩

end Sys2Proof.Machine
end

section
/-!
O12 fails: `State.Issues` asks that no wait is unfulfilled as the step begins, but a BSYNC that has not posted posts in that
step and then waits for the release (R89), so that a STRM beside it stalls with its bundle and queues nothing.
-/
namespace Sys2Proof.Machine

/-- An image that gives core 0 barrier 0, as a member that posts. -/
def syncImage : Image := { Image.blank (parseHeader []) with members := [⟨0, false, ⟨0, 0, 0⟩, false⟩] }

/-- Core 0 runs; the bundle at its pc 0 holds a BSYNC of barrier 0 (opcode 0x22) in the control slot, and none has been
posted. -/
def syncState : State :=
  { (State.reset.put .CORE_STATUS_STATE 1 0).setCore 0 { istore := [(0, BitVec.ofNat 128 (0x22 * 2 ^ 22))] } with
    image := some syncImage }

/-- Physical core 0. -/
def syncCore : PCore := ⟨0, 0, 0⟩

theorem syncState_moveIssues : syncState.MoveIssues syncCore 0 (.strm 0 0 0 0) :=
  ⟨by decide +kernel,
   { running := by decide +kernel
     encoding := by decide +kernel
     value := by decide +kernel
     free := by decide +kernel
     released := by decide +kernel
     nearGood := fun _ _ => rfl
     noNan := by decide +kernel
     inRange := by decide +kernel }⟩

/-- The STRM's bundle stalls in the BSYNC's wait, and the channel stays empty. -/
theorem syncState_strm_stalls : ∃ t, exec (.strm syncCore 0 0 0 0 0) syncState = .next t ∧
    t.get .CORE_STATUS_IN_BWAIT syncCore.no = 1 ∧ (t.core syncCore.no).chan 0 = [] :=
  ⟨_, exec_move syncState _ syncCore 0 (.strm 0 0 0 0) rfl rfl, by decide +kernel, by decide +kernel⟩

/-- Refutes O12: a STRM in one bundle with a BSYNC that has yet to post is not queued in the step that posts. -/
theorem not_descriptorTables : ¬ Obligations.DescriptorTables := by
  unfold Obligations.DescriptorTables
  rintro ⟨-, -, hqueues⟩
  obtain ⟨t, j, ht, hchan, -⟩ := (hqueues syncState syncCore 0).1 0 0 0 0 syncState_moveIssues
  obtain ⟨u, hu, -, hempty⟩ := syncState_strm_stalls
  obtain rfl : u = t := by
    rw [ht] at hu
    exact (Host.Outcome.next.inj hu).symm
  exact List.append_ne_nil_of_right_ne_nil _ (List.cons_ne_nil j []) (hchan.symm.trans hempty)

end Sys2Proof.Machine
end
